-- ==== Sys2Proof/Word.lean ====
section
/-!
DEFINITION. Word.lean: the machine's word types and the sparse store they are kept in.
-/
namespace Sys2Proof

/-- An 8-bit byte. -/
abbrev Byte := BitVec 8

/-- A 32-bit word: a control register, a command word, a stagehand scalar (R10, R71, R133). -/
abbrev Word := BitVec 32

/-- A sparse store: (key, value) pairs, keys rising, no pair equal to the store's default value. -/
abbrev Sparse (α : Type) := List (Nat × α)

end Sys2Proof
end

