-- ==== Sys2Proof/Syntax.lean ====
section
/-!
DEFINITION. Syntax.lean: the commands of the block, one constructor of Instr per row of spec/opcode_table.json,
with the data a command carries. Units are named by bounded numbers, so no command can name a unit the die lacks.
-/
namespace Sys2Proof

/-- A direction of the revolve (R38). -/
inductive Dir where
  | cw | ccw
deriving DecidableEq, Repr

/-- What a SECDED check found in the data that an arrival brings (R44, R173): bit errors come from outside. -/
inductive Ecc where
  /-- no error -/
  | clean
  /-- one bit per group, corrected and counted -/
  | corrected
  /-- an uncorrectable data group -/
  | badData
  /-- an uncorrectable group that holds the control word or the header -/
  | badHeader
deriving DecidableEq, Repr

/-- A PCP packet as it reaches the module (Table 12.4): the fields of its header, the way it came, its bytes, and the outcome
of the tag check (R348). -/
structure PcpHdr where
  magic : BitVec 16
  version : Byte
  /-- 1: the packet is a reply -/
  reply : Bool
  /-- 1: the payload is encrypted under the session's key -/
  enc : Bool
  opcode : Byte
  chain : Byte
  context : BitVec 4
  partition : BitVec 2
  session : BitVec 64
  sequence : Word
  /-- LENGTH of the header -/
  length : Nat
  /-- bytes of payload that follow the header, less the tag -/
  avail : Nat
  /-- the GCM tag verified under the session's key -/
  tagOk : Bool
  /-- address of the sender, to which the reply goes, and the address it was sent to (128-bit IPv6 form) -/
  peer : Nat
  dst : Nat
  /-- the module of the chain that has forwarded it (R349), by its address -/
  via : Option Nat
  /-- the packet as it came, and its payload as decrypted -/
  packet : List Byte
  body : List Byte
deriving DecidableEq, Repr

/-- A flag set, a flag clear or a curtain arrival (R183, R184, R186), by partition. -/
inductive CrtEvent where
  | flagSet (part flag : Nat)
  | flagClr (part flag : Nat)
  /-- a scene boundary's or a new context's clear of all 64 flags -/
  | clearAll (part : Nat)
  /-- curtain, payload, arriver's context and the class and index of the arriver (for R186's fault record) -/
  | arrive (part curt : Nat) (payload : Byte) (ctx cls idx : Nat)
deriving DecidableEq, Repr

/-- The 32-byte bucket header of a transfer (Table 8.3). -/
structure BucketHdr where
  tag : BitVec 12
  cast : Byte
  nf : Bool
  recomp : Bool
  check : Bool
  level : BitVec 2
  step : Word
  epoch : Word
  scale : Byte
  ncontrib : BitVec 16
  contrib : BitVec 64
  count : Nat
  chunk : Nat
deriving DecidableEq, Repr

/-- One entry of a REBLOCK plan (Table 8.10). -/
structure ReblockEntry where
  tensor : Nat
  oldCast : Nat
  newCast : Nat
  oldShards : Nat
  newShards : Nat
  desc : Bool
  moveState : Bool
  moveWc : Bool
  newWcBase : Nat
  newStateBase : Nat
  newHalfStride : Nat
deriving DecidableEq, Repr

/-- One entry of a PATCH request (Table 12.6). -/
structure PatchEntry where
  kind : Nat
  symbol : Nat
  value : Nat
deriving DecidableEq, Repr

/-- The payload of CTX_CREATE (Table 12.6). -/
structure CtxParams where
  shape : Nat
  dress : Bool
  parent : Nat
  hbmBase : Nat
  hbmSize : Nat
  ddrBase : Nat
  ddrSize : Nat
  spFirst : Nat
  spBytes : Nat
  key : BitVec 128
deriving DecidableEq, Repr

/-- The payload of CAST_SET (R363). -/
structure CastParams where
  cast : Nat
  ethernet : Bool
  carry : Bool
  deadline : Nat
  bind : BitVec 16
  epoch : Word
  /-- an Ethernet list, or none (0xFF) -/
  uplink : Option Nat
  members : List Nat
deriving DecidableEq, Repr

/-- The credential of SESSION_OPEN (R407), its key material as numbers, its signatures as byte strings. -/
structure Credential where
  /-- names the key's parameter set -/
  oid : Word
  ownerKey : Nat
  tenantKey : Nat
  part : Nat
  tenantGen : Byte
  ownerSig : List Byte
  requestSig : List Byte
deriving DecidableEq, Repr

/-- A Poelalin transport packet (Table 12.3) with the result of its tag check. -/
structure TransPkt where
  peer : Nat
  cls : Nat
  conn : Nat
  data : Bool
  ack : Bool
  opening : Bool
  psn : Nat
  ackPsn : Nat
  sack : BitVec 64
  window : Nat
  xseq : Nat
  tagOk : Bool
  version : Byte
  payload : List Byte
deriving DecidableEq, Repr

/-- What a received Ethernet frame carries (Table 12.1). -/
inductive FrameProto where
  | udp (srcPort dstPort : Nat)
  /-- a question of Neighbor Discovery or ARP for an address -/
  | solicit (target : Nat)
  /-- an answer or announcement of Neighbor Discovery or ARP -/
  | advert
  /-- a router advertisement with its prefix -/
  | router (pfx : BitVec 64)
  /-- an ICMP or ICMPv6 echo request -/
  | echo
  /-- IEEE 1588 over UDP -/
  | ptp
  | other
deriving DecidableEq, Repr

/-- A received Ethernet frame (Table 12.1). -/
structure FrameInfo where
  /-- addressed to the port's MAC, or multicast the port listens to -/
  forUs : Bool
  /-- the VLAN id and the priority code point that the frame carries -/
  vid : Nat
  prio : Nat
  /-- IP version, 4 or 6 (4 for ARP); any other value is an unsupported frame -/
  ipVersion : Nat
  ipBytes : Nat
  fragment : Bool
  /-- addresses, in 128-bit IPv6 form -/
  src : Nat
  dst : Nat
  checksumOk : Bool
  proto : FrameProto
  /-- what follows the headers -/
  bytes : List Byte
deriving DecidableEq, Repr

/-- The dataset of a PTP time transmitter as it announces itself (R359), in the order of the standard's comparison. -/
structure PtpData where
  priority1 : Nat
  clockClass : Nat
  accuracy : Nat
  variance : Nat
  priority2 : Nat
  identity : Nat
  stepsRemoved : Nat
  source : Nat
deriving DecidableEq, Repr

/-- A Sync of a PTP time transmitter, one-step or two-step (R359): its domain, the dataset of its Announce, the time it was
sent, and when the last delay request reached it, once its response has come. -/
structure SyncMsg where
  domain : Byte
  data : PtpData
  sent : Nat
  response : Option Nat
deriving DecidableEq, Repr

/-- A curtain slice of a chain link (Table 13.4), with its tag verdict. -/
structure CurtSlice where
  kind : Nat
  curtain : Nat
  payload : Byte
  part : Nat
  step : Word
  epoch : Word
  cast : Nat
  members : Nat
  uplink : Option Nat
  src : Nat
  cseq : Nat
  cack : Nat
  tagOk : Bool
deriving DecidableEq, Repr

/-- A curtain message of the Ethernet port (Table 12.7). -/
structure CurtMsg where
  kind : Nat
  curtain : Nat
  payload : Byte
  part : Nat
  epoch : Word
  step : Word
  cast : Nat
  /-- member of the UPLINK list that sent it -/
  src : Nat
deriving DecidableEq, Repr

/-- A chain port: false W, true E. -/
inductive Port where
  | w | e
deriving DecidableEq, Repr

/-- A shard of a gather as it arrives (R211, R212, R214): sender member, tensor, stamp, epoch, wire bytes. -/
structure ShardMsg where
  ctx : Nat
  cast : Nat
  member : Nat
  tensor : Nat
  stamp : Word
  epoch : Word
  data : List Byte
  scales : List Byte
deriving DecidableEq, Repr

/-- A square row of a reblock as it arrives (R259). -/
structure SquareRow where
  ctx : Nat
  newCast : Nat
  epoch : Word
  tensor : Nat
  squareRow : Nat
  stamp : Word
  wcData : List Byte
  wcScales : List Byte
  stateHigh : List Byte
  stateLow : List Byte
  stateM : List Byte
  stateV : List Byte
deriving DecidableEq, Repr

/-- The sensors of Table 14.3. -/
inductive Sensor where
  /-- 54 V input, 10 mV units, and current, 50 mA units -/
  | input
  | rail (n : Fin 14)
  | bayTemp (b : Fin 48)
  | droopCount (b : Fin 48)
  | hbmTemp (n : Fin 12)
  | dimmTemp (n : Fin 8)
  | coolant
deriving DecidableEq, Repr

/-- The single-bit event crossings of the die (R334). -/
inductive EventXing where
  | wake (bay : Fin 48)
  | scrubWake (bay : Fin 48)
  | fltNotify
  | mailbox (n : Fin 16)
deriving DecidableEq, Repr

/-- A flit as a chain port receives it: the 256 bytes on the line (Table 13.1), its message bytes as decrypted, without a tag,
and whether the tag of the message that it ends verifies (R375). -/
structure FlitIn where
  raw : List Byte
  plain : List Byte
  tagOk : Bool
deriving DecidableEq, Repr

/-- A commit of the write request at an index of a controller's list, and how often its data fails parity on the bus (R292,
R312). -/
structure CommitTry where
  index : Nat
  parityFails : Nat
deriving DecidableEq, Repr

/-- A command of the block. One constructor per row of spec/opcode_table.json, in the table's order. -/
inductive Instr where
  -- station commands: the head of queue q of bay's station starts (R97)
  | stnNop (bay : Fin 48) (q : Fin 4)
  | stnAgen (bay : Fin 48) (q : Fin 4)
  | stnTload (bay : Fin 48) (q : Fin 4)
  | stnInject (bay : Fin 48) (q : Fin 4)
  | stnMma (bay : Fin 48) (q : Fin 4)
  | stnCarry (bay : Fin 48) (q : Fin 4)
  | stnDrain (bay : Fin 48) (q : Fin 4)
  | stnSpill (bay : Fin 48) (q : Fin 4)
  | stnFill (bay : Fin 48) (q : Fin 4)
  | reNorm (bay : Fin 48) (q : Fin 4)
  | reRms (bay : Fin 48) (q : Fin 4)
  | reSmax (bay : Fin 48) (q : Fin 4)
  | reNormBwd (bay : Fin 48) (q : Fin 4)
  | reRmsBwd (bay : Fin 48) (q : Fin 4)
  | reSmaxBwd (bay : Fin 48) (q : Fin 4)
  | reRowdot (bay : Fin 48) (q : Fin 4)
  /-- the command packet at position i of those that have reached their node enters its queue -/
  | commandArrival (i : Nat)
  /-- the started command with number id of a bay completes -/
  | commandCompletion (bay : Fin 48) (id : Nat)
  | rowInjection (st : Fin 48) (dir : Dir)
  | passRowArrival (st : Fin 48) (dir : Dir) (ecc : Ecc)
  | carryBeatArrival (st : Fin 48) (dir : Dir) (ecc : Ecc)
  | rampStep (arr : Fin 96)
  | rampDownStart (arr : Fin 96)
  | stnLinkcfgWrite (bay : Fin 48) (v : Word)
  | stnRampcfgWrite (bay : Fin 48) (v : Word)
  | stnCntctlClear (bay : Fin 48)
  | stnCntctlFreeze (bay : Fin 48) (on : Bool)
  -- stagehand instructions: stagehand sh issues the word at its pc (R134)
  | add (sh : Fin 6144)
  | sub (sh : Fin 6144)
  | and (sh : Fin 6144)
  | or (sh : Fin 6144)
  | xor (sh : Fin 6144)
  | sll (sh : Fin 6144)
  | srl (sh : Fin 6144)
  | sra (sh : Fin 6144)
  | slt (sh : Fin 6144)
  | sltu (sh : Fin 6144)
  | mul (sh : Fin 6144)
  | addi (sh : Fin 6144)
  | andi (sh : Fin 6144)
  | ori (sh : Fin 6144)
  | xori (sh : Fin 6144)
  | slli (sh : Fin 6144)
  | srli (sh : Fin 6144)
  | srai (sh : Fin 6144)
  | slti (sh : Fin 6144)
  | lui (sh : Fin 6144)
  | beq (sh : Fin 6144)
  | bne (sh : Fin 6144)
  | blt (sh : Fin 6144)
  | bge (sh : Fin 6144)
  | bltu (sh : Fin 6144)
  | bgeu (sh : Fin 6144)
  | jal (sh : Fin 6144)
  | jr (sh : Fin 6144)
  | loop (sh : Fin 6144)
  | halt (sh : Fin 6144)
  | lb (sh : Fin 6144)
  | lbu (sh : Fin 6144)
  | lh (sh : Fin 6144)
  | lhu (sh : Fin 6144)
  | lw (sh : Fin 6144)
  | sb (sh : Fin 6144)
  | sh (sh : Fin 6144)
  | sw (sh : Fin 6144)
  | vld (sh : Fin 6144)
  | vst (sh : Fin 6144)
  | vldh (sh : Fin 6144)
  | vsth (sh : Fin 6144)
  | vgather (sh : Fin 6144)
  | vscatter (sh : Fin 6144)
  | rget (sh : Fin 6144)
  | rput (sh : Fin 6144)
  /-- the read-data flit at position i of the grid has reached its stagehand -/
  | rgetDataArrival (i : Nat)
  | vadd (sh : Fin 6144)
  | vsub (sh : Fin 6144)
  | vmul (sh : Fin 6144)
  | vfma (sh : Fin 6144)
  | vmax (sh : Fin 6144)
  | vmin (sh : Fin 6144)
  | vabs (sh : Fin 6144)
  | vneg (sh : Fin 6144)
  | vexp (sh : Fin 6144)
  | vrcp (sh : Fin 6144)
  | vrsq (sh : Fin 6144)
  | vcmplt (sh : Fin 6144)
  | vcmple (sh : Fin 6144)
  | vcmpeq (sh : Fin 6144)
  | vsel (sh : Fin 6144)
  | vrsum (sh : Fin 6144)
  | vrmax (sh : Fin 6144)
  | vbcast (sh : Fin 6144)
  | vextr (sh : Fin 6144)
  | viadd (sh : Fin 6144)
  | visub (sh : Fin 6144)
  | vimul (sh : Fin 6144)
  | vishl (sh : Fin 6144)
  | viota (sh : Fin 6144)
  | pand (sh : Fin 6144)
  | por (sh : Fin 6144)
  | pnot (sh : Fin 6144)
  | pset (sh : Fin 6144)
  | pget (sh : Fin 6144)
  | vunpk (sh : Fin 6144)
  | vpack (sh : Fin 6144)
  | vcvti (sh : Fin 6144)
  | vrand (sh : Fin 6144)
  | rdfl (sh : Fin 6144)
  | clrfl (sh : Fin 6144)
  | waitf (sh : Fin 6144)
  | setf (sh : Fin 6144)
  | curt (sh : Fin 6144)
  | nop (sh : Fin 6144)
  -- dispatcher
  | shLoad (bay : Fin 48)
  | shStart (bay : Fin 48)
  | shStop (bay : Fin 48)
  | bayShflagsWrite (bay : Fin 48) (v : Word)
  -- grid: i is the position of the flit among those on the grid
  | flitHop (i : Nat) (ecc : Ecc)
  | readRequestArrival (i : Nat)
  | sliceWriteArrival (i : Nat)
  | writeAckArrival (i : Nat)
  | crossingSlotTake (router : Fin 6144) (port : Fin 5)
  | injectionRetry (sh : Fin 6144)
  | bayXslotWrite (bay : Fin 48) (we : Bool) (v : Word)
  | scrubVisit (sh : Fin 6144) (bank : Fin 4)
  | forcedScrubPeriod (sh : Fin 6144) (bank : Fin 4)
  | scrubTimerWake (bay : Fin 48)
  | correctionWriteBack (bay : Fin 48)
  -- curtain network
  | eventRegistration (i : Nat)
  | rootNumbering (i : Nat)
  | eventApplication (bay : Fin 48)
  | crtFlagset (p : Fin 4) (hi : Bool) (v : Word)
  | crtFlagclr (p : Fin 4) (hi : Bool) (v : Word)
  | crtCurtcfgWrite (p : Fin 4) (n : Fin 16) (v : Word)
  | cuePacketArrival (i : Nat)
  -- cue processors: cp acts on the entry at its read position
  | entryFetch (cp : Fin 4)
  | csNop (cp : Fin 4)
  | cmd (cp : Fin 4)
  | batch (cp : Fin 4)
  | wait (cp : Fin 4)
  | csSetf (cp : Fin 4)
  | clrf (cp : Fin 4)
  | csCurt (cp : Fin 4)
  | scene (cp : Fin 4)
  | endPass (cp : Fin 4)
  | queueSlotGrant (cp : Fin 4)
  | passStart (cp : Fin 4)
  | sceneBoundary (p : Fin 4)
  | cpRegisterWrite (cp : Fin 4) (off : Nat) (v : Word)
  | faultReport (i : Nat)
  | fltClear (rec : Fin 64)
  -- link and wing engines
  | leGather (p : Fin 4)
  | shardArrival (p : Fin 4) (m : ShardMsg)
  | leReduce (p : Fin 4)
  | bucketTransferArrival (p : Fin 4) (ctx : Fin 16) (h : BucketHdr) (data : List (BitVec 16))
  | bucketDeadline (p : Fin 4) (i : Nat) (level : Fin 2)
  | partLanding (p : Fin 4) (i : Nat)
  | sampledChunkCompare (p : Fin 4) (i : Nat) (chunk : Nat)
  | recomp (p : Fin 4) (i : Nat)
  | bucketConfirmed (p : Fin 4) (i : Nat)
  | wingApplyPart (we : Fin 8) (p : Fin 4) (i : Nat)
  | leStep (p : Fin 4)
  | stepCurtainArrival (p : Fin 4)
  | stepVerdict (p : Fin 4)
  | reblock (h : PcpHdr) (plan : List ReblockEntry)
  | reblockTransferArrival (p : Fin 4) (m : SquareRow)
  | reblockComplete (p : Fin 4)
  -- stream engines and memory wings
  | seAgen (bay : Fin 48) (q : Fin 4)
  | seRead (bay : Fin 48) (q : Fin 4)
  | seWrite (bay : Fin 48) (q : Fin 4)
  | seGather (bay : Fin 48) (q : Fin 4)
  | seScatter (bay : Fin 48) (q : Fin 4)
  | transferIssue (bay : Fin 48) (id : Nat)
  | streamTransferComplete (bay : Fin 48) (tag : Fin 128)
  | memoryRequestArrival (ctl : Fin 20) (i : Nat)
  | readBlockDelivery (ctl : Fin 20) (i : Nat) (parityFails : Nat) (corrected : Bool)
  | writeCommit (ctl : Fin 20) (w : CommitTry)
  | patrolVisit (ctl : Fin 20)
  | hbmTraining (fail8 fail64 : BitVec 12)
  | ddrTraining (gib : List Nat) (report128 : Bool) (fail128 fail88 : BitVec 8)
  | zeroFill
  | ddrKeyInstall
  -- clocks
  | droopStretch (bay : Fin 48) (deep : Bool)
  | frequencyMove (bay : Fin 48)
  | adaptiveWindow (bay : Fin 48)
  | adaptiveDrop (bay : Fin 48)
  | clkCapWrite (east : Bool) (v : Word)
  | bayClkcfgWrite (bay : Fin 48) (v : Word)
  | throttleStart (supply : Bool)
  | throttleEnd (supply : Bool)
  | referenceLoss
  | referenceOk
  | eventCrossing (x : EventXing)
  | wakeRequest (bay : Fin 48)
  | autostop (bay : Fin 48)
  | clkHtLoRead
  | bayCycLoRead (bay : Fin 48)
  -- Ethernet port and Poelalin transport
  | frameReceive (f : FrameInfo)
  | transportPacket (t : TransPkt)
  | ackTimer (i : Nat)
  | retransmitTimer (i : Nat) (psn : Nat)
  | egressFrame
  | pfcFrame (prio : Fin 8) (pause : Bool)
  | ethLinkDown
  | ethLinkTrained (full : Bool)
  | syncMessage (m : SyncMsg)
  -- PCP requests
  | discover (h : PcpHdr)
  | attest (h : PcpHdr) (nonce : Nat) (mask : BitVec 8)
  | sessionOpen (h : PcpHdr) (role : Nat) (encap nonce : Nat) (cred : Credential)
  | sessionClose (h : PcpHdr)
  | sessionIdleTimeout (i : Nat)
  | regRead (h : PcpHdr) (addr count : Nat)
  | regWrite (h : PcpHdr) (addr count : Nat) (values : List Word)
  /-- the accesses made before the one that had no answer: the values of a write, as many words of a read -/
  | registerAccessTimeout (h : PcpHdr) (write : Bool) (addr : Nat) (values : List Word)
  | memRead (h : PcpHdr) (addr count : Nat)
  | memWrite (h : PcpHdr) (addr count : Nat) (data : List Byte)
  | loadBook (h : PcpHdr) (addr length : Nat)
  | patch (h : PcpHdr) (entries : List PatchEntry)
  | ctxCreate (h : PcpHdr) (c : CtxParams)
  | ctxDestroy (h : PcpHdr)
  | start (h : PcpHdr)
  | stop (h : PcpHdr) (timeout : Nat)
  | stopTimeout (p : Fin 4) (c : Fin 16)
  | doorbell (h : PcpHdr) (count : Word)
  | health (h : PcpHdr)
  | logRead (h : PcpHdr) (first : Nat) (max : Nat)
  | fwStage (h : PcpHdr) (offset : Nat) (image : List Byte)
  | fwCommit (h : PcpHdr) (length : Nat)
  | castSet (h : PcpHdr) (c : CastParams)
  | clusterArrive (m : CurtMsg)
  | clusterRelease (m : CurtMsg)
  | ethCfgWrite (v : Word)
  -- chains
  | chainFlitReceive (port : Port) (f : FlitIn)
  | flitNak (port : Port) (seq : Nat)
  | chainLinkDown (port : Port)
  | chainLinkTrained (port : Port)
  | chainLinkLost (port : Port)
  | linkLost (port : Port) (b : Nat)
  | chainArrive (port : Port) (c : CurtSlice)
  | chainRelease (port : Port) (c : CurtSlice)
  | curtainAck (port : Port) (c : CurtSlice)
  | curtainSliceResend (port : Port) (cseq : Nat)
  | timeExchangeTimer (port : Port)
  | timeMsg (port : Port) (c : CurtSlice)
  | timeReply (port : Port) (c : CurtSlice)
  | enumStart
  | enum (port : Port) (a : Nat) (rejoin : Bool)
  | enumEnd (count : Nat)
  | enumDone (count : Nat) (isLoop : Bool)
  | enumFail (port : Port)
  | enumTimeout
  | chnCfgWrite (port : Port) (v : Word)
  -- Yemir
  | sensorSample (x : Sensor) (v v2 : Nat)
  | thermalCapAdjust (east : Bool)
  | riskScoreUpdate
  | riskDecay
  | heartbeat
  | watchdogExpiry
  | yemirBoot (slotAOk slotBOk : Bool)
  | mbxPush (n : Fin 16) (word15 : Word)
  | mbxDoorbell (n : Fin 16)
  | mbxPop (n : Fin 16)
  | mailboxRetry (n : Fin 16)
  | i3cPrivateWrite (index : Nat) (values : List Word)
  | i3cPrivateRead (words : Nat)
  | dynamicAddressAssignment (dasa : Bool) (addr : BitVec 7)
  | enrol
  | clearOwner
  | ymrPolicyWrite (v : Word)
  | ymrCapWrite (v : Word)
  -- resets and fences
  | resetCtx (h : PcpHdr)
  | resetEngine (h : PcpHdr) (cls bay index : Nat)
  | resetPart (h : PcpHdr)
  | resetChip (h : PcpHdr)
  | resetChipFull (h : PcpHdr)
  | fenceDrainEnd
  | l0WaitTimeout (p : Fin 4) (c : Fin 16)
  | resetTimeout
  | selfTest (failed : List (Nat × Nat))
  | fltIsolateWrite (v : Word)
  | fltResvWrite (v : Word)
  -- intermissions
  | intermission (h : PcpHdr) (copyHost : Bool) (timeout : Nat)
  | intermissionTimeout (i : Nat)
  | intermissionStop
  | stateCopyDone
  | replicationDone
  | replicationAbandon
  | seedHandover (p : Fin 4)
  | restore (h : PcpHdr) (id : BitVec 64)
  -- module and power
  | trayPwrEnRise
  | trayPwrEnFall
  | trayResetN
  | moduleReady
  | sagStart (cv : Nat)
  | sagEnd (cv : Nat)
  | brownOut (cv : Nat)
  | overvoltage (cv : Nat)
  | thermalTrip (bay : Fin 48)
  | registerWrite (addr : Nat) (v : Word)
  | yemirRailFailure
  | bootReadyTimeout
  | hostCopyDone
deriving DecidableEq, Repr

end Sys2Proof
end

