-- ==== Sys2Proof/Decode.lean ====
section
/-!
DEFINITION. Decode.lean: the command a table word spells. No row of spec/opcode_table.json gives bits, since the
commands of this block are events, bus accesses and queue heads, not words: so no word spells one.
-/
namespace Sys2Proof

/-- The command a word of nbits bits spells by the table: none, for the table gives no row any bits. -/
def decodeTableWord (_nbits _w : Nat) : Option Instr := none

end Sys2Proof
end

