-- ==== Sys2Proof/Config.lean ====
section
/-!
DEFINITION. Config.lean: what the spec leaves open, as constants without a body. Nothing can be proved about a
value of one of these beyond what the spec's own bound says at its place of use.
-/
namespace Sys2Proof.Config

/-- A fresh free value of w bits: the n-th that this machine draws. UNVERIFIED (entry 4): entropy (device nonces,
session ids, seeds) and values the spec calls unpredictable. -/
opaque freeValue (w : Nat) : Nat → BitVec w

/-- The error of the device's fixed algorithms of R124, which the spec bounds and does not give: the algorithm's number,
its operands as A28 codes, to a distance from the exact result. UNVERIFIED (entry 5). -/
opaque algError : Nat → BitVec 28 → BitVec 28 → Int

/-- Results for which the spec states no value: a division by zero, a reciprocal root of a negative number, a logarithm
of zero or less: the algorithm's number and its operands as A28 codes. UNVERIFIED (entry 5). -/
opaque openA28 : Nat → BitVec 28 → BitVec 28 → BitVec 28

/-- What a DDR read returns for 16 bytes that were written under another key (R297, R298: AES-XTS mixes each unit of 16
bytes of a line): key they were written under, key they are read under, their number (address divided by 16), the bytes as
a little-endian number. -/
opaque ddrOtherKey : Nat → Nat → Nat → BitVec 128 → BitVec 128

/-- SHAKE256 of a byte string, as the 64-byte digest used throughout, read as a number (R265, R402, R411). -/
opaque digest : List (BitVec 8) → Nat

/-- XMSS verification (R403, R407, R408): public key digest, message, signature. -/
opaque xmssValid : Nat → List (BitVec 8) → List (BitVec 8) → Bool

/-- XMSS signature by the device identity key with a one-time index (R403): seed, index, message. -/
opaque xmssSign : Nat → Nat → List (BitVec 8) → List (BitVec 8)

/-- The public identity key of a device, by its seed (R402). -/
opaque identityKey : Nat → List (BitVec 8)

/-- The packets of a class that the port's receive buffer holds before it pauses the class (R345): the spec gives no size. -/
opaque rxCapacity : Nat → Nat

/-- ML-KEM-1024 (R357): the shared secret of an encapsulation key and a draw. -/
opaque kemSecret : Nat → Nat → List (BitVec 8)

/-- ML-KEM-1024 (R357): ciphertext bytes for an encapsulation key and a draw. -/
opaque kemCiphertext : Nat → Nat → List (BitVec 8)

/-- AES-256-GCM (R343, R346, R348, R375): the ciphertext of bytes of a message at an offset, under a key and a nonce. -/
opaque gcmBytes : Nat → Nat → Nat → List (BitVec 8) → List (BitVec 8)

/-- The GCM tag of a message: key, nonce, associated data, plaintext. -/
opaque gcmTag : Nat → Nat → List (BitVec 8) → List (BitVec 8) → BitVec 128

/-- The ciphertext of a snapshot's chunks (R438): the snapshot's number and the place of the byte. -/
opaque snapByte : Nat → Nat → BitVec 8

/-- Whether a station of another module of a company takes part in its revolve (R65): module, station. Nothing on this
module tells it. UNVERIFIED (entry 40). -/
opaque companyTakesPart : Nat → Nat → Bool

end Sys2Proof.Config
end

