-- ==== Sys2Proof/Machine/State.lean ====
section
/-!
DEFINITION. Machine/State.lean: everything the spec gives the block, as plain data, and the state after reset.
A sparse store reads as its default where it lists nothing; the default of each is named beside it.
-/
namespace Sys2Proof.Machine

/-- What is fixed at manufacture and never changes (Table 0.1, Table 0.2, R2, R5, Table 14.1, Table 12.8). -/
structure Fuse where
  /-- bit b = 1: bay b active (GBL_BAYMASK) -/
  bayMask : BitVec 48
  /-- 0xA1 or 0xB0 (GBL_IDENT.STEPPING) -/
  stepping : Byte
  /-- MAC address (ETH_MAC) -/
  mac : BitVec 48
  /-- vendor root digest in fuses (Table 14.1) -/
  vendorRoot : Nat
  /-- identity seed in fuses, from which the device identity key is generated (R402) -/
  identitySeed : Nat
deriving DecidableEq, Repr

/-- Levels at the tray pins and the straps (Tables 14.13, 16.2). -/
structure Pins where
  pwrEn : Bool
  resetN : Bool
  throttleN : Bool
  chainHead : Bool
  modPgood : Bool
  /-- Yemir's I3C dynamic address (R415); MOD_ALERT_N's level is computed by modAlertN, MOD_PRESENT_N is tied low -/
  i3cAddr : Option (BitVec 7)
  /-- the last in-band interrupt's mandatory byte, if one was sent (R415) -/
  ibi : Option Byte
deriving DecidableEq, Repr

/-- Where the module stands in the power-up sequence (Table 16.6). -/
inductive Power where
  /-- TRAY_PWR_EN low, or Yemir's rail failed -/
  | off
  /-- steps 1 and 2: Yemir boots; in its boot ROM when no slot passes -/
  | yemir
  /-- steps 3 to 5: rails up, memories and links train -/
  | training
  /-- step 6: the self-test, and the zero fill, have been done -/
  | testing (tested filled : Bool)
  /-- step 7 reached -/
  | ready
  /-- the die rails were switched off while Yemir runs (R453, R455) -/
  | railsOff
deriving DecidableEq, Repr

/-- Time kept on the die and in Yemir (R322, R323, R390). -/
structure Clock where
  /-- house time, ns -/
  house : Nat
  /-- trimmed fraction of a nanosecond, in units of 2 ppb -/
  frac : Int
  /-- trim in force, units of 2 ppb (CLK_HTTRIM) -/
  trim : Int
  /-- CLK_HT_HI as latched by the last read of CLK_HT_LO -/
  latch : Word
  /-- Yemir's uptime, ns -/
  uptime : Nat
  /-- fraction of a microsecond of throttling not yet counted in CLK_THRTIME, ns -/
  thrNs : Nat
  refLost : Bool
  refOk : Bool
  thrPin : Bool
  thrSupply : Bool
  /-- events inside the crossings of R334: wake requests, scrub-timer wakes, fault notifications -/
  faultEv : Bool
  /-- a sag in progress: house time of its start, and its lowest input in 10 mV (R452) -/
  sag : Option (Nat × Nat)
  /-- house time at which the input last reached 46 V again -/
  sagEnd : Nat
deriving DecidableEq, Repr

/-- A bay's clock generator (R324 to R326, R335, R336, R341). -/
structure BayClk where
  code : Nat
  alimit : Nat
  stopped : Bool
  fallback : Bool
  /-- cycles since the last L3 or L4 reset (BAY_CYC) -/
  cyc : Nat
  latch : Word
  /-- elapsed part of the current period, in thousandths of an eighth of a period -/
  phase : Nat
  /-- length of the current period in eighths: 8, 9 or 10 -/
  eighths : Nat
  /-- length the next period takes (R325) -/
  nextEighths : Nat
  /-- consecutive stretched periods -/
  runLen : Nat
  /-- cycle at which the present window of 16,384 cycles began -/
  winStart : Nat
  /-- stretched periods of the present window -/
  winStretch : Nat
  /-- consecutive windows of at most 16 stretched periods -/
  quiet : Nat
  /-- house time of the last frequency move -/
  moved : Nat
  /-- cycle at which the bay last was busy (R336) -/
  busyCyc : Nat
  /-- cycles that the last nanosecond with any has brought: they end at cyc -/
  adv : Nat
  /-- a wake request, and a wake of the scrub timer, inside the bay's event crossings (R334) -/
  wakeEv : Bool
  scrubEv : Bool
  /-- uptime of the last wake request, and of the last stop (R335) -/
  woke : Option Nat
  stopAt : Option Nat
deriving DecidableEq, Repr

/-- An address-generator slot: base and six levels of count and signed stride (R76, R305). -/
structure AgSlot where
  base : Nat
  counts : List Nat
  strides : List Int
deriving DecidableEq, Repr

/-- The initial value of a slot: base 0, every count 1, every stride 0 (R77). -/
def AgSlot.init : AgSlot := { base := 0, counts := [1, 1, 1, 1, 1, 1], strides := [0, 0, 0, 0, 0, 0] }

/-- A stationary tile as held (R78, R79). -/
structure Tile where
  loaded : Bool
  /-- format of the elements as held: the codes of Table 3.4, 0 for a widened MXFP4 tile -/
  fmt : Nat
  /-- the K elements of each of the 128 columns -/
  cols : List (List (BitVec 16))
  /-- the scales of each column's K blocks of 32 -/
  scales : List (List Byte)
deriving DecidableEq, Repr

def Tile.empty : Tile := { loaded := false, fmt := 0, cols := [], scales := [] }

/-- One revolve beat (Table 2.5); its check word is the Ecc verdict of the arrival. -/
structure Beat where
  data : BitVec 1024
  scales : BitVec 64
  remain : BitVec 12
  row : BitVec 9
  bank : Bool
  phase : Bool
  kind : BitVec 2
  beat : BitVec 2
  ctx : BitVec 4
deriving DecidableEq, Repr

/-- A command waiting in an engine queue (R71, R167): its words, its context and the book offset of its entry. -/
structure QCmd where
  words : List Word
  part : Nat
  ctx : Nat
  bookoff : Word
  /-- the WAIT flag has been seen set (R185) -/
  waitSeen : Bool
  /-- bay cycle in which it became ready, while it stands ready at the head of its queue (R97, R310) -/
  readyAt : Option Nat := none
deriving DecidableEq, Repr

/-- A started, uncompleted command of a bay. -/
structure Started where
  id : Nat
  /-- station queue 0-3, dispatcher 4, stream-engine queue 5-8 -/
  queue : Nat
  words : List Word
  part : Nat
  ctx : Nat
  bookoff : Word
  /-- bay cycle at which it started -/
  startCyc : Nat
  /-- earliest bay cycle of its completion event (Table 3.18, Table 5.9) -/
  earliest : Nat
  /-- rows, beats or transfers it has still to do -/
  left : Nat
  /-- rows, beats or transfers done -/
  done : Nat
  /-- slots as copied at the start: data, scale, and a stream command's table slot (R77, R305) -/
  slots : List AgSlot
  /-- for a dispatcher command: stagehands of its set, by linear id (R147) -/
  set : List Nat
  /-- it ends without setting its SET flag (R152) -/
  noFlag : Bool
  /-- stream command: place in its tag range from which the next free tag is sought (R310) -/
  nextTag : Nat
  /-- bay cycle in which it became ready (R97, R99) -/
  readyCyc : Nat := 0
  /-- rows of a BF16 STN_MMA whose PHASE 0 beat it has accepted and whose PHASE 1 beat is still to come (R83) -/
  half : List Nat := []
  /-- bay cycle until which a tile load or a spill keeps it from its feeder ports (R98) -/
  heldTo : Nat := 0
deriving DecidableEq, Repr

/-- An array's activity ramp (R95, R96). -/
structure Ramp where
  /-- 0: ramped down; 1 to 8: duty step k/8 -/
  step : Nat
  rising : Bool
  /-- ramp length in force, RAMP code -/
  code : Nat
  /-- the 3-bit duty accumulator -/
  acc : Nat
  /-- bay cycle of the last step -/
  since : Nat
  /-- rows the array may still accept in the present cycles, or, below zero, cycles a row before still takes (R52, R95) -/
  credit : Int
deriving DecidableEq, Repr

/-- An exact number: what an element, a product or a sum is before it is rounded (R103, R119). -/
inductive Num where
  | nan
  | inf (neg : Bool)
  /-- (-1)^neg * m * 2^e -/
  | fin (neg : Bool) (m : Nat) (e : Int)
deriving DecidableEq, Repr

/-- A stream-engine transfer holding a tag (R310, R311). -/
structure Transfer where
  tag : Nat
  cmd : Nat
  write : Bool
  addr : Nat
  spOff : Nat
  /-- blocks of 256 B, and how many of them have arrived or committed -/
  blocks : Nat
  arrived : Nat
  issuedAt : Nat
deriving DecidableEq, Repr

/-- A bay's scrub walker of one bank (R164, R165): kept per bank by slice and bank number. -/
structure Walker where
  row : Nat
  /-- house time at which the present pass began -/
  passStart : Nat
  passes : Nat
  /-- house-time length of the last complete pass, ns -/
  lastPass : Nat
  /-- number of the 4,096-cycle period of the last forced visit, plus 1 -/
  forcedPeriod : Nat
  /-- house time of the last visit of each row, plus 1; default none -/
  visited : Sparse Nat
deriving DecidableEq, Repr

/-- A bay: station, stream engine, scoreboard, dispatcher, clock. -/
structure Bay where
  /-- waiting commands: station queues 0-3, dispatcher 4, stream-engine queues 5-8; default empty -/
  queues : Sparse (List QCmd)
  /-- started, uncompleted commands, oldest first -/
  started : List Started
  nextId : Nat
  /-- station slots 0-15, stream-engine slots 16-31; default AgSlot.init -/
  slots : Sparse AgSlot
  /-- tile buffers, key 2 * array + buffer; default empty -/
  tiles : Sparse Tile
  /-- A28 accumulators, key ((2 * array + bank) * 512 + row) * 128 + column; default zero -/
  acc : Sparse (BitVec 28)
  bankA : Bool
  bankB : Bool
  /-- row ledger entries 0-16,383; default zero -/
  ledger : Sparse Word
  /-- STN_FLAGS: INV, OVF, UNF, INX, NF from bit 0 up -/
  flags : BitVec 5
  tapCw : Option Beat
  tapCcw : Option Beat
  /-- carry beats of rows that are not complete here, per direction (R53); those of a row that lost a beat stay (R44) -/
  carryCw : List Beat
  carryCcw : List Beat
  /-- ramps of arrays A and B, key 0 and 1; default ramped down -/
  ramps : Sparse Ramp
  /-- values passed to the row engine by STN_DRAIN, in order (R86) -/
  reIn : List Num
  /-- the row engine's parameter buffer: γ and β of the command in progress, read once (R92) -/
  reGamma : Option (List Num)
  reBeta : Option (List Num)
  /-- scoreboard entries that are freed in the cycle after a completion (R167): queue, words, cycle of the completion -/
  freeing : List (Nat × List Word × Nat)
  /-- STN_STATUS.CTX -/
  ctx : Nat
  passThrough : Bool
  transfers : List Transfer
  /-- bytes moved (SE_BYTES) -/
  seBytes : Nat
  /-- corrected words waiting to be written back, by data-space word address (R162) -/
  writeBack : List Nat
  clk : BayClk
  /-- rows tapped (STN_TAP_HI, STN_TAP_LO) -/
  tapCount : Nat
  /-- wide accesses of the present cycle (R159): bank (4 times the bay-local slice, plus the bank in it) and order of
  Table 6.1, ten times it, with the place of a feeder port added -/
  served : List (Nat × Nat)
deriving DecidableEq, Repr

/-- What a stagehand waits for at issue (R134, R151, R178). -/
inductive ShWait where
  | none
  | flag (k : Nat)
  | curtain (n : Nat)
  /-- an RGET or RPUT whose reservation failed waits for its slot of the next frame: the first slot, counted since reset,
  in which it tries again (R178) -/
  | slot (again : Nat)
deriving DecidableEq, Repr

/-- A zero-overhead loop in progress (R137). -/
structure LoopSt where
  first : Nat
  last : Nat
  left : Nat
deriving DecidableEq, Repr

/-- An instruction that has issued and whose result is still to be written (R134, R138): what it writes, and when. -/
structure ShWrite where
  /-- bay cycle of the write: issue plus contract latency, plus the cycles its accesses waited for a bank -/
  due : Nat
  s : List (Nat × Word)
  v : List (Nat × BitVec 512)
  p : List (Nat × Word)
  /-- flags it sets (R117) and, for CLRFL, flags it clears (R145) -/
  flags : BitVec 5
  clear : BitVec 5
  /-- a load, discarded by a stop; a store, whose data reach the slice when it is due (R138, R150) -/
  load : Bool
  store : Bool
  /-- narrow accesses it still has to make (R138, R159): their banks, the cycle in which the first of them asks, and the
  cycle in which that one first asked -/
  words : List Nat
  ask : Nat
  age : Nat
deriving DecidableEq, Repr

/-- One stagehand (Table 5.1). -/
structure Stagehand where
  /-- s0 to s31; default zero; s0 reads 0 whatever is listed -/
  s : Sparse Word
  /-- v0 to v7; default zero -/
  v : Sparse (BitVec 512)
  /-- p0 to p7; default zero; p0 reads all ones -/
  p : Sparse Word
  pc : Nat
  /-- instruction store; default zero -/
  istore : Sparse Word
  flags : BitVec 5
  running : Bool
  part : Nat
  ctx : Nat
  /-- id of the SH_START that started it in its bay, and that entry's book offset -/
  startId : Nat
  bookoff : Word
  loop : Option LoopSt
  wait : ShWait
  /-- RPUTs sent and not yet acknowledged (R151, R187) -/
  putsOut : Nat
  /-- register groups of RGETs in flight (D field, 0 or 4) -/
  getsOut : List Nat
  /-- results still to be written, by due cycle -/
  flight : List ShWrite
  /-- first bay cycle in which it may issue its next instruction (R134) -/
  issue : Nat
  /-- uptime of the nanosecond in which another stagehand's fault stopped it while it could issue (R152) -/
  cut : Option Nat
deriving DecidableEq, Repr

def Stagehand.idle : Stagehand :=
  { s := [], v := [], p := [], pc := 0, istore := [], flags := 0, running := false, part := 0, ctx := 0,
    startId := 0, bookoff := 0, loop := none, wait := .none, putsOut := 0, getsOut := [], flight := [], issue := 0,
    cut := none }

/-- Where a flit stands: at a router, or in the crossing queue in front of one (R177). -/
inductive FlitAt where
  | router
  /-- in the inbound crossing queue of this port of its router: 1 west, 2 east, 3 north, 4 south; entered at cycle -/
  | crossing (port : Nat) (since : Nat)
  /-- arrived at its last router -/
  | ejected
  /-- write data in its slice, to be injected in a slot of SLOTMASK (R307); after a reservation that failed, in the same
  slot of the next frame: that slot, counted since reset (R178) -/
  | source (mask : Nat) (again : Option Nat)
deriving DecidableEq, Repr

/-- A flit on the grid (Table 6.3). -/
structure Flit where
  dest : Nat
  src : Nat
  part : Nat
  ctx : Nat
  kind : Nat
  tag : Nat
  data : List Byte
  /-- linear id of the router it is at -/
  at_ : Nat
  loc : FlitAt
  /-- bay cycle from which it holds its next link (R174); its frame cycle is this modulo 32 -/
  cycle : Nat
  /-- the data-space address or window offset the flit carries on behalf of a stream engine or controller -/
  addr : Nat
  poison : Bool
  /-- input port by which it stands at its router: 0 local, then as the outputs (R170, R176) -/
  inp : Nat := 0
  /-- the link it held last: router, output port, input port there and first bay cycle -/
  held : Option (Nat × Nat × Nat × Nat) := none
  /-- a read of an RGET that a stop or a switch has discarded (R150, R153) -/
  void : Bool := false
deriving DecidableEq, Repr

/-- What a cue-network packet carries (R181). -/
inductive CuePkt where
  /-- a command for an engine queue: class, bay, index, queue, words, partition, context, book offset, sender CP -/
  | command (cls bay index queue : Nat) (words : List Word) (part ctx : Nat) (bookoff : Word) (cp : Nat)
  /-- a fault report: the 64 bytes of its record but TIME, as Table 9.13 lays them out -/
  | fault (reason part ctx cls : Nat) (bay : Nat) (index : Nat) (bookoff : Word) (time addr : Nat) (detail : List Nat)
deriving DecidableEq, Repr

/-- A packet on the cue network (R181): the node whose input queue it stands in, that input (0 the engines' own, then as
the ports of R170), and the cue-network cycle from which its first word may go on. -/
structure CueTransit where
  pkt : CuePkt
  node : Nat
  inp : Nat
  ready : Nat
deriving DecidableEq, Repr

/-- A fault record (Table 9.13). -/
structure FaultRec where
  reason : Nat
  part : Nat
  ctx : Nat
  cls : Nat
  bay : Nat
  lbay : Nat
  index : Nat
  bookoff : Word
  later : Nat
  time : Nat
  addr : Nat
  detail : List Nat
deriving DecidableEq, Repr

/-- A call-sheet entry as fetched (Table 9.8): its 64 bytes, its ring index and its HBM address. -/
structure CsEntry where
  index : Nat
  addr : Nat
  bytes : List Byte
deriving DecidableEq, Repr

/-- What a cue processor waits for. -/
inductive CpWait where
  | none
  /-- a slot of the target queue, requested (R276); house time at which the stall began -/
  | slot (since : Nat)
  /-- WAIT on a flag -/
  | flag (k : Nat)
  | curtain (n : Nat)
  /-- at a SCENE (some number) or END (none) boundary -/
  | boundary (scene : Option Nat)
deriving DecidableEq, Repr

/-- A cue processor (R273 to R280). -/
structure CueProc where
  /-- fetched copies, oldest first -/
  fetched : List CsEntry
  /-- ring index of the next entry to fetch -/
  fetchPos : Nat
  /-- inside a pass -/
  inPass : Bool
  halted : Bool
  wait : CpWait
  /-- packets of the current BATCH already delivered -/
  batchPos : Nat
  /-- the slot asked for has been granted -/
  granted : Bool
  /-- the entry has been acted on and waits to retire: its packet is under way, or its event is not registered -/
  registered : Bool
  /-- mailbox entries waiting to be pushed again, oldest first (R399) -/
  mbxRetry : List (List Word)
  /-- house time of the last push of the first of them (R399) -/
  mbxAt : Nat
deriving DecidableEq, Repr

def CueProc.idle : CueProc :=
  { fetched := [], fetchPos := 0, inPass := false, halted := false, wait := .none, batchPos := 0, granted := false,
    registered := false, mbxRetry := [], mbxAt := 0 }

/-- A loaded prompt book as Yemir records it (R263 to R267, R428). -/
structure Book where
  measure : List Byte
  lstations : Nat
  nscene : Nat
  /-- sections placed: type, place (1 HBM, 2 DDR), address, size -/
  placed : List (Nat × Nat × Nat × Nat)
  /-- relocated fields of the placed copies: address, kind, shift, logical value in the book (R266, R428) -/
  relocs : List (Nat × Nat × Nat × Nat)
  /-- patch entries of kinds 4 to 6: placed address, kind, width, symbol -/
  patches : List (Nat × Nat × Nat × Nat)
  /-- bound symbols: kind, symbol, value -/
  bound : List (Nat × Nat × Nat)
  /-- base of the shard records and of the exchange record (R213, R222) -/
  shardRec : Nat
  xrec : Option Nat
  tensors : Option Nat
  ntensors : Nat
  /-- words written in the bays at load: slot plans per logical bay, the spare pair, then curtain values -/
  plan : List Word
deriving DecidableEq, Repr

/-- One curtain of a partition (R186, R191). -/
structure Curtain where
  chain : Bool
  count : Nat
  /-- a CRT_CURTCFG value written during a generation, taking effect at its release -/
  next : Option (Bool × Nat)
  gen : Bool
  payload : Byte
  arrived : Nat
  /-- OR of the payloads of the present generation -/
  acc : Byte
  /-- OR of the payloads of arrivals that already count towards the next generation -/
  accNext : Byte
  /-- COUNT reached with CHAIN = 1: the release is held for the chain's curtain root (R381) -/
  held : Bool
deriving DecidableEq, Repr

def Curtain.off : Curtain :=
  { chain := false, count := 0, next := none, gen := false, payload := 0, arrived := 0, acc := 0, accNext := 0, held := false }

/-- A context (R268 to R270, R279), kept by number 16 * partition + context; default free. -/
structure Context where
  /-- CP_CSTATE.STATE: 0 free, 1 created, 2 loaded, 3 started, 4 running, 5 stopping, 6 faulted -/
  st : Nat
  dress : Bool
  parent : Nat
  hbmBase : Nat
  hbmSize : Nat
  ddrBase : Nat
  ddrSize : Nat
  spFirst : Nat
  spBytes : Nat
  key : BitVec 128
  book : Option Book
  /-- CP_PROGRESS -/
  progress : Word
  /-- CP_CREDIT and CP_RDPTR per cue processor; default zero -/
  credit : Sparse Nat
  rdptr : Sparse Nat
  /-- completed passes: a dress run's step number (R270) -/
  passes : Nat
  /-- in the middle of a pass -/
  midPass : Bool
  /-- STOP requests waiting for the boundary: header and house time of expiry -/
  stops : List (PcpHdr × Option Nat)
  /-- sticky flags saved at a switch: station flags by station, stagehand flags by linear id (R70, R145, R281) -/
  stnFlags : Sparse (BitVec 5)
  shFlags : Sparse (BitVec 5)
  /-- curtains saved at a switch, by number (R281) -/
  curtains : Sparse Curtain
deriving DecidableEq, Repr

def Context.free : Context :=
  { st := 0, dress := false, parent := 0, hbmBase := 0, hbmSize := 0, ddrBase := 0, ddrSize := 0, spFirst := 0,
    spBytes := 0, key := 0, book := none, progress := 0, credit := [], rdptr := [], passes := 0, midPass := false,
    stops := [], stnFlags := [], shFlags := [], curtains := [] }

/-- A partition (R268, R280): what is switched in; default nothing. -/
structure Partition where
  cur : Option Nat
  /-- house time at which it was switched in -/
  since : Nat
  /-- the last boundary reached ended a pass -/
  endOfPass : Bool
  /-- a DOORBELL of the parent has come during the dress run that is switched in (R220) -/
  parentRang : Bool
  /-- tenant seed as an entropy number, 0 when none is held (R409), and when it was drawn -/
  seed : Nat
  seedTime : Nat
deriving DecidableEq, Repr

/-- An event on its way to the root: the bay node it is registered at and when (R183). -/
structure CrtPend where
  ev : CrtEvent
  node : Nat
  time : Nat
  /-- the cue processor whose entry it is (Table 9.9) -/
  cp : Option Nat
deriving DecidableEq, Repr

/-- A numbered event, or the release that a numbered arrival caused (R183, R186). -/
structure CrtNum where
  seq : Word
  ev : CrtEvent
  /-- this entry is a release of the curtain, with its payload -/
  release : Option (Nat × Nat × Byte)
  time : Nat
deriving DecidableEq, Repr

/-- The curtain network (R183 to R191). -/
structure CurtNet where
  /-- events in an engine's crossing queue, not yet registered -/
  waiting : List CrtPend
  /-- registered events on their way to the root -/
  toRoot : List CrtPend
  /-- numbered events in sequence order -/
  numbered : List CrtNum
  /-- events applied at each bay node, counted from the first; default zero -/
  applied : Sparse Nat
  /-- flags of the four partitions as applied at each bay node, flag k of partition p in bit 64 p + k -/
  flags : Sparse (BitVec 256)
  /-- releases applied at each bay node, key 64 * bay + 16 * p + n -/
  releases : Sparse Nat
  /-- releases given at the root, key 16 * p + n; a waiting arriver compares the two -/
  given : Sparse Nat
  /-- generation, counted from 1, that the waiting arriver joined: key 4 * (8192 * class + index) + partition; default none -/
  joined : Sparse Nat
  /-- curtains, key 16 * p + n; default Curtain.off -/
  curtains : Sparse Curtain
  /-- last sequence number given (CRT_SEQ) -/
  seq : Word
  /-- the root cycle in which an event was last numbered, and the flags (partition, flag) whose sets it numbered (R184) -/
  rootCyc : Nat
  rootSets : List (Nat × Nat)
deriving DecidableEq, Repr

/-- A cast list (R238, R363); key 0-255, default empty. -/
structure CastList where
  ethernet : Bool
  carry : Bool
  deadline : Nat
  epoch : Word
  uplink : Option Nat
  members : List Nat
deriving DecidableEq, Repr

def CastList.empty : CastList :=
  { ethernet := false, carry := false, deadline := 200, epoch := 0, uplink := none, members := [] }

/-- A bucket of the step on this module (R229 to R250). -/
structure Bucket where
  ctx : Nat
  tag : Nat
  /-- chain-level and Ethernet-level lists; 256 while only transfers of the other level have come -/
  cast : Nat
  ecast : Nat
  levels : Nat
  opt : Nat
  tensor : Nat
  src : Nat
  count : Nat
  soff : Nat
  /-- its LE_REDUCE has started -/
  seen : Bool
  /-- T_a at the chain level, and at the Ethernet level the moment its chain part was complete -/
  accepted : Option Nat
  accepted1 : Option Nat
  /-- T_f of the chain level and of the Ethernet level -/
  firstIn0 : Option Nat
  firstIn1 : Option Nat
  /-- deadlines in ns of its chain and Ethernet lists, and the chain list's policy, as they stood when it began (R363) -/
  dl0 : Option Nat
  dl1 : Option Nat
  carry : Option Bool
  /-- own contribution found late at a level (R240) -/
  late0 : Bool
  late1 : Bool
  /-- own contribution after pick-up: values, scale, contribution count 1 or 2; the entry it picked up -/
  own : List (BitVec 16)
  scale : Byte
  ownCount : Nat
  carriedIn : Option (Byte × List (BitVec 16))
  /-- transfers held until the own contribution is accepted or its deadline passes (R239) -/
  heldIn : List (BucketHdr × List (BitVec 16))
  /-- chunks completed here: chunk, header, values; those of a chunk's second ring apart -/
  chunks : List (Nat × BucketHdr × List (BitVec 16))
  checks : List (Nat × BucketHdr × List (BitVec 16))
  /-- chunks compared, and of them those that disagreed: chunk, level -/
  compared : List (Nat × Nat)
  disagreed : List (Nat × Nat)
  recomputed : Bool
  /-- place in the order in which the partition's parts became complete (R237) -/
  doneSeq : Option Nat
  landed : Bool
  /-- SET flag of the LE_REDUCE, if it has one -/
  setFlag : Option Nat
  bookoff : Word
  confirmed : Bool
deriving DecidableEq, Repr

/-- A part landed in the DDR landing ring, waiting for its update (R237). -/
structure LandedPart where
  ctx : Nat
  /-- its bucket, by position among the buckets of the step -/
  bucket : Nat
  hdr : BucketHdr
  /-- first element of the part in the bucket, and its elements -/
  first : Nat
  elems : Nat
  /-- offset in the landing ring -/
  at_ : Nat
  /-- bit c = 1 when WEc has updated its elements -/
  doneBy : BitVec 8
deriving DecidableEq, Repr

/-- A contribution carried to the next step (R240, R241): where it stands in the carry area. -/
structure Carried where
  ctx : Nat
  tag : Nat
  tensor : Nat
  count : Nat
  soff : Nat
  step : Word
  scale : Byte
  at_ : Nat
deriving DecidableEq, Repr

/-- A gather in progress (R209, R214). -/
structure Gather where
  ctx : Nat
  words : List Word
  arrived : List Nat
  firstStamp : Option Word
  dead : Bool
  bookoff : Word
deriving DecidableEq, Repr

/-- The step being closed by LE_STEP (R244, R246). -/
structure StepClose where
  ctx : Nat
  curt : Nat
  cast : Nat
  /-- it has arrived at its curtain -/
  arrived : Bool
  setFlag : Option Nat
  released : Option Byte
deriving DecidableEq, Repr

/-- A reblock in progress (R258 to R260). -/
structure Reblock where
  hdr : PcpHdr
  ctx : Nat
  plan : List ReblockEntry
  /-- square rows landed: tensor, square row -/
  landed : List (Nat × Nat)
  maxStamp : Sparse Nat
deriving DecidableEq, Repr

/-- Link-engine work of one partition (R227 to R260), key partition. -/
structure LinkEng where
  /-- chain W queues 0-2, Ethernet 3-5, chain E 6-8 -/
  queues : Sparse (List QCmd)
  buckets : List Bucket
  landing : List LandedPart
  carried : List Carried
  gathers : List Gather
  step : Option StepClose
  /-- book offset of the LE_STEP's entry -/
  stepBook : Word
  /-- reblocks in progress, one for each context that has asked (R258) -/
  reblocks : List Reblock
  /-- contexts whose step NF is set (R245) -/
  stepNf : List Nat
  /-- contexts whose step payload has CHECK, and LATE (Table 8.5) -/
  stepCheck : List Nat
  stepLate : List Nat
  /-- descriptors updated in the step: context, descriptor -/
  updated : List (Nat × Nat)
  /-- transfers that have arrived and wait for their step, or behind a part that has no room to land (R216, R232, R237):
  context, house time of the arrival, header, values -/
  waiting : List (Nat × Nat × BucketHdr × List (BitVec 16))
  /-- the next place in the order of completed parts -/
  nextDone : Nat
deriving DecidableEq, Repr

def LinkEng.idle : LinkEng :=
  { queues := [], buckets := [], landing := [], carried := [], gathers := [], step := none, stepBook := 0xFFFFFFFF, reblocks := [],
    stepNf := [], stepCheck := [], stepLate := [], updated := [], waiting := [], nextDone := 0 }

/-- A request at a memory controller (R310, R316): HBM stacks 0-11, DDR channels 12-19. -/
structure MemReq where
  write : Bool
  addr : Nat
  requester : Nat
  gen : Nat
  part : Nat
  ctx : Nat
  bay : Nat
  tag : Nat
  /-- scratchpad offset of the block -/
  spOff : Nat
  data : List Byte
  /-- on the lane: write data that have come already, by the address of their block (R307) -/
  early : List (Nat × List Byte) := []
deriving DecidableEq, Repr

/-- A memory controller's own state beside its registers (R291 to R298, R316). -/
structure MemCtl where
  /-- on the request lanes, not yet at the controller; then at the controller -/
  lane : List MemReq
  reqs : List MemReq
  /-- 0 untrained, 1 training, 2 ready, 3 failed or disabled -/
  st : Nat
  /-- 1: the slower rate -/
  slow : Bool
  /-- DDR SIZE code -/
  size : Nat
  fenced : Bool
  /-- generation of requester r; default 0 -/
  gens : Sparse Nat
  patrol : Nat
deriving DecidableEq, Repr

def MemCtl.idle : MemCtl :=
  { lane := [], reqs := [], st := 0, slow := false, size := 0, fenced := false, gens := [], patrol := 0 }

/-- A key range of the DDR controllers (R298, Table 10.11). -/
structure KeyRange where
  page : Nat
  pages : Nat
  slot : Nat
deriving DecidableEq, Repr

/-- A packet sent and not yet acknowledged, or a payload waiting to be sent. -/
structure TxPkt where
  psn : Nat
  payload : List Byte
  sent : Nat
  tries : Nat
deriving DecidableEq, Repr

/-- A Poelalin connection (R344, R346). -/
structure Conn where
  peer : Nat
  cls : Nat
  conn : Nat
  /-- this module has opened it -/
  opener : Bool
  /-- the 64 bytes of K that the two modules have agreed (R346); 0 in class 6 -/
  key : Nat
  /-- next PSN expected, PSNs received beyond it with their payloads -/
  rxNext : Nat
  rxBuf : List (Nat × List Byte)
  rxUnacked : Nat
  /-- house time at which the oldest unacknowledged data packet arrived -/
  rxSince : Nat
  txNext : Nat
  txUnacked : List TxPkt
  txLimit : Nat
  xseq : Nat
deriving DecidableEq, Repr

/-- What waits for egress (R345): class, peer, connection, PSN, payload and the house time at which it became ready. -/
structure OutMsg where
  /-- 0 a new payload, 1 a retransmission, 2 an acknowledgement, 3 an answer of another protocol of Table 12.1 -/
  kind : Nat
  cls : Nat
  peer : Nat
  conn : Nat
  psn : Nat
  payload : List Byte
  ready : Nat
deriving DecidableEq, Repr

/-- What a frame that is sent carries: a transport packet under a key (R343), an answer of another protocol of Table 12.1, or
PFC for a priority. -/
inductive FrameBody where
  | packet (key : Nat) (t : TransPkt)
  | control (bs : List Byte)
  | pfc (prio : Nat) (pause : Bool)
deriving DecidableEq, Repr

/-- A frame put on the wire (Table 12.1). -/
structure EthFrame where
  peer : Nat
  prio : Nat
  vid : Nat
  body : FrameBody
deriving DecidableEq, Repr

/-- The Ethernet port beside its registers (R342 to R366). -/
structure Eth where
  link : Bool
  slow : Bool
  conns : List Conn
  /-- frames waiting per class, oldest first -/
  egress : List OutMsg
  /-- frames put on the wire, oldest first -/
  wire : List EthFrame
  /-- classes 3 and 5 are paused by the neighbour, and pause it (R345) -/
  paused3 : Bool
  paused5 : Bool
  pausing3 : Bool
  pausing5 : Bool
  ptpOffset : Int
  ptpGood : Nat
  /-- the time transmitter chosen, the path delay, the last Sync (sent, received) and delay request sent (R359) -/
  ptpMaster : Option PtpData
  ptpDelay : Int
  ptpSync : Option (Int × Int)
  ptpReq : Option Int
  /-- payloads delivered in PSN order to Yemir or the link engine: class, peer, payload -/
  delivered : List (Nat × Nat × List Byte)
  slaac : Option (BitVec 128)
  /-- neighbour table: addresses of peers known (R363) -/
  neighbours : List Nat
  /-- cluster root: ARRIVEs held, by partition, curtain, list and epoch (R364) -/
  arrives : List CurtMsg
  /-- RELEASEs that came before the last local arrival of their generation, with their house time (R365) -/
  releases : List (CurtMsg × Nat)
deriving DecidableEq, Repr

/-- A flit to send (Tables 13.1 and 13.2): its part of a message, before encryption. -/
structure TxFlit where
  seq : Nat
  vl : Nat
  som : Bool
  eom : Bool
  islocal : Bool
  dest : Nat
  src : Nat
  part : List Byte
  /-- the message's number on its lane (R375), the part's offset in it, and, in its last flit, all of it -/
  count : Nat
  off : Nat
  whole : List Byte
  /-- it came in at the other port, whose buffer it frees as it leaves (R371, R382) -/
  relay : Bool
deriving DecidableEq, Repr

/-- A flit as received: its header (Table 13.2), its part of a message as decrypted, the verdict of its message's tag. -/
structure ChainFlit where
  seq : Nat
  ack : Nat
  nak : Bool
  vl : Nat
  som : Bool
  eom : Bool
  islocal : Bool
  len : Nat
  cvl : Nat
  credits : Nat
  dest : Nat
  src : Nat
  plain : List Byte
  tagOk : Bool
deriving DecidableEq, Repr

/-- What a port puts on the line (R368): a flit under a key with its ACK, a control flit, a curtain slice under a key with its
64-bit count (R375). -/
inductive LineItem where
  | data (key : Nat) (f : TxFlit) (ack : Nat)
  | ctl (nak : Bool) (ack cvl credits : Nat)
  | slice (key : Nat) (c : CurtSlice) (count : Nat)
deriving DecidableEq, Repr

/-- A message that is forwarded flit by flit (R382): its number on the outbound lane, and its bytes sent so far. -/
structure Relay where
  count : Nat
  off : Nat
deriving DecidableEq, Repr

/-- A splice record that is open (R376): its beats, and the bay's cycle of the last. -/
structure SpliceRec where
  beats : List Beat
  at_ : Nat
deriving DecidableEq, Repr

def SpliceRec.empty : SpliceRec := { beats := [], at_ := 0 }

/-- A chain port's link (R367 to R376). -/
structure ChainPort where
  /-- false: absent or down -/
  up : Bool
  lost : Bool
  downSince : Nat
  trainedOnce : Bool
  /-- the 64 bytes of K that the link agreed when it trained (R375) -/
  key : Nat
  txSeq : Nat
  txUnacked : List TxFlit
  /-- flits waiting, in order within a lane -/
  txQueue : List TxFlit
  /-- failed resends of the flit with SEQ resendSeq, consecutive (R369) -/
  resends : Nat
  resendSeq : Nat
  /-- the lane whose turn it is, and the flits left of its turn (R371) -/
  turn : Nat
  turnLeft : Nat
  /-- messages sent and received on each lane (R375) -/
  msgTx : Sparse Nat
  msgRx : Sparse Nat
  rxSeq : Nat
  /-- flits received of messages that are not complete and verified, oldest first -/
  rxMsg : List ChainFlit
  /-- SEQs after the first of them whose messages have been dealt with: a resend of one is not taken again -/
  rxDone : List Nat
  /-- messages on their way through this module, by lane and source -/
  relays : Sparse Relay
  /-- beats in the VL2 buffer that wait for their station's queue, each with the credits it frees (R67, R371) -/
  splices : List (Dir × Beat × Nat)
  recCw : SpliceRec
  recCcw : SpliceRec
  /-- delivered messages: lane, source, payload -/
  delivered : List (Nat × Nat × List Byte)
  credits1 : Nat
  credits2 : Nat
  credits3 : Nat
  /-- consecutive tag failures of a message, by lane and source (R375) -/
  tagFails : Sparse Nat
  /-- what has been put on the line, oldest first (R368) -/
  line : List LineItem
  /-- curtain slices sent and not acknowledged, with their count and the house time sent -/
  curtOut : List (CurtSlice × Nat × Nat)
  /-- the count of the next slice to send, and of the last received in order (R373, R375) -/
  sliceTx : Nat
  sliceRx : Nat
  /-- a slice received has not been acknowledged yet -/
  ackDue : Bool
  timeOffset : Int
  timeGood : Nat
  timeSent : Nat
  timeRecv : Nat
deriving DecidableEq, Repr

def ChainPort.idle : ChainPort :=
  { up := false, lost := false, downSince := 0, trainedOnce := false, key := 0, txSeq := 0, txUnacked := [], txQueue := [],
    resends := 0, resendSeq := 0, turn := 2, turnLeft := 0, msgTx := [], msgRx := [], rxSeq := 0, rxMsg := [], rxDone := [],
    relays := [], splices := [], recCw := SpliceRec.empty, recCcw := SpliceRec.empty, delivered := [], credits1 := 64,
    credits2 := 256, credits3 := 1024, tagFails := [], line := [], curtOut := [], sliceTx := 1, sliceRx := 0, ackDue := false,
    timeOffset := 0, timeGood := 0, timeSent := 0, timeRecv := 0 }

/-- The chain as this module knows it (R374, R377 to R381). -/
structure Chain where
  w : ChainPort
  e : ChainPort
  head : Bool
  isLoop : Bool
  /-- 0 waiting, 1 enumerating, 2 done, 3 failed -/
  enumSt : Nat
  enumAt : Nat
  addr : Option Nat
  count : Nat
  /-- lost link between modules b and b + 1 of a loop -/
  broken : Option Nat
  /-- ARRIVEs counted at the head -/
  arrives : List CurtSlice
deriving DecidableEq, Repr

/-- An event log entry (Table 14.4). -/
structure LogEntry where
  number : Nat
  time : Nat
  ht : Bool
  code : Nat
  severity : Nat
  dropped : Nat
  loc : Nat
  risk : Nat
  data : Nat
deriving DecidableEq, Repr

/-- A session (R356). Role 0: owner; 1 + p: tenant of partition p. -/
structure Session where
  id : BitVec 64
  role : Nat
  peer : Nat
  lastSeq : Option Nat
  /-- time of the last accepted request (R356), before 0 when the die has been powered up since -/
  lastTime : Int
  tenantGen : Byte
  /-- the 64 bytes of K (R357): host to device, device to host -/
  key : Nat
  /-- requests accepted and not yet answered -/
  open_ : Nat
deriving DecidableEq, Repr

/-- A reply that Yemir has sent (Table 12.4): opcode, status, request number, payload. -/
structure Reply where
  peer : Nat
  /-- the module of the chain through which it goes back (R349) -/
  via : Option Nat
  session : BitVec 64
  opcode : Nat
  status : Nat
  sequence : Word
  chain : Byte
  context : BitVec 4
  partition : BitVec 2
  enc : Bool
  /-- the session's device-to-host key (R357) -/
  key : Nat
  payload : List Byte
deriving DecidableEq, Repr

/-- A firmware slot (R412 to R414). -/
structure FwSlot where
  valid : Bool
  version : Word
  rollback : Nat
  advance : Bool
  pending : Bool
  fails : Nat
  image : Sparse Byte
deriving DecidableEq, Repr

/-- Sensor readings as last sampled (Table 14.3). -/
structure Sensors where
  vin : Nat
  iin : Nat
  railV : Sparse Nat
  railI : Sparse Nat
  /-- quarter degrees -/
  bayTemp : Sparse Nat
  droop : Sparse Nat
  hbmTemp : Sparse Nat
  /-- quarter degrees -/
  dimmTemp : Sparse Nat
  /-- tenths of a degree -/
  inlet : Nat
  outlet : Nat
  coolantOver : Bool
deriving DecidableEq, Repr

/-- Yemir (R386 to R418). -/
structure Yemir where
  /-- YMR_STATE.STATE -/
  st : Nat
  dieOn : Bool
  inRom : Bool
  halted : Bool
  heartbeat : Word
  watchdogAt : Nat
  /-- owner key digest and policy, none when unowned -/
  owner : Option Nat
  policy : Word
  ownerKeyW : Sparse Word
  ownerPolW : Word
  ownerCmd : Nat
  ownerResult : Nat
  sessions : List Session
  /-- requests of a context not yet answered: context number and opcode -/
  busy : List (Nat × Nat)
  replies : List Reply
  /-- requests forwarded over the chain and not answered (R349): session, sequence, sender -/
  relayed : List (BitVec 64 × Word × Nat)
  /-- replies to unauthenticated requests in the present second, and that second (R349) -/
  authSecond : Nat
  authCount : Nat
  log : List LogEntry
  nextEvent : Nat
  /-- events written in the present second of uptime, that second, and events not written (R390) -/
  logSecond : Nat
  logCount : Nat
  dropped : Nat
  /-- event accumulator E, thresholds that are disarmed (bit 0 NOTICE, 1 REQUEST, 2 FORCE) -/
  riskE : Nat
  disarmed : BitVec 3
  score : Nat
  /-- house-time minute of the last decay -/
  decayed : Nat
  /-- corrected errors and resends counted in the last 600 s: house time and number (R393) -/
  ceHist : List (Nat × Nat)
  lrHist : List (Nat × Nat)
  sensors : Sensors
  capW : Nat
  capE : Nat
  thermW : Nat
  thermE : Nat
  thermTimeW : Nat
  thermTimeE : Nat
  /-- a half's cap is being lowered: the first lowering has been logged (R389) -/
  thermLogW : Bool
  thermLogE : Bool
  alert : BitVec 6
  wdog : Bool
  alertMask : BitVec 6
  i3cIndex : Nat
  /-- words that the last I3C private read returned -/
  i3cOut : List Word
  slotA : FwSlot
  slotB : FwSlot
  activeB : Bool
  rollback : Nat
  /-- next one-time signature index, and indices reserved in both flash copies (R403) -/
  xmssNext : Nat
  xmssReserved : Nat
  bootAt : Nat
  wdogPending : Option Word
deriving DecidableEq, Repr

/-- A mailbox channel (R397 to R401); key 0-15. -/
structure Mailbox where
  entries : List (List Word)
  staged : Sparse Word
  overwrite : Bool
  dbOvr : Bool
  collision : Bool
  /-- a doorbell is in its event crossing (R398) -/
  doorbell : Bool
deriving DecidableEq, Repr

/-- A reset in progress (R422 to R429). -/
structure ResetOp where
  hdr : PcpHdr
  level : Nat
  part : Nat
  ctx : Nat
  cls : Nat
  bay : Nat
  index : Nat
  since : Nat
  /-- the drain has ended and the reset itself has run -/
  drained : Bool
  /-- L4 only: HBM and DDR have trained, the self-test has run, the keys are back (R291, R294, R154, R299) -/
  hbmDone : Bool
  ddrDone : Bool
  tested : Bool
  keysBack : Bool
deriving DecidableEq, Repr

/-- A snapshot this module has taken (R433 to R440): where it is held, its manifest, and its parts in the clear. -/
structure Snapshot where
  id : BitVec 64
  part : Nat
  ctx : Nat
  /-- held in the context's own slot; held in the buddy slot; its state halves have been copied (R436) -/
  own : Bool
  replicated : Bool
  complete : Bool
  /-- address and bytes of the own slot -/
  addr : Nat
  slot : Nat
  /-- IMAGE and STATE of the manifest (Table 15.3) -/
  image : Nat
  state : Nat
  /-- number of the free bytes that its chunks are as ciphertext (R438) -/
  cipher : Nat
  /-- SIGNATURE; the taker's signature verifies -/
  sig : List Byte
  sigOk : Bool
  owner : Nat
  /-- 256-byte blocks of the own slot that no longer hold its bytes -/
  dirty : List Nat
  measure : List Byte
  shape : Nat
  lstations : Nat
  hbmSize : Nat
  ddrSize : Nat
  spBytes : Nat
  key : BitVec 128
  /-- the tenant seed it was taken under, and when that was drawn (R409, R441) -/
  seed : Nat
  seedTime : Nat
  credit : Sparse Nat
  progress : Word
  curtains : Sparse Curtain
  /-- sticky flags by logical station, and by stagehand of a logical bay, key 128 * bay + stagehand -/
  stnFlags : Sparse (BitVec 5)
  shFlags : Sparse (BitVec 5)
  casts : List (Nat × CastList)
  /-- bytes by offset: the HBM quota, the scratchpad quota of each logical bay, the carry area with its entries, and the
  live half of each optimizer descriptor -/
  hbm : Sparse Byte
  sp : List (Sparse Byte)
  carry : Sparse Byte
  carried : List Carried
  halves : List (Sparse Byte)
  /-- accumulators and ledger of each logical station -/
  accs : List (Sparse (BitVec 28))
  ledgers : List (Sparse Word)
deriving DecidableEq, Repr, Inhabited

/-- An intermission asked for (R431): its context, cause, request and expiry. -/
structure IReq where
  part : Nat
  ctx : Nat
  /-- 0 host, 1 schedule, 2 forced -/
  cause : Nat
  copyHost : Bool
  hdrs : List PcpHdr
  expires : Option Nat
deriving DecidableEq, Repr

/-- Intermissions (R431 to R446). -/
structure Inter where
  /-- requests waiting, in order; the first is the one in progress when phase ≠ 0 -/
  reqs : List IReq
  /-- FLT_ISTAT.PHASE -/
  phase : Nat
  replica : Bool
  pinned : Bool
  /-- the pinned half of each optimizer descriptor (R435) -/
  pinHalves : List Nat
  part : Nat
  ctx : Nat
  /-- house time at which the stop began -/
  stopAt : Nat
  serial : Nat
  snaps : List Snapshot
  /-- house time of the last replication progress -/
  progressAt : Nat
  /-- the replication in progress has been handed to the chain port -/
  replicaSent : Bool
  copyHost : Bool
  /-- where the copy goes: the peer of the session that asked for it (R437) -/
  copyPeer : Nat
  /-- tenant seeds that this module's Yemir has sent to its buddy: partition and seed (R439) -/
  seeds : List (Nat × Nat)
deriving DecidableEq, Repr

/-- The machine. -/
structure State where
  /-- commands waiting, first in first out -/
  pending : List Instr
  fuse : Fuse
  pins : Pins
  power : Power
  clock : Clock
  /-- control registers that hold their own value, by control-space address; an unlisted one is at its reset value -/
  regs : Sparse Word
  /-- the data space, by data-space address: HBM, DDR, scratchpad window; an unlisted byte is zero -/
  mem : List Host.Cell
  /-- bit errors in stored words: 8-byte word of the data space to 1 (correctable) or 2 (uncorrectable); default 0 -/
  memErr : Sparse Nat
  /-- the key each DDR block was written under, by block number; default the device key of power-up (R298) -/
  ddrKeyed : Sparse Nat
  /-- bays 0-47 -/
  bays : Sparse Bay
  /-- stagehands by linear id; default idle -/
  stagehands : Sparse Stagehand
  /-- revolve input queues, key 8 * station + 4 * (0 CW, 1 CCW) + input (0 ring, 1 crossover, 2 splice); default
  empty -/
  revolve : Sparse (List Beat)
  /-- scrub walkers, key 4 * linear id + bank -/
  walkers : Sparse Walker
  flits : List Flit
  /-- the last slot, by number of the bay cycle, in which port p of router r put a flit on its way: key 5 * r + p -/
  slotUsed : Sparse Nat
  /-- packets on the cue network, those of one input queue in their order -/
  cuePkts : List CueTransit
  /-- cycles of the cue network since power-up; per output (4 times the node, plus the port less one) the cycle from which
  it is free, and the input that it served last (R181) -/
  cueCyc : Nat
  cueLinks : Sparse Nat
  cueTurn : Sparse Nat
  /-- packets that have reached their node and wait for their engine -/
  cueArrived : List CuePkt
  crt : CurtNet
  cps : Sparse CueProc
  ctxs : Sparse Context
  parts : Sparse Partition
  /-- the die's shape: 0 none, 1, 2 or 4 partitions (R268) -/
  shape : Nat
  /-- fault records, key 16 * partition + context -/
  faults : Sparse (Option FaultRec)
  links : Sparse LinkEng
  casts : Sparse CastList
  ctls : Sparse MemCtl
  /-- DDR key slots 0-4: the key each holds, as an entropy number; default none -/
  keySlots : Sparse Nat
  keyRanges : List KeyRange
  eth : Eth
  chain : Chain
  ymr : Yemir
  mbx : Sparse Mailbox
  resets : List ResetOp
  inter : Inter
  /-- bays whose rows could not be repaired (R155), by number -/
  badBays : List Nat
  /-- the model's own: counter of free values and of entropy drawn -/
  free : Nat
deriving DecidableEq, Repr

/-- Why the block stops on a command. Nothing in the spec stops it: every error is a register, a fault record, a status
or an event, so there is no constructor, and nothing raises one (safe). -/
inductive Fault where
deriving DecidableEq, Repr

/-- Why the model has no meaning for a command. -/
inductive Refusal where
  /-- raised by exec's arm of a command that has no meaning yet. Safe: the model stops. -/
  | notModelled (mnemonic : String)
deriving DecidableEq, Repr

/-- A bay's clock at its reset values (Table 11.5). -/
def BayClk.reset : BayClk :=
  { code := 0x5A, alimit := 0x5A, stopped := false, fallback := false, cyc := 0, latch := 0, phase := 0, eighths := 8,
    nextEighths := 8, runLen := 0, winStart := 0, winStretch := 0, quiet := 0, moved := 0, busyCyc := 0, adv := 0,
    wakeEv := false, scrubEv := false, woke := none, stopAt := none }

/-- A bay at its reset values (Tables 2.10, 6.5, 10.12; R77, R89, R427). -/
def Bay.reset : Bay :=
  { queues := [], started := [], nextId := 0, slots := [], tiles := [], acc := [], bankA := false, bankB := false,
    ledger := [], flags := 0, tapCw := none, tapCcw := none, carryCw := [], carryCcw := [], ramps := [], reIn := [],
    reGamma := none, reBeta := none, freeing := [], ctx := 0, passThrough := true, transfers := [], seBytes := 0, writeBack := [], clk := BayClk.reset,
    tapCount := 0, served := [] }

/-- The ramped-down state of an array (R96). -/
def Ramp.down : Ramp := { step := 0, rising := false, code := 1, acc := 0, since := 0, credit := 0 }

def Walker.start : Walker := { row := 0, passStart := 0, passes := 0, lastPass := 0, forcedPeriod := 0, visited := [] }

def Partition.empty : Partition := { cur := none, since := 0, endOfPass := false, parentRang := false, seed := 0, seedTime := 0 }

def CurtNet.reset : CurtNet :=
  { waiting := [], toRoot := [], numbered := [], applied := [], flags := [], releases := [], given := [], joined := [],
    curtains := [], seq := 0, rootCyc := 0, rootSets := [] }

def Eth.reset : Eth :=
  { link := false, slow := false, conns := [], egress := [], wire := [], paused3 := false, paused5 := false, pausing3 := false,
    pausing5 := false, ptpOffset := 0, ptpGood := 0, ptpMaster := none, ptpDelay := 0, ptpSync := none, ptpReq := none,
    delivered := [], slaac := none, neighbours := [], arrives := [], releases := [] }

def Chain.reset : Chain :=
  { w := ChainPort.idle, e := ChainPort.idle, head := false, isLoop := false, enumSt := 0, enumAt := 0, addr := none,
    count := 0, broken := none, arrives := [] }

def FwSlot.blank : FwSlot :=
  { valid := false, version := 0, rollback := 0, advance := false, pending := false, fails := 0, image := [] }

def Sensors.reset : Sensors :=
  { vin := 0, iin := 0, railV := [], railI := [], bayTemp := [], droop := [], hbmTemp := [], dimmTemp := [],
    inlet := 0, outlet := 0, coolantOver := false }

/-- Yemir at its reset values (Table 14.12), with the firmware of slot A as shipped and no owner (R405). -/
def Yemir.reset : Yemir :=
  { st := 0, dieOn := false, inRom := false, halted := false, heartbeat := 0, watchdogAt := 0, owner := none,
    policy := 0, ownerKeyW := [], ownerPolW := 0, ownerCmd := 0, ownerResult := 0, sessions := [], busy := [],
    replies := [], relayed := [], authSecond := 0, authCount := 0, log := [], nextEvent := 0, logSecond := 0, logCount := 0,
    dropped := 0, riskE := 0, disarmed := 0, score := 0, decayed := 0, ceHist := [], lrHist := [], sensors := Sensors.reset, capW := 0x5A, capE := 0x5A, thermW := 0x5A, thermE := 0x5A,
    thermTimeW := 0, thermTimeE := 0, thermLogW := false, thermLogE := false, alert := 0, wdog := false, alertMask := 0x3F,
    i3cIndex := 0, i3cOut := [], slotA := { FwSlot.blank with valid := true }, slotB := FwSlot.blank, activeB := false,
    rollback := 0, xmssNext := 0, xmssReserved := 0, bootAt := 0, wdogPending := none }

/-- Mailbox channel n at its reset values (Tables 14.7 and 14.8). -/
def Mailbox.reset (n : Nat) : Mailbox :=
  { entries := [], staged := [], overwrite := decide (8 ≤ n ∧ n ≤ 11), dbOvr := false, collision := false,
    doorbell := false }

def Inter.reset : Inter :=
  { reqs := [], phase := 0, replica := false, pinned := false, pinHalves := [], part := 0, ctx := 0, stopAt := 0, serial := 0,
    snaps := [], progressAt := 0, replicaSent := false, copyHost := false, copyPeer := 0, seeds := [] }

/-- The module right after its registers have taken their power-up values, TRAY_PWR_EN low: nothing runs until
TRAY_PWR_EN rises (R456). The fused values are those of an AXL-OZR96-W of stepping A1 (DESIGN CHOICE, entry 2). -/
def State.reset : State :=
  { pending := [],
    fuse := { bayMask := 0xFFFFFFFFFFFF, stepping := 0xA1, mac := 0, vendorRoot := 0, identitySeed := 0 },
    pins := { pwrEn := false, resetN := true, throttleN := true, chainHead := false, modPgood := false,
              i3cAddr := none, ibi := none },
    power := .off,
    clock := { house := 0, frac := 0, trim := 0, latch := 0, uptime := 0, thrNs := 0, refLost := false, refOk := true,
               thrPin := false, thrSupply := false, faultEv := false, sag := none,
               sagEnd := 0 },
    regs := [], mem := [], memErr := [], ddrKeyed := [], bays := [], stagehands := [], revolve := [], walkers := [],
    flits := [], slotUsed := [], cuePkts := [], cueCyc := 0, cueLinks := [], cueTurn := [], cueArrived := [], crt := CurtNet.reset, cps := [], ctxs := [], parts := [], shape := 0,
    faults := [], links := [], casts := [], ctls := [], keySlots := [], keyRanges := [], eth := Eth.reset,
    chain := Chain.reset, ymr := Yemir.reset, mbx := [], resets := [], inter := Inter.reset, badBays := [],
    free := 0 }

end Sys2Proof.Machine
end

