-- ==== Sys2Proof/Machine/Ops.lean ====
section
/-!
DEFINITION. Machine/Ops.lean: the named operations over sparse stores, memory and the parts of the machine.
-/
namespace Sys2Proof.Machine

/-- Value of key k, or the default. -/
def sget {α : Type} (d : α) : Sparse α → Nat → α
  | [], _ => d
  | (j, v) :: m, k => if j = k then v else sget d m k

/-- The store without key k. -/
def sdel {α : Type} : Sparse α → Nat → Sparse α
  | [], _ => []
  | (j, v) :: m, k => if j = k then sdel m k else (j, v) :: sdel m k

/-- Insert key k at its place in rising order. -/
def sins {α : Type} : Sparse α → Nat → α → Sparse α
  | [], k, v => [(k, v)]
  | (j, w) :: m, k, v => if k < j then (k, v) :: (j, w) :: m else (j, w) :: sins m k v

/-- Write key k; writing the default removes the entry, so the store stays in its one canonical form. -/
def sset {α : Type} [DecidableEq α] (d : α) (m : Sparse α) (k : Nat) (v : α) : Sparse α :=
  if v = d then sdel m k else sins (sdel m k) k v

/-- Every key at least lo, keys rising, no entry equal to the default. -/
def swfFrom {α : Type} [DecidableEq α] (d : α) (lo : Nat) : Sparse α → Bool
  | [] => true
  | (k, v) :: m => decide (lo ≤ k) && !(decide (v = d)) && swfFrom d (k + 1) m

/-- The canonical form of a sparse store. -/
def swf {α : Type} [DecidableEq α] (d : α) (m : Sparse α) : Bool := swfFrom d 0 m

/-- The canonical form of memory: addresses strictly rising, no entry equal to what an unlisted address reads as. -/
def Memory.wf (m : List Host.Cell) : Bool := swf (0 : Byte) m

/-- One byte of the data space (an unlisted byte reads 0: entry 6). -/
def State.byte (s : State) (a : Nat) : Byte := sget 0 s.mem a

/-- Store one byte. -/
def State.putByte (s : State) (a : Nat) (v : Byte) : State := { s with mem := sset 0 s.mem a v }

/-- n bytes from a upward. -/
def State.bytes (s : State) (a : Nat) : Nat → List Byte
  | 0 => []
  | n + 1 => s.byte a :: s.bytes (a + 1) n

/-- Store bytes from a upward. -/
def State.putBytes (s : State) (a : Nat) : List Byte → State
  | [] => s
  | v :: vs => (s.putByte a v).putBytes (a + 1) vs

/-- Little-endian value of bytes (R9). -/
def leNat : List Byte → Nat
  | [] => 0
  | b :: bs => b.toNat + 256 * leNat bs

/-- The n low bytes of a number, little-endian (R9). -/
def toLE : Nat → Nat → List Byte
  | 0, _ => []
  | n + 1, v => BitVec.ofNat 8 v :: toLE n (v / 256)

/-- Bits hi down to lo of a word, as a number (R9). -/
def fld (w : Word) (hi lo : Nat) : Nat := (w.toNat >>> lo) % 2 ^ (hi + 1 - lo)

/-- A word from (value, high bit, low bit) fields that do not overlap. -/
def wordOf (l : List (Nat × Nat × Nat)) : Word :=
  l.foldl (fun w f => w ||| BitVec.ofNat 32 ((f.1 % 2 ^ (f.2.1 + 1 - f.2.2)) * 2 ^ f.2.2)) 0
def b2n (b : Bool) : Nat := if b then 1 else 0
/-- Words of a wide number. -/
def lo32 (n : Nat) : Word := BitVec.ofNat 32 n
def hi32 (n : Nat) : Word := BitVec.ofNat 32 (n / 2 ^ 32)

/-- Bit i of a word. -/
def bit (w : Word) (i : Nat) : Bool := w.toNat.testBit i

/-- The two's-complement value of an n-bit number. -/
def signed (n v : Nat) : Int := if v % 2 ^ n < 2 ^ (n - 1) then (v % 2 ^ n : Nat) else (v % 2 ^ n : Nat) - (2 ^ n : Nat)

/-- A list with the element at position i replaced. -/
def listSet {α : Type} : List α → Nat → α → List α
  | [], _, _ => []
  | _ :: xs, 0, y => y :: xs
  | x :: xs, i + 1, y => x :: listSet xs i y

/-- A list without the element at position i. -/
def listDrop {α : Type} : List α → Nat → List α
  | [], _ => []
  | _ :: xs, 0 => xs
  | x :: xs, i + 1 => x :: listDrop xs i

/-- Saturating increment of a 32-bit counter. -/
def satInc (w : Word) (n : Nat) : Word := if w.toNat + n ≥ 0xFFFFFFFF then 0xFFFFFFFF else BitVec.ofNat 32 (w.toNat + n)

/-- A byte string brought to n bytes. -/
def fitTo (n : Nat) (bs : List Byte) : List Byte := (bs ++ List.replicate n 0).take n

end Sys2Proof.Machine
end

