-- ==== Sys2Proof/Machine/Flags.lean ====
section
/-!
DEFINITION. Machine/Flags.lean: number formats, rounding, exact arithmetic and the sticky flags they set (chapter 4).
-/
namespace Sys2Proof.Machine

/-- The five sticky flags, at the bit positions of STN_FLAGS (Table 2.10). -/
abbrev StickyFlags := BitVec 5

def flagInv : StickyFlags := 0x01
def flagOvf : StickyFlags := 0x02
def flagUnf : StickyFlags := 0x04
def flagInx : StickyFlags := 0x08
def flagNf : StickyFlags := 0x10

/-- What a format has beyond finite values (Table 4.2). -/
inductive Specials where
  | none
  /-- E4M3: one NaN pattern per sign, no infinity -/
  | nanOnly
  | ieee
deriving DecidableEq, Repr

/-- A floating-point format of Table 4.2. -/
structure Fmt where
  eb : Nat
  mb : Nat
  bias : Nat
  sp : Specials
  /-- magnitude code of the largest finite value -/
  maxCode : Nat
  /-- the NaN that Ozrun writes -/
  nan : Nat
deriving DecidableEq, Repr

def fmtE4M3 : Fmt := { eb := 4, mb := 3, bias := 7, sp := .nanOnly, maxCode := 0x7E, nan := 0x7F }
def fmtE5M2 : Fmt := { eb := 5, mb := 2, bias := 15, sp := .ieee, maxCode := 0x7B, nan := 0x7F }
def fmtE2M3 : Fmt := { eb := 2, mb := 3, bias := 1, sp := .none, maxCode := 0x1F, nan := 0 }
def fmtE3M2 : Fmt := { eb := 3, mb := 2, bias := 3, sp := .none, maxCode := 0x1F, nan := 0 }
def fmtE2M1 : Fmt := { eb := 2, mb := 1, bias := 1, sp := .none, maxCode := 0x7, nan := 0 }
def fmtBF16 : Fmt := { eb := 8, mb := 7, bias := 127, sp := .ieee, maxCode := 0x7F7F, nan := 0x7FC0 }
def fmtG16 : Fmt := { eb := 6, mb := 9, bias := 31, sp := .ieee, maxCode := 0x7DFF, nan := 0x7E01 }
def fmtA28 : Fmt := { eb := 8, mb := 19, bias := 127, sp := .ieee, maxCode := 0x7F7FFFF, nan := 0x7FC0000 }

/-- Exponent of one unit in the last place of a subnormal. -/
def Fmt.q0 (f : Fmt) : Int := 1 - (f.bias : Int) - (f.mb : Int)

/-- Infinity's magnitude code. -/
def Fmt.inf (f : Fmt) : Nat := (2 ^ f.eb - 1) * 2 ^ f.mb

/-- A code with its sign bit (R103). -/
def Fmt.withSign (f : Fmt) (neg : Bool) (mag : Nat) : Nat := if neg then 2 ^ (f.eb + f.mb) + mag else mag

/-- The value of a code (R103). -/
def Fmt.decode (f : Fmt) (code : Nat) : Num :=
  let neg := code.testBit (f.eb + f.mb)
  let e := (code >>> f.mb) % 2 ^ f.eb
  let fr := code % 2 ^ f.mb
  let normal : Num := if e = 0 then .fin neg fr f.q0 else .fin neg (2 ^ f.mb + fr) (f.q0 + (e - 1 : Nat))
  match f.sp with
  | .none => normal
  | .nanOnly => if e = 2 ^ f.eb - 1 ∧ fr = 2 ^ f.mb - 1 then .nan else normal
  | .ieee => if e = 2 ^ f.eb - 1 then (if fr = 0 then .inf neg else .nan) else normal

/-- A rounding mode (R113, R114); SR with its 12 random bits. -/
inductive Rnd where
  | rne | rtz
  | sr (r : Nat)
deriving DecidableEq, Repr

/-- |m * 2^e| as a multiple of 2^q: floor, remainder and divisor of the remainder. -/
def quantize (m : Nat) (e q : Int) : Nat × Nat × Nat :=
  if q ≤ e then (m * 2 ^ (e - q).toNat, 0, 1) else (m / 2 ^ (q - e).toNat, m % 2 ^ (q - e).toNat, 2 ^ (q - e).toNat)

/-- Whether the mode rounds a floor fl with remainder rem of d upwards in magnitude (R113, R114). -/
def roundsUp (mode : Rnd) (fl rem d : Nat) : Bool :=
  match mode with
  | .rne => decide (d < 2 * rem) || (decide (2 * rem = d) && decide (fl % 2 = 1))
  | .rtz => false
  | .sr r => decide (r < rem * 4096 / d)

/-- |m * 2^e| < |m' * 2^e'|. -/
def magLt (m : Nat) (e : Int) (m' : Nat) (e' : Int) : Bool :=
  if e' ≤ e then decide (m * 2 ^ (e - e').toNat < m') else decide (m < m' * 2 ^ (e' - e).toNat)

/-- Value of a magnitude code as (significand, exponent). -/
def Fmt.magVal (f : Fmt) (c : Nat) : Nat × Int :=
  match f.decode c with
  | .fin _ m e => (m, e)
  | _ => (0, 0)

/-- floor(log2 (m * 2^e)), m non-zero. -/
def floorLog2 (m : Nat) (e : Int) : Int := (Nat.log2 m : Int) + e

/-- A finite value in a format: code and flags (Tables 4.7 and 4.8). sat: an MX element, which saturates. -/
def Fmt.roundFin (f : Fmt) (sat : Bool) (mode : Rnd) (neg : Bool) (m : Nat) (e : Int) : Nat × StickyFlags :=
  if m = 0 then (f.withSign neg 0, 0)
  else
    let mx := f.magVal f.maxCode
    let above := magLt mx.1 mx.2 m e
    let lg := floorLog2 m e
    let q := max (lg - f.mb) f.q0
    let (fl, rem, d) := quantize m e q
    let mag := (q - f.q0).toNat * 2 ^ f.mb + fl + (if rem ≠ 0 && roundsUp mode fl rem d then 1 else 0)
    if above && (sat || !(decide (f.sp = .ieee))) then (f.withSign neg f.maxCode, flagOvf ||| flagInx)
    else if above then
      let big := (f.withSign neg f.inf, flagOvf ||| flagInx ||| flagNf)
      let top := (f.withSign neg f.maxCode, flagOvf ||| flagInx)
      match mode with
      | .rne => if f.maxCode < mag then big else (f.withSign neg mag, flagInx)
      | .rtz => top
      | .sr r =>
        -- R114: the step above the largest finite value is the ulp of the top binade
        let (num, rest, dd) := quantize m e mx.2
        let excess := (num - mx.1) * dd + rest
        if r < min 4096 (excess * 4096 / dd) then big else top
    else
      let tiny := decide (lg < 1 - (f.bias : Int))
      (f.withSign neg mag, if rem = 0 then 0 else if tiny then flagInx ||| flagUnf else flagInx)

/-- Narrowing of one value (Table 4.8), outside the rule for blocks that hold a NaN or an infinity. -/
def Fmt.narrow (f : Fmt) (sat : Bool) (mode : Rnd) : Num → Nat × StickyFlags
  | .nan => (f.nan, flagNf)
  | .inf neg => if f.sp = .ieee then (f.withSign neg f.inf, flagNf) else (f.nan, flagInv ||| flagNf)
  | .fin neg m e => f.roundFin sat mode neg m e

/-- RNE into a format: what every sum and every lane operation does with its exact result. -/
def Fmt.rne (f : Fmt) (x : Num) : Nat × StickyFlags := f.narrow false .rne x

/-- The value of an MXINT8 element (R104). -/
def decodeInt8 (code : Nat) : Num :=
  let i := signed 8 code
  .fin (decide (i < 0)) i.natAbs (-6)

/-- A quotient as an MXINT8 element (R104, R115, Table 4.8). -/
def narrowInt8 (mode : Rnd) (neg : Bool) (m : Nat) (e : Int) : Nat × StickyFlags :=
  if m = 0 then (0, 0)
  else if magLt 127 (-6) m e then ((if neg then 0x81 else 0x7F), flagOvf ||| flagInx)
  else
    let (fl, rem, d) := quantize m e (-6)
    let k := fl + (if rem ≠ 0 && roundsUp mode fl rem d then 1 else 0)
    ((if neg then (256 - k) % 256 else k),
      if rem = 0 then 0 else if magLt m e 1 (-6) then flagInx ||| flagUnf else flagInx)

/-- A stored element format (Table 3.4). -/
inductive ElemFmt where
  | fp (f : Fmt)
  | int8
deriving DecidableEq, Repr

/-- The element format of a format code of Table 3.4. -/
def elemFmt (code : Nat) : Option ElemFmt :=
  match code with
  | 0 => some (.fp fmtE4M3)
  | 1 => some (.fp fmtE5M2)
  | 2 => some (.fp fmtE2M3)
  | 3 => some (.fp fmtE3M2)
  | 4 => some (.fp fmtE2M1)
  | 5 => some .int8
  | 6 => some (.fp fmtE4M3)
  | 7 => some (.fp fmtE5M2)
  | 8 => some (.fp fmtBF16)
  | 9 => some (.fp fmtG16)
  | _ => none

/-- Codes 0 to 5 carry block scales (R75). -/
def isMx (code : Nat) : Bool := decide (code ≤ 5)

/-- Bits per element as a feeder reads it (R45, R75). -/
def fmtBits (code : Nat) : Nat := if code = 4 then 4 else if code = 8 ∨ code = 9 then 16 else 8

def ElemFmt.decode : ElemFmt → Nat → Num
  | .fp f, c => f.decode c
  | .int8, c => decodeInt8 c

/-- A value times a power of two. -/
def Num.scale (x : Num) (k : Int) : Num :=
  match x with
  | .fin n m e => .fin n m (e + k)
  | y => y

/-- An element under a block scale code (R105). -/
def scaled (sc : Byte) (x : Num) : Num := if sc = 0xFF then .nan else x.scale ((sc.toNat : Int) - 127)

/-- Exact product (Table 4.5). -/
def mulNum : Num → Num → Num × StickyFlags
  | .nan, _ => (.nan, 0)
  | _, .nan => (.nan, 0)
  | .inf a, .inf b => (.inf (xor a b), 0)
  | .inf a, .fin b m _ => if m = 0 then (.nan, flagInv) else (.inf (xor a b), 0)
  | .fin a m _, .inf b => if m = 0 then (.nan, flagInv) else (.inf (xor a b), 0)
  | .fin a m e, .fin b m' e' => (.fin (xor a b) (m * m') (e + e'), 0)

/-- Exact sum of two finite values, signed by R115. -/
def addFin (a : Bool) (m : Nat) (e : Int) (b : Bool) (m' : Nat) (e' : Int) : Num :=
  let q := min e e'
  let x := m * 2 ^ (e - q).toNat
  let y := m' * 2 ^ (e' - q).toNat
  if a = b then .fin a (x + y) q
  else if x = y then .fin false 0 q
  else if y < x then .fin a (x - y) q
  else .fin b (y - x) q

/-- Exact sum (Table 4.7), before rounding. -/
def addNum : Num → Num → Num × StickyFlags
  | .nan, _ => (.nan, 0)
  | _, .nan => (.nan, 0)
  | .inf a, .inf b => if a = b then (.inf a, 0) else (.nan, flagInv)
  | .inf a, _ => (.inf a, 0)
  | _, .inf b => (.inf b, 0)
  | .fin a m e, .fin b m' e' => (addFin a m e b m' e', 0)

def Num.isNan : Num → Bool
  | .nan => true
  | _ => false

def Num.isInf : Num → Bool
  | .inf _ => true
  | _ => false

def Num.isZero : Num → Bool
  | .fin _ 0 _ => true
  | _ => false

def Num.neg : Num → Num
  | .nan => .nan
  | .inf a => .inf (!a)
  | .fin a m e => .fin (!a) m e

def Num.isNeg : Num → Bool
  | .nan => false
  | .inf a => a
  | .fin a _ _ => a

/-- Exact sum of a block (Table 4.6): −0 only when every term is −0. -/
def sumNum (xs : List Num) : Num × StickyFlags :=
  if xs.any Num.isNan then (.nan, 0)
  else xs.foldl (fun acc x => let r := addNum acc.1 x; (r.1, acc.2 ||| r.2)) (.fin true 0 0, 0)

/-- The fused multiply-add before rounding (Table 5.5). -/
def fmaNum (a b c : Num) : Num × StickyFlags :=
  let p := mulNum a b
  let r := addNum p.1 c
  (r.1, p.2 ||| r.2)

/-- a < b as ordered values; a NaN compares false (Table 5.6). -/
def ltNum : Num → Num → Bool
  | .nan, _ => false
  | _, .nan => false
  | .inf a, .inf b => a && !b
  | .inf a, _ => a
  | _, .inf b => !b
  | .fin a m e, .fin b m' e' =>
    if a then (if b then magLt m' e' m e else !(decide (m = 0) && decide (m' = 0)))
    else (if b then false else magLt m e m' e')

/-- a = b as values: +0 and −0 are equal; a NaN equals nothing. -/
def eqNum (a b : Num) : Bool := !a.isNan && !b.isNan && !ltNum a b && !ltNum b a

/-- Maximum (Table 5.6): NaN when either is; +0 above −0. -/
def maxNum (a b : Num) : Num :=
  if a.isNan || b.isNan then .nan
  else if ltNum a b then b
  else if ltNum b a then a
  else if a.isNeg then b else a

/-- Minimum (Table 5.6). -/
def minNum (a b : Num) : Num :=
  if a.isNan || b.isNan then .nan
  else if ltNum a b then a
  else if ltNum b a then b
  else if a.isNeg then a else b

/-- Larger magnitude of the finite values of a list, as (m, e). -/
def maxMag (xs : List Num) : Nat × Int :=
  xs.foldl (fun acc x =>
    match x with
    | .fin _ m e => if magLt acc.1 acc.2 m e then (m, e) else acc
    | _ => acc) (0, 0)

/-- EMAX and MAXVAL of R107. -/
def emaxOf : ElemFmt → Int
  | .fp f => let v := f.magVal f.maxCode; floorLog2 v.1 v.2
  | .int8 => 0

def maxvalOf : ElemFmt → Nat × Int
  | .fp f => f.magVal f.maxCode
  | .int8 => (127, -6)

/-- choose_scale of R107. -/
def chooseScale (vals : List Num) (f : ElemFmt) : Byte :=
  if vals.any (fun v => v.isNan || v.isInf) then 0xFF
  else
    let a := maxMag vals
    if a.1 = 0 then 127
    else
      let x := floorLog2 a.1 a.2 - emaxOf f
      let mv := maxvalOf f
      let x := if magLt mv.1 mv.2 a.1 (a.2 - x) then x + 1 else x
      let x := max (-127) (min 127 x)
      BitVec.ofNat 8 (x + 127).toNat

/-- One quotient of an MX block as an element. -/
def narrowElem (f : ElemFmt) (mode : Rnd) : Num → Nat × StickyFlags
  | .fin n m e =>
    match f with
    | .fp g => g.roundFin true mode n m e
    | .int8 => narrowInt8 mode n m e
  | _ => (0, 0)

/-- OR of the flags of a list of results. -/
def orFlags (l : List (Nat × StickyFlags)) : StickyFlags := l.foldl (fun a r => a ||| r.2) 0

/-- The scale a whole list of values takes, their elements and the flags (R107, R108, Table 4.8); the mode may differ
by position (SR). -/
def narrowWith (f : ElemFmt) (sc : Byte) (mode : Nat → Rnd) (vals : List Num) : List Nat × StickyFlags :=
  if sc = 0xFF then
    (vals.map (fun _ => 0), if vals.any Num.isNan then flagNf else flagNf ||| flagInv)
  else
    let r := (vals.zip (List.range vals.length)).map
      (fun p => narrowElem f (mode p.2) (p.1.scale (127 - (sc.toNat : Int))))
    (r.map Prod.fst, orFlags r)

/-- An MX block: scale, elements, flags. -/
def narrowBlock (f : ElemFmt) (mode : Nat → Rnd) (vals : List Num) : Byte × List Nat × StickyFlags :=
  let sc := chooseScale vals f
  let r := narrowWith f sc mode vals
  (sc, r.1, r.2)

/-- A28 addition with one RNE rounding (R120, Table 4.7). -/
def addA28 (c : BitVec 28) (x : Num) : BitVec 28 × StickyFlags :=
  let r := addNum (fmtA28.decode c.toNat) x
  let w := fmtA28.rne r.1
  (BitVec.ofNat 28 w.1, r.2 ||| w.2)

/-- G16 addition of one bucket (R120, Table 4.7). -/
def addG16 (a b : BitVec 16) : BitVec 16 × StickyFlags :=
  let r := addNum (fmtG16.decode a.toNat) (fmtG16.decode b.toNat)
  let w := fmtG16.rne r.1
  (BitVec.ofNat 16 w.1, r.2 ||| w.2)

/-- Value of a BF16 code. -/
def bf16 (c : BitVec 16) : Num := fmtBF16.decode c.toNat

/-- Value of an A28 code. -/
def a28 (c : BitVec 28) : Num := fmtA28.decode c.toNat

/-- A BF16 code of an exact result. -/
def toBf16 (x : Num) : BitVec 16 × StickyFlags := let r := fmtBF16.rne x; (BitVec.ofNat 16 r.1, r.2)

/-- An A28 code of an exact result. -/
def toA28 (x : Num) : BitVec 28 × StickyFlags := let r := fmtA28.rne x; (BitVec.ofNat 28 r.1, r.2)

/-- Exponent of ulp(h) of R110. -/
def ulpExp (h : BitVec 16) : Int :=
  let e := (h.toNat >>> 7) % 256
  if e = 0 then -133 else (e : Int) - 134

/-- The value of a split-24 element (R110). -/
def readSplit24 (h : BitVec 16) (l : Byte) : Num × StickyFlags :=
  match bf16 h with
  | .nan => (.nan, 0)
  | .inf n => if l = 0 then (.inf n, 0) else (.nan, flagInv)
  | .fin n m e =>
    let li := signed 8 l.toNat
    if li = 0 then (.fin n m e, 0)
    else (addFin n m e (decide (li < 0)) li.natAbs (ulpExp h - 8), 0)

/-- A value written as split-24 (R111): both halves and the flags. -/
def writeSplit24 (mode : Rnd) (v : Num) : BitVec 16 × Byte × StickyFlags :=
  let (h, fl) := toBf16 v
  match bf16 h, v with
  | .fin hn hm he, .fin n m e =>
    -- (v - h) * 256 / ulp(h), rounded to an integer
    match addFin n m e (!hn) hm he with
    | .fin dn dm de =>
      let (f, rem, d) := quantize dm de (ulpExp h - 8)
      let k := f + (if rem ≠ 0 && roundsUp mode f rem d then 1 else 0)
      let sat := !dn && decide (k ≥ 128)
      let k := if sat then 127 else k
      let inexact := decide (rem ≠ 0) || sat
      let tiny := magLt m e 1 (-126) && decide (m ≠ 0)
      (h, BitVec.ofInt 8 (if dn then -(k : Int) else (k : Int)),
        if inexact then (if tiny then flagInx ||| flagUnf else flagInx) else 0)
    | _ => (h, 0, fl)
  | _, _ => (h, 0, fl)

/-- Rounded to an integer in a mode: its value and whether it is inexact. -/
def roundInt (mode : Rnd) (neg : Bool) (m : Nat) (e : Int) : Int × Bool :=
  let (fl, rem, d) := quantize m e 0
  let k := fl + (if rem ≠ 0 && roundsUp mode fl rem d then 1 else 0)
  (if neg then -(k : Int) else (k : Int), decide (rem ≠ 0))

/-- The 32-bit rotation of R127. -/
def rotl32 (v : Word) (n : Nat) : Word := (v <<< n) ||| (v >>> (32 - n))

/-- mix of R127. -/
def crgMix (x : Word × Word × Word × Word) (rk : Word) : Word × Word × Word × Word :=
  let (a, b, c, d) := x
  let a := a + b + rk
  let d := rotl32 (d ^^^ a) 13
  let c := c + d
  let b := rotl32 (b ^^^ c) 7
  let a := a + b
  let d := rotl32 (d ^^^ a) 21
  let c := c + d
  let b := rotl32 (b ^^^ c) 11
  (b, c, d, a)

/-- The round constants of R127. -/
def crgRc (i : Nat) : Word :=
  match i % 4 with
  | 0 => 0x71C42E95
  | 1 => 0x4B8D0F63
  | 2 => 0xA3E597D1
  | _ => 0x2D19C6B7

/-- Word j of the key. -/
def keyWord (key : BitVec 128) (j : Nat) : Word := BitVec.ofNat 32 (key.toNat >>> (32 * (j % 4)))

/-- crg of R127: the four words. -/
def crg (key : BitVec 128) (stream step : Word) (index : Nat) : Word × Word × Word × Word :=
  let x0 : Word × Word × Word × Word :=
    (BitVec.ofNat 32 index, BitVec.ofNat 32 (index >>> 32), step, stream)
  let x := (List.range 10).foldl
    (fun x r => crgMix x (keyWord key r + BitVec.ofNat 32 (r + 1) * crgRc r)) x0
  (x.1 ^^^ keyWord key 2, x.2.1 ^^^ keyWord key 3, x.2.2.1 ^^^ keyWord key 0, x.2.2.2 ^^^ keyWord key 1)

/-- The 12 random bits of SR (R127). -/
def srBits (key : BitVec 128) (stream step : Word) (index : Nat) : Nat := (crg key stream step index).1.toNat >>> 20

/-- The rounding mode of a RND field (0 RNE, 1 RTZ, 2 SR), with the draw of an element. -/
def rndOf (rnd : Nat) (draw : Nat) : Rnd := if rnd = 0 then .rne else if rnd = 1 then .rtz else .sr draw

end Sys2Proof.Machine
end

