-- ==== Sys2Proof/Machine/RegMap.lean ====
section
/-!
DEFINITION. Machine/RegMap.lean: the control space: which addresses are registers, their reset values and the access
type of their bits (R10, R12, Table 0.3, and the register table of each block).
-/
namespace Sys2Proof.Machine

/-- A register, or an array of registers, of a table: offset, number, distance; reset value and masks of the bits that
are RW, W1C and WO. The other bits are RO or RSV. -/
structure RegRow where
  off : Nat
  num : Nat
  stride : Nat
  reset : Word
  rw : Word
  w1c : Word
  wo : Word
deriving DecidableEq, Repr

/-- Identity block (Table 0.2). -/
def gblRows : List RegRow :=
  [
   /- GBL_DEVICE -/ ⟨0x0000, 1, 4, 0x41580A01, 0x0, 0x0, 0x0⟩,
   /- GBL_IDENT -/ ⟨0x0004, 1, 4, 0x1000000, 0x0, 0x0, 0x0⟩,
   /- GBL_BAYMASK_LO -/ ⟨0x0008, 1, 4, 0x0, 0x0, 0x0, 0x0⟩,
   /- GBL_BAYMASK_HI -/ ⟨0x000C, 1, 4, 0x0, 0x0, 0x0, 0x0⟩]

/-- Clock registers (Table 11.4), offsets from 0x0001_0000. -/
def clkRows : List RegRow :=
  [
   /- CLK_STATUS -/ ⟨0x0000, 1, 4, 0x405A5A00, 0x0, 0x80, 0x0⟩,
   /- CLK_CAPW -/ ⟨0x0004, 1, 4, 0x5A5A, 0x7F, 0x0, 0x0⟩,
   /- CLK_CAPE -/ ⟨0x0008, 1, 4, 0x5A5A, 0x7F, 0x0, 0x0⟩,
   /- CLK_THRCAP -/ ⟨0x000C, 1, 4, 0x5, 0x0, 0x0, 0x0⟩,
   /- CLK_HT_LO -/ ⟨0x0010, 1, 4, 0x0, 0x0, 0x0, 0x0⟩,
   /- CLK_HT_HI -/ ⟨0x0014, 1, 4, 0x0, 0x0, 0x0, 0x0⟩,
   /- CLK_HTTRIM -/ ⟨0x0018, 1, 4, 0x0, 0x0, 0x0, 0x0⟩,
   /- CLK_EVOVR -/ ⟨0x001C, 1, 4, 0x0, 0x0, 0x7, 0x0⟩,
   /- CLK_REFLOSS -/ ⟨0x0020, 1, 4, 0x0, 0xFFFFFFFF, 0x0, 0x0⟩,
   /- CLK_THRCNT -/ ⟨0x0024, 1, 4, 0x0, 0xFFFFFFFF, 0x0, 0x0⟩,
   /- CLK_THRTIME -/ ⟨0x0028, 1, 4, 0x0, 0x0, 0x0, 0x0⟩]

/-- A bay: Tables 2.10, 5.10, 6.5, 10.12, 11.5. -/
def bayRows : List RegRow :=
  [
   /- STN_ID -/ ⟨0x0000, 1, 4, 0x0, 0x0, 0x0, 0x0⟩,
   /- STN_LINKCFG -/ ⟨0x0004, 1, 4, 0x0, 0xFF03, 0x0, 0x0⟩,
   /- STN_RAMPCFG -/ ⟨0x0008, 1, 4, 0x1, 0x3, 0x0, 0x0⟩,
   /- STN_STATUS -/ ⟨0x000C, 1, 4, 0x4000, 0x0, 0x1, 0x0⟩,
   /- STN_FLAGS -/ ⟨0x0010, 1, 4, 0x0, 0x0, 0x1F, 0x0⟩,
   /- STN_HOPCE -/ ⟨0x0014, 1, 4, 0x0, 0xFFFFFFFF, 0x0, 0x0⟩,
   /- STN_TAP_LO -/ ⟨0x0018, 1, 4, 0x0, 0x0, 0x0, 0x0⟩,
   /- STN_TAP_HI -/ ⟨0x001C, 1, 4, 0x0, 0x0, 0x0, 0x0⟩,
   /- STN_BUSY_A -/ ⟨0x0020, 1, 4, 0x0, 0x0, 0x0, 0x0⟩,
   /- STN_BUSY_B -/ ⟨0x0024, 1, 4, 0x0, 0x0, 0x0, 0x0⟩,
   /- STN_STALL_IN -/ ⟨0x0028, 1, 4, 0x0, 0x0, 0x0, 0x0⟩,
   /- STN_STALL_OUT -/ ⟨0x002C, 1, 4, 0x0, 0x0, 0x0, 0x0⟩,
   /- STN_QMAX -/ ⟨0x0030, 1, 4, 0x0, 0xFFFFFFFF, 0x0, 0x0⟩,
   /- STN_CNTCTL -/ ⟨0x0034, 1, 4, 0x0, 0x1, 0x0, 0x2⟩,
   /- BAY_SHRUN0–3 -/ ⟨0x1000, 4, 4, 0x0, 0x0, 0x0, 0x0⟩,
   /- BAY_SHFLAGS -/ ⟨0x1010, 1, 4, 0x0, 0x0, 0x1F, 0x0⟩,
   /- BAY_SHREPAIR -/ ⟨0x1014, 1, 4, 0x0, 0x0, 0x0, 0x0⟩,
   /- BAY_SHDISP -/ ⟨0x1018, 1, 4, 0x0, 0x0, 0x0, 0x0⟩,
   /- BAY_SHSTALL -/ ⟨0x101C, 1, 4, 0x0, 0x0, 0x0, 0x0⟩,
   /- BAY_SPCE -/ ⟨0x2000, 1, 4, 0x0, 0xFFFFFFFF, 0x0, 0x0⟩,
   /- BAY_SPUE -/ ⟨0x2004, 1, 4, 0x0, 0xFFFFFFFF, 0x0, 0x0⟩,
   /- BAY_SPUEADDR -/ ⟨0x2008, 1, 4, 0x0, 0x0, 0x0, 0x0⟩,
   /- BAY_SCRUB -/ ⟨0x200C, 1, 4, 0x0, 0x0, 0xC0000000, 0x0⟩,
   /- BAY_SCRUBTIME -/ ⟨0x2010, 1, 4, 0x0, 0x0, 0x0, 0x0⟩] ++ [
   /- SB_STATUS -/ ⟨0x2020, 1, 4, 0x0, 0x0, 0x0, 0x0⟩,
   /- SB_STALL -/ ⟨0x2024, 1, 4, 0x0, 0x0, 0x0, 0x0⟩,
   /- BAY_XSLOT_NS -/ ⟨0x2040, 1, 4, 0x0, 0xFFFFFFFF, 0x0, 0x0⟩,
   /- BAY_XSLOT_WE -/ ⟨0x2044, 1, 4, 0x0, 0xFFFFFFFF, 0x0, 0x0⟩,
   /- BAY_GRIDFRAME -/ ⟨0x2048, 1, 4, 0x0, 0x0, 0x0, 0x0⟩,
   /- BAY_GRIDSTAT -/ ⟨0x204C, 1, 4, 0x0, 0x0, 0x3, 0x0⟩,
   /- BAY_GRIDCE -/ ⟨0x2050, 1, 4, 0x0, 0xFFFFFFFF, 0x0, 0x0⟩,
   /- BAY_XQMAX -/ ⟨0x2054, 1, 4, 0x0, 0xFFFFFFFF, 0x0, 0x0⟩,
   /- BAY_XWAIT -/ ⟨0x2058, 1, 4, 0x0, 0x0, 0x0, 0x0⟩,
   /- SE_STATUS -/ ⟨0x3000, 1, 4, 0x0, 0x0, 0x0, 0x0⟩,
   /- SE_BYTES_LO -/ ⟨0x3004, 1, 4, 0x0, 0x0, 0x0, 0x0⟩,
   /- SE_BYTES_HI -/ ⟨0x3008, 1, 4, 0x0, 0x0, 0x0, 0x0⟩,
   /- SE_LATMAX -/ ⟨0x300C, 1, 4, 0x0, 0xFFFF, 0x0, 0x0⟩,
   /- SE_TAGWAIT -/ ⟨0x3010, 1, 4, 0x0, 0x0, 0x0, 0x0⟩,
   /- BAY_CLKCFG -/ ⟨0x4000, 1, 4, 0x35A, 0x37F, 0x80000000, 0x0⟩,
   /- BAY_CLKSTAT -/ ⟨0x4004, 1, 4, 0x5A5A, 0x0, 0x0, 0x0⟩,
   /- BAY_STRETCH -/ ⟨0x4008, 1, 4, 0x0, 0xFFFFFFFF, 0x0, 0x0⟩,
   /- BAY_CLKSTEP -/ ⟨0x400C, 1, 4, 0x0, 0xFFFFFFFF, 0x0, 0x0⟩,
   /- BAY_WAKES -/ ⟨0x4010, 1, 4, 0x0, 0xFFFFFFFF, 0x0, 0x0⟩,
   /- BAY_CYC_LO -/ ⟨0x4014, 1, 4, 0x0, 0x0, 0x0, 0x0⟩,
   /- BAY_CYC_HI -/ ⟨0x4018, 1, 4, 0x0, 0x0, 0x0, 0x0⟩]

/-- A cue processor (Table 9.16). -/
def cpRows : List RegRow :=
  [
   /- CP_CFG -/ ⟨0x0000, 1, 4, 0x0, 0x0, 0x80000000, 0x0⟩,
   /- CP_SLICE -/ ⟨0x0004, 1, 4, 0x2710, 0xFFFFFFFF, 0x0, 0x0⟩,
   /- CP_CUR -/ ⟨0x0008, 1, 4, 0x0, 0x0, 0x0, 0x0⟩,
   /- CP_STALLQ -/ ⟨0x000C, 1, 4, 0x0, 0x0, 0x0, 0x0⟩,
   /- CP_LMAP0–11 -/ ⟨0x0100, 12, 4, 0x0, 0xFFFFFFFF, 0x0, 0x0⟩,
   /- CP_CSTATE -/ ⟨0x1000, 16, 64, 0x0, 0x0, 0x0, 0x0⟩,
   /- CP_RING_LO -/ ⟨0x1004, 16, 64, 0x0, 0xFFFFFFFF, 0x0, 0x0⟩,
   /- CP_RING_HI -/ ⟨0x1008, 16, 64, 0x0, 0xFFFF, 0x0, 0x0⟩,
   /- CP_RINGSIZE -/ ⟨0x100C, 16, 64, 0x0, 0x1FFFF, 0x0, 0x0⟩,
   /- CP_RDPTR -/ ⟨0x1010, 16, 64, 0x0, 0x0, 0x0, 0x0⟩,
   /- CP_CREDIT -/ ⟨0x1014, 16, 64, 0x0, 0x0, 0x0, 0x0⟩,
   /- CP_PROGRESS -/ ⟨0x1018, 16, 64, 0x0, 0x0, 0x0, 0x0⟩,
   /- CP_HBMQ_BASE_LO -/ ⟨0x101C, 16, 64, 0x0, 0xFFFFFFFF, 0x0, 0x0⟩,
   /- CP_HBMQ_BASE_HI -/ ⟨0x1020, 16, 64, 0x0, 0xFFFF, 0x0, 0x0⟩,
   /- CP_HBMQ_SIZE -/ ⟨0x1024, 16, 64, 0x0, 0xFFFFFFFF, 0x0, 0x0⟩,
   /- CP_DDRQ_BASE_LO -/ ⟨0x1028, 16, 64, 0x0, 0xFFFFFFFF, 0x0, 0x0⟩,
   /- CP_DDRQ_BASE_HI -/ ⟨0x102C, 16, 64, 0x0, 0xFFFF, 0x0, 0x0⟩,
   /- CP_DDRQ_SIZE -/ ⟨0x1030, 16, 64, 0x0, 0xFFFFFFFF, 0x0, 0x0⟩,
   /- CP_SPQ -/ ⟨0x1034, 16, 64, 0x0, 0xFFFFFF, 0x0, 0x0⟩]

/-- A memory wing (Table 10.10). -/
def memRows : List RegRow :=
  [
   /- CFG -/ ⟨0x0000, 1, 4, 0x0, 0x0, 0x0, 0x0⟩,
   /- CE -/ ⟨0x0004, 1, 4, 0x0, 0xFFFFFFFF, 0x0, 0x0⟩,
   /- UE -/ ⟨0x0008, 1, 4, 0x0, 0xFFFFFFFF, 0x0, 0x0⟩,
   /- UEADDR_LO -/ ⟨0x000C, 1, 4, 0x0, 0x0, 0x0, 0x0⟩,
   /- UEADDR_HI -/ ⟨0x0010, 1, 4, 0x0, 0x0, 0x0, 0x0⟩,
   /- TEMP -/ ⟨0x0014, 1, 4, 0x0, 0x0, 0x0, 0x0⟩,
   /- RDBLK -/ ⟨0x0018, 1, 4, 0x0, 0x0, 0x0, 0x0⟩,
   /- WRBLK -/ ⟨0x001C, 1, 4, 0x0, 0x0, 0x0, 0x0⟩,
   /- SCRUB -/ ⟨0x0020, 1, 4, 0x0, 0x0, 0x0, 0x0⟩,
   /- GENDROP -/ ⟨0x0024, 1, 4, 0x0, 0xFFFFFFFF, 0x0, 0x0⟩,
   /- PARITY -/ ⟨0x0028, 1, 4, 0x0, 0xFFFFFFFF, 0x0, 0x0⟩,
   /- GEN0–7 -/ ⟨0x0040, 8, 4, 0x0, 0x0, 0x0, 0x0⟩]

/-- Further registers of a DDR channel (Table 10.11). -/
def ddrRows : List RegRow :=
  [
   /- DDR_KRBASE -/ ⟨0x0100, 16, 16, 0x0, 0x0, 0x0, 0x0⟩,
   /- DDR_KRSIZE -/ ⟨0x0104, 16, 16, 0x0, 0x0, 0x0, 0x0⟩,
   /- DDR_KRSLOT -/ ⟨0x0108, 16, 16, 0x4, 0x0, 0x0, 0x0⟩,
   /- DDR_KEYSTAT -/ ⟨0x0200, 1, 4, 0x0, 0x0, 0x0, 0x0⟩]

/-- Wing-engine registers (Table 8.12). -/
def weRows : List RegRow :=
  [
   /- DDR_WESTAT -/ ⟨0x4000, 1, 4, 0x0, 0x0, 0x0, 0x0⟩,
   /- DDR_WEFLAGS -/ ⟨0x4004, 1, 4, 0x0, 0x0, 0x1F, 0x0⟩,
   /- DDR_WEUPD_LO -/ ⟨0x4008, 1, 4, 0x0, 0x0, 0x0, 0x0⟩,
   /- DDR_WEUPD_HI -/ ⟨0x400C, 1, 4, 0x0, 0x0, 0x0, 0x0⟩]

/-- The Ethernet port (Table 12.8). -/
def ethRows : List RegRow :=
  [
   /- ETH_STATUS -/ ⟨0x0000, 1, 4, 0x40000000, 0x0, 0x1, 0x0⟩,
   /- ETH_CFG -/ ⟨0x0004, 1, 4, 0x8000, 0xEFFF, 0x0, 0x0⟩,
   /- ETH_PTPCFG -/ ⟨0x0008, 1, 4, 0x0, 0xFF, 0x0, 0x0⟩,
   /- ETH_PTPOFS -/ ⟨0x000C, 1, 4, 0x0, 0x0, 0x0, 0x0⟩,
   /- ETH_MAC_LO -/ ⟨0x0010, 1, 4, 0x0, 0x0, 0x0, 0x0⟩,
   /- ETH_MAC_HI -/ ⟨0x0014, 1, 4, 0x0, 0x0, 0x0, 0x0⟩,
   /- ETH_IP4 -/ ⟨0x0018, 1, 4, 0x0, 0xFFFFFFFF, 0x0, 0x0⟩,
   /- ETH_IP6_0–3 -/ ⟨0x0020, 4, 4, 0x0, 0x0, 0x0, 0x0⟩,
   /- ETH_CONNS -/ ⟨0x0030, 1, 4, 0x0, 0x0, 0x0, 0x0⟩,
   /- ETH_RETX -/ ⟨0x0034, 1, 4, 0x0, 0xFFFFFFFF, 0x0, 0x0⟩,
   /- ETH_DROP -/ ⟨0x0038, 1, 4, 0x0, 0xFFFFFFFF, 0x0, 0x0⟩,
   /- ETH_PCPAUTH -/ ⟨0x003C, 1, 4, 0x0, 0xFFFFFFFF, 0x0, 0x0⟩,
   /- ETH_PCPDUP -/ ⟨0x0040, 1, 4, 0x0, 0xFFFFFFFF, 0x0, 0x0⟩,
   /- ETH_PFCIGN -/ ⟨0x0044, 1, 4, 0x0, 0xFFFFFFFF, 0x0, 0x0⟩,
   /- ETH_CURTMAX -/ ⟨0x0048, 1, 4, 0x0, 0xFFFF, 0x0, 0x0⟩]

/-- A chain port (Table 13.7). -/
def chnRows : List RegRow :=
  [
   /- CHN_STATUS -/ ⟨0x0000, 1, 4, 0x0, 0x0, 0x0, 0x0⟩,
   /- CHN_CFG -/ ⟨0x0004, 1, 4, 0x35, 0xFF, 0x0, 0x0⟩,
   /- CHN_REPLAY -/ ⟨0x0008, 1, 4, 0x0, 0xFFFFFFFF, 0x0, 0x0⟩,
   /- CHN_CRCERR -/ ⟨0x000C, 1, 4, 0x0, 0xFFFFFFFF, 0x0, 0x0⟩,
   /- CHN_TAGFAIL -/ ⟨0x0010, 1, 4, 0x0, 0xFFFFFFFF, 0x0, 0x0⟩,
   /- CHN_CURTMAX -/ ⟨0x0014, 1, 4, 0x0, 0xFFFF, 0x0, 0x0⟩,
   /- CHN_TIMEOFS -/ ⟨0x0018, 1, 4, 0x0, 0x0, 0x0, 0x0⟩,
   /- CHN_FWD -/ ⟨0x001C, 1, 4, 0x0, 0x0, 0x0, 0x0⟩,
   /- CHN_CREDWAIT -/ ⟨0x0020, 1, 4, 0x0, 0x0, 0x0, 0x0⟩,
   /- CHN_DOWNS -/ ⟨0x0024, 1, 4, 0x0, 0xFFFFFFFF, 0x0, 0x0⟩]

/-- Exchange counters of a partition (Table 8.11). -/
def xchRows : List RegRow :=
  [
   /- CHN_XINFLIGHT -/ ⟨0x0000, 1, 4, 0x0, 0x0, 0x0, 0x0⟩,
   /- CHN_XLATE -/ ⟨0x0004, 1, 4, 0x0, 0xFFFFFFFF, 0x0, 0x0⟩,
   /- CHN_XEPOCH -/ ⟨0x0008, 1, 4, 0x0, 0xFFFFFFFF, 0x0, 0x0⟩,
   /- CHN_XSCALE -/ ⟨0x000C, 1, 4, 0x0, 0xFFFFFFFF, 0x0, 0x0⟩,
   /- CHN_XCHECKED -/ ⟨0x0010, 1, 4, 0x0, 0xFFFFFFFF, 0x0, 0x0⟩,
   /- CHN_XMISMATCH -/ ⟨0x0014, 1, 4, 0x0, 0xFFFFFFFF, 0x0, 0x0⟩,
   /- CHN_XSTEP -/ ⟨0x0018, 1, 4, 0x0, 0x0, 0x0, 0x0⟩]

/-- Curtain registers of a partition (Table 6.6). -/
def crtRows : List RegRow :=
  [
   /- CRT_FLAGS_LO -/ ⟨0x0000, 1, 4, 0x0, 0x0, 0x0, 0x0⟩,
   /- CRT_FLAGS_HI -/ ⟨0x0004, 1, 4, 0x0, 0x0, 0x0, 0x0⟩,
   /- CRT_FLAGSET_LO -/ ⟨0x0008, 1, 4, 0x0, 0x0, 0x0, 0xFFFFFFFF⟩,
   /- CRT_FLAGSET_HI -/ ⟨0x000C, 1, 4, 0x0, 0x0, 0x0, 0xFFFFFFFF⟩,
   /- CRT_FLAGCLR_LO -/ ⟨0x0010, 1, 4, 0x0, 0x0, 0x0, 0xFFFFFFFF⟩,
   /- CRT_FLAGCLR_HI -/ ⟨0x0014, 1, 4, 0x0, 0x0, 0x0, 0xFFFFFFFF⟩,
   /- CRT_CURTCFG -/ ⟨0x0020, 16, 8, 0x0, 0x80003FFF, 0x0, 0x0⟩,
   /- CRT_CURTSTAT -/ ⟨0x0024, 16, 8, 0x0, 0x0, 0x0, 0x0⟩]

/-- Die-wide curtain registers (Table 6.6). -/
def crtDieRows : List RegRow :=
  [
   /- CRT_SEQ -/ ⟨0x0000, 1, 4, 0x0, 0x0, 0x0, 0x0⟩,
   /- CRT_LATMAX -/ ⟨0x0004, 1, 4, 0x0, 0xFFFF, 0x0, 0x0⟩]

/-- A mailbox channel (Table 14.8). -/
def mbxRows : List RegRow :=
  [
   /- MBX_CTL -/ ⟨0x0000, 1, 4, 0x0, 0x1, 0x0, 0x0⟩,
   /- MBX_STATUS -/ ⟨0x0004, 1, 4, 0x0, 0x0, 0x300, 0x0⟩,
   /- MBX_DOORBELL -/ ⟨0x0008, 1, 4, 0x0, 0x0, 0x0, 0x1⟩,
   /- MBX_REJECTS -/ ⟨0x000C, 1, 4, 0x0, 0xFFFFFFFF, 0x0, 0x0⟩,
   /- MBX_WDATA0–15 -/ ⟨0x0040, 16, 4, 0x0, 0x0, 0x0, 0xFFFFFFFF⟩,
   /- MBX_RDATA0–15 -/ ⟨0x0080, 16, 4, 0x0, 0x0, 0x0, 0x0⟩]

/-- Fault-record, fence, reset and intermission registers (Tables 9.15, 15.7), offsets from 0x0090_0000. -/
def fltRows : List RegRow :=
  [
   /- FLT_PENDING_LO -/ ⟨0x1000, 1, 4, 0x0, 0x0, 0x0, 0x0⟩,
   /- FLT_PENDING_HI -/ ⟨0x1004, 1, 4, 0x0, 0x0, 0x0, 0x0⟩,
   /- FLT_CLEAR -/ ⟨0x1008, 1, 4, 0x0, 0x0, 0x0, 0x3F⟩,
   /- FLT_TOTAL -/ ⟨0x100C, 1, 4, 0x0, 0xFFFFFFFF, 0x0, 0x0⟩,
   /- FLT_FENCE -/ ⟨0x2000, 1, 4, 0x0, 0x0, 0x0, 0x0⟩,
   /- FLT_RESET -/ ⟨0x2004, 1, 4, 0x0, 0x0, 0x0, 0x0⟩,
   /- FLT_RESETTIME -/ ⟨0x2008, 1, 4, 0x0, 0x0, 0x0, 0x0⟩,
   /- FLT_DRAINERR -/ ⟨0x200C, 1, 4, 0x0, 0xFFFFFFFF, 0x0, 0x0⟩,
   /- FLT_SUSPECT_LO -/ ⟨0x2010, 1, 4, 0x0, 0x0, 0xFFFFFFFF, 0x0⟩,
   /- FLT_SUSPECT_HI -/ ⟨0x2014, 1, 4, 0x0, 0x0, 0xFFFFFFFF, 0x0⟩,
   /- FLT_ISOLATE -/ ⟨0x2018, 1, 4, 0x0, 0x8000003F, 0x0, 0x0⟩,
   /- FLT_BUDDY -/ ⟨0x201C, 1, 4, 0x0, 0x8000003F, 0x0, 0x0⟩,
   /- FLT_RESV -/ ⟨0x2020, 1, 4, 0x0, 0xFFFFFFFF, 0x0, 0x0⟩,
   /- FLT_ISCHED -/ ⟨0x2024, 1, 4, 0x0, 0xFFFFFFFF, 0x0, 0x0⟩,
   /- FLT_ISTAT -/ ⟨0x2028, 1, 4, 0x0, 0x0, 0x80000, 0x0⟩,
   /- FLT_ITIME -/ ⟨0x202C, 1, 4, 0x0, 0x0, 0x0, 0x0⟩,
   /- FLT_ICOUNT -/ ⟨0x2030, 1, 4, 0x0, 0xFFFFFFFF, 0x0, 0x0⟩,
   /- FLT_RBUDDY -/ ⟨0x2034, 1, 4, 0x0, 0xFFFFFFFF, 0x0, 0x0⟩,
   /- FLT_ISLOT_LO -/ ⟨0x2038, 1, 4, 0x0, 0x0, 0x0, 0x0⟩,
   /- FLT_ISLOT_HI -/ ⟨0x203C, 1, 4, 0x0, 0x0, 0x0, 0x0⟩]

/-- A block of the control space, with its instance (Table 0.4). -/
inductive Block where
  | gbl | clk
  | bay (b : Nat)
  | cp (n : Nat)
  /-- memory wing: 0-11 HBM, 12-19 DDR -/
  | mem (n : Nat)
  | eth
  /-- chain port: false W, true E -/
  | chn (e : Bool)
  | xch (p : Nat)
  | crt (p : Nat)
  | crtDie
  | mbx (n : Nat)
  /-- YMR_POLICY and YMR_RISK (R406) -/
  | pol
  /-- fault records, by number (Table 9.13) -/
  | frec (n : Nat)
  | flt
deriving DecidableEq, Repr

/-- The block of an address and the offset within it; none in a gap of the map. -/
def locate (a : Nat) : Option (Block × Nat) :=
  if a < 0x10000 then some (.gbl, a)
  else if a < 0x100000 then some (.clk, a - 0x10000)
  else if a < 0x400000 then some (.bay ((a - 0x100000) / 0x10000), a % 0x10000)
  else if a < 0x440000 then some (.cp ((a - 0x400000) / 0x10000), a % 0x10000)
  else if a < 0x500000 then none
  else if a < 0x500000 + 20 * 0x8000 then some (.mem ((a - 0x500000) / 0x8000), (a - 0x500000) % 0x8000)
  else if a < 0x600000 then none
  else if a < 0x604000 then some (.eth, a - 0x600000)
  else if a < 0x608000 then some (.chn false, a - 0x604000)
  else if a < 0x60C000 then some (.chn true, a - 0x608000)
  else if a < 0x60C400 then some (.xch ((a - 0x60C000) / 0x100), (a - 0x60C000) % 0x100)
  else if a < 0x700000 then none
  else if a < 0x704000 then some (.crt ((a - 0x700000) / 0x1000), a % 0x1000)
  else if a < 0x708000 then none
  else if a < 0x709000 then some (.crtDie, a - 0x708000)
  else if a < 0x800000 then none
  else if a < 0x801000 then some (.mbx ((a - 0x800000) / 0x100), a % 0x100)
  else if a < 0x808000 then none
  else if a < 0x810000 then some (.pol, a - 0x808000)
  else if a < 0x900000 then none
  else if a < 0x901000 then some (.frec ((a - 0x900000) / 0x40), a % 0x40)
  else if a < 0xA00000 then some (.flt, a - 0x900000)
  else none

/-- The row that lists an offset. -/
def findRow : List RegRow → Nat → Option RegRow
  | [], _ => none
  | r :: rs, off =>
    if r.off ≤ off ∧ (off - r.off) % r.stride = 0 ∧ (off - r.off) / r.stride < r.num then some r else findRow rs off

/-- The rows of a block. -/
def blockRows : Block → List RegRow
  | .gbl => gblRows
  | .clk => clkRows
  | .bay _ => bayRows
  | .cp _ => cpRows
  | .mem n => if n < 12 then memRows else memRows ++ (ddrRows ++ weRows)
  | .eth => ethRows
  | .chn _ => chnRows
  | .xch _ => xchRows
  | .crt _ => crtRows
  | .crtDie => crtDieRows
  | .mbx _ => mbxRows
  -- YMR_POLICY (R406): every bit as the owner wrote it; YMR_RISK: read-only
  | .pol => [⟨0, 1, 4, 0, 0xFFFFFFFF, 0, 0⟩, ⟨4, 1, 4, 0, 0, 0, 0⟩]
  -- fault records are written by the fault-record block only (R287)
  | .frec _ => [⟨0, 16, 4, 0, 0, 0, 0⟩]
  | .flt => fltRows

/-- The register at an address, if one is assigned (R11). -/
def regRow (a : Nat) : Option RegRow :=
  match locate a with
  | some (b, off) => findRow (blockRows b) off
  | none => none

/-- BAY_XSLOT_NS and BAY_XSLOT_WE of a bay at reset (Table 6.5): a side at the die's edge starts at 0. -/
def xslotReset (b : Nat) (we : Bool) : Word :=
  if we then (if b % 12 = 0 then 0 else 0xFFFF0000) ||| (if b % 12 = 11 then 0 else 0x0000FFFF)
  else (if b / 12 = 0 then 0 else 0xFFFF0000) ||| (if b / 12 = 3 then 0 else 0x0000FFFF)

/-- The value a register holds at power-up. -/
def regReset (a : Nat) : Word :=
  match locate a with
  | some (.bay b, off) =>
    if off = 0x2040 then xslotReset b false else if off = 0x2044 then xslotReset b true
    else (findRow bayRows off).elim 0 RegRow.reset
  | some (k, off) => (findRow (blockRows k) off).elim 0 RegRow.reset
  | none => 0

/-- A register that holds its own value. -/
def State.reg (s : State) (a : Nat) : Word := sget (regReset a) s.regs a

/-- Hardware writes a register. -/
def State.setReg (s : State) (a : Nat) (v : Word) : State := { s with regs := sset (regReset a) s.regs a v }

/-- Addresses of registers, by block and offset. -/
def aClk (off : Nat) : Nat := 0x10000 + off
def aBay (b off : Nat) : Nat := 0x100000 + b * 0x10000 + off
def aCp (n off : Nat) : Nat := 0x400000 + n * 0x10000 + off
def aMem (n off : Nat) : Nat := 0x500000 + n * 0x8000 + off
def aEth (off : Nat) : Nat := 0x600000 + off
def aChn (e : Bool) (off : Nat) : Nat := (if e then 0x608000 else 0x604000) + off
def aXch (p off : Nat) : Nat := 0x60C000 + p * 0x100 + off
def aCrt (p off : Nat) : Nat := 0x700000 + p * 0x1000 + off
def aMbx (n off : Nat) : Nat := 0x800000 + n * 0x100 + off
def aFlt (off : Nat) : Nat := 0x900000 + off

/-- A counter of corrected errors that feeds CE of the risk score (R393). -/
def isCeCounter (a : Nat) : Bool :=
  match locate a with
  | some (.bay _, off) => decide (off = 0x0014 ∨ off = 0x2000 ∨ off = 0x2050)
  | some (.mem _, off) => decide (off = 0x0004)
  | _ => false

/-- A counter of resends that feeds LR of the risk score (R393). -/
def isLrCounter (a : Nat) : Bool :=
  match locate a with
  | some (.chn _, off) => decide (off = 0x0008)
  | some (.eth, off) => decide (off = 0x0034)
  | _ => false

/-- The counts of the last 600 s, with n more now. -/
def tally (now n : Nat) (h : List (Nat × Nat)) : List (Nat × Nat) :=
  if n = 0 then h else h.filter (fun x => decide (now < x.1 + 600000000000)) ++ [(now, n)]

/-- A counter that saturates at 0xFFFF_FFFF goes up by n; the risk score keeps its own tally of some (R393). -/
def State.countSat (s : State) (a n : Nat) : State :=
  let s := s.setReg a (satInc (s.reg a) n)
  if isCeCounter a then { s with ymr := { s.ymr with ceHist := tally s.clock.house n s.ymr.ceHist } }
  else if isLrCounter a then { s with ymr := { s.ymr with lrHist := tally s.clock.house n s.ymr.lrHist } }
  else s

/-- A counter that wraps goes up by n. -/
def State.countWrap (s : State) (a n : Nat) : State := s.setReg a (s.reg a + BitVec.ofNat 32 n)

/-- Hardware sets bits of a register. -/
def State.orReg (s : State) (a : Nat) (m : Word) : State := s.setReg a (s.reg a ||| m)

/-- A field [hi:lo] of a word replaced. -/
def setFld (w : Word) (hi lo v : Nat) : Word :=
  BitVec.ofNat 32 (w.toNat - fld w hi lo * 2 ^ lo + (v % 2 ^ (hi + 1 - lo)) * 2 ^ lo)

/-- Hardware raises a field of a register to a higher value it has seen. -/
def State.maxFld (s : State) (a hi lo v : Nat) : State :=
  if fld (s.reg a) hi lo < v then s.setReg a (setFld (s.reg a) hi lo (min v (2 ^ (hi + 1 - lo) - 1))) else s

/-- A bus write to a register (Table 0.3): RW bits take the value, a 1 clears a W1C bit, the other bits keep theirs. -/
def State.writeMasked (s : State) (a : Nat) (v : Word) : State :=
  match regRow a with
  | some r => s.setReg a ((v &&& r.rw) ||| (s.reg a &&& ~~~r.rw &&& ~~~(v &&& r.w1c)))
  | none => s

/-- Every register of the given rows at base, back to its reset value. -/
def State.resetRows (s : State) (base : Nat) (rows : List RegRow) : State :=
  { s with regs := s.regs.filter (fun kv => !(decide (base ≤ kv.1) && (findRow rows (kv.1 - base)).isSome)) }

end Sys2Proof.Machine
end

