-- ==== Sys2Proof/Machine/Units.lean ====
section
/-!
DEFINITION. Machine/Units.lean: the parts of the machine by name and number, the geometry of the die, scratchpad
access with error correction, fault packets and the sending of curtain-network events.
-/
namespace Sys2Proof.Machine

/-- House time, or Yemir's uptime while the die rails are off. -/
def State.now (s : State) : Nat := if s.ymr.dieOn then s.clock.house else s.clock.uptime

/-- An outcome: the next state. -/
abbrev Out := Host.Outcome State Fault Refusal

/-- The result of an event that the state does not enable: nothing happens (entry 7). -/
def idle (s : State) : Out := .next s

/-- Parts by number. -/
def State.bay (s : State) (b : Nat) : Bay := sget Bay.reset s.bays b
def State.setBay (s : State) (b : Nat) (x : Bay) : State := { s with bays := sset Bay.reset s.bays b x }
def State.hand (s : State) (l : Nat) : Stagehand := sget Stagehand.idle s.stagehands l
def State.setHand (s : State) (l : Nat) (x : Stagehand) : State :=
  { s with stagehands := sset Stagehand.idle s.stagehands l x }
def State.cp (s : State) (n : Nat) : CueProc := sget CueProc.idle s.cps n
def State.setCp (s : State) (n : Nat) (x : CueProc) : State := { s with cps := sset CueProc.idle s.cps n x }
def State.part (s : State) (p : Nat) : Partition := sget Partition.empty s.parts p
def State.setPart (s : State) (p : Nat) (x : Partition) : State := { s with parts := sset Partition.empty s.parts p x }
def ctxKey (p c : Nat) : Nat := 16 * p + c
def State.ctx (s : State) (p c : Nat) : Context := sget Context.free s.ctxs (ctxKey p c)
def State.setCtx (s : State) (p c : Nat) (x : Context) : State :=
  { s with ctxs := sset Context.free s.ctxs (ctxKey p c) x }
def State.link (s : State) (p : Nat) : LinkEng := sget LinkEng.idle s.links p
def State.setLink (s : State) (p : Nat) (x : LinkEng) : State := { s with links := sset LinkEng.idle s.links p x }
def State.cast (s : State) (g : Nat) : CastList := sget CastList.empty s.casts g
def State.setCast (s : State) (g : Nat) (x : CastList) : State := { s with casts := sset CastList.empty s.casts g x }
def State.ctl (s : State) (n : Nat) : MemCtl := sget MemCtl.idle s.ctls n
def State.setCtl (s : State) (n : Nat) (x : MemCtl) : State := { s with ctls := sset MemCtl.idle s.ctls n x }
def State.mail (s : State) (n : Nat) : Mailbox := sget (Mailbox.reset n) s.mbx n
def State.setMail (s : State) (n : Nat) (x : Mailbox) : State := { s with mbx := sset (Mailbox.reset n) s.mbx n x }
def curtKey (p n : Nat) : Nat := 16 * p + n
def State.curtain (s : State) (p n : Nat) : Curtain := sget Curtain.off s.crt.curtains (curtKey p n)
def State.setCurtain (s : State) (p n : Nat) (x : Curtain) : State :=
  { s with crt := { s.crt with curtains := sset Curtain.off s.crt.curtains (curtKey p n) x } }
def State.faultRec (s : State) (p c : Nat) : Option FaultRec := sget none s.faults (ctxKey p c)
def State.setFaultRec (s : State) (p c : Nat) (x : Option FaultRec) : State :=
  { s with faults := sset none s.faults (ctxKey p c) x }

/-- Commands waiting in a queue of a bay. -/
def Bay.queue (b : Bay) (q : Nat) : List QCmd := sget [] b.queues q
def Bay.setQueue (b : Bay) (q : Nat) (l : List QCmd) : Bay := { b with queues := sset [] b.queues q l }
def Bay.slot (b : Bay) (k : Nat) : AgSlot := sget AgSlot.init b.slots k
def Bay.tile (b : Bay) (arr buf : Nat) : Tile := sget Tile.empty b.tiles (2 * arr + buf)
def Bay.setTile (b : Bay) (arr buf : Nat) (t : Tile) : Bay :=
  { b with tiles := sset Tile.empty b.tiles (2 * arr + buf) t }
def accKey (arr bank row col : Nat) : Nat := ((2 * arr + bank) * 512 + row) * 128 + col
def Bay.accAt (b : Bay) (arr bank row col : Nat) : BitVec 28 := sget 0 b.acc (accKey arr bank row col)
def Bay.setAcc (b : Bay) (arr bank row col : Nat) (v : BitVec 28) : Bay :=
  { b with acc := sset 0 b.acc (accKey arr bank row col) v }
def Bay.ramp (b : Bay) (arr : Nat) : Ramp := sget Ramp.down b.ramps arr
def Bay.setRamp (b : Bay) (arr : Nat) (r : Ramp) : Bay := { b with ramps := sset Ramp.down b.ramps arr r }
def LinkEng.queue (l : LinkEng) (q : Nat) : List QCmd := sget [] l.queues q
def LinkEng.setQueue (l : LinkEng) (q : Nat) (x : List QCmd) : LinkEng := { l with queues := sset [] l.queues q x }

/-- A sparse store with every listed value changed; values that become the default leave the list. -/
def smap {α : Type} [DecidableEq α] (d : α) (f : Nat → α → α) : Sparse α → Sparse α
  | [] => []
  | (k, v) :: m => if f k v = d then sdel (smap d f m) k else (k, f k v) :: smap d f m

/-- The bay of a station (Table 2.1). -/
def bayOfStation (s : Nat) : Nat :=
  if s ≤ 11 then s else if s ≤ 22 then 35 - s else if s ≤ 33 then s + 2 else if s ≤ 45 then 81 - s
  else if s = 46 then 24 else 12

/-- The station of a bay (Table 2.1). -/
def stationOfBay (b : Nat) : Nat := ((List.range 48).find? (fun s => decide (bayOfStation s = b))).getD 0

/-- The bay of a stagehand, by linear id (R14, R16). -/
def handBay (l : Nat) : Nat := (l / 96 / 16) * 12 + (l % 96) / 8

/-- The bay-local index of a stagehand (R149). -/
def handLocal (l : Nat) : Nat := (l / 96 % 16) * 8 + l % 96 % 8

/-- The stagehand of a bay with a bay-local index. -/
def handOf (bay loc : Nat) : Nat := ((bay / 12) * 16 + loc / 8) * 96 + (bay % 12) * 8 + loc % 8

/-- Base of the scratchpad window (Table 0.5). -/
def spBase : Nat := 0xF00000000000

/-- Data-space address of a bay offset (R14, R74). -/
def spAddr (bay off : Nat) : Nat := spBase + handOf bay (off / 0x20000) * 0x20000 + off % 0x20000

/-- The bay and the bay offset of a scratchpad-window address. -/
def spBayOff (a : Nat) : Nat × Nat :=
  let l := (a - spBase) / 0x20000
  (handBay l, handLocal l * 0x20000 + (a - spBase) % 0x20000)

/-- The bay is active in this grade (R2). -/
def State.bayActive (s : State) (b : Nat) : Bool := s.fuse.bayMask.getLsbD b

/-- The bay can be used by the loader: active and repairable (R155). -/
def State.bayUsable (s : State) (b : Nat) : Bool := s.bayActive b && !(s.badBays.contains b)

/-- The field of a bay (Table 1.2). -/
def bayField (b : Nat) : Nat := (if b / 12 < 2 then 0 else 2) + (if b % 12 < 6 then 0 else 1)

/-- The partition of a bay in a shape (Table 9.6). -/
def partOfField (shape f : Nat) : Nat := if shape = 4 then f else if shape = 2 then f % 2 else 0
def State.partOfBay (s : State) (b : Nat) : Nat := partOfField s.shape (bayField b)

/-- Cue processors of a partition, in ascending order (Table 9.6). -/
def cpsOf (shape p : Nat) : List Nat := (List.range 4).filter (fun f => decide (partOfField shape f = p))

/-- The lead cue processor of a partition (R268). -/
def leadCp (shape p : Nat) : Nat := (cpsOf shape p).headD 0

/-- Bays of a partition. -/
def State.baysOf (s : State) (p : Nat) : List Nat := (List.range 48).filter (fun b => decide (s.partOfBay b = p))

/-- Stations of a loop in CW order (Table 2.3). -/
def seqFromTo (a b : Nat) : List Nat := (List.range (b + 1 - a)).map (· + a)
def loopStations (shape p : Nat) : List Nat :=
  if shape = 4 then
    (match p with
     | 0 => seqFromTo 0 5 ++ seqFromTo 18 22 ++ [47]
     | 1 => seqFromTo 6 17
     | 2 => seqFromTo 23 27 ++ seqFromTo 40 46
     | _ => seqFromTo 28 39)
  else if shape = 2 then
    (if p = 0 then seqFromTo 0 5 ++ seqFromTo 18 27 ++ seqFromTo 40 47
     else seqFromTo 6 12 ++ seqFromTo 33 39 ++ seqFromTo 28 32 ++ seqFromTo 13 17)
  else seqFromTo 0 47

/-- The logical-bay map of a cue processor (CP_LMAP, R274). -/
def State.mapBay (s : State) (cp l : Nat) : Option Nat :=
  let b := (s.reg (aCp cp (0x0100 + 4 * (l / 4)))).toNat >>> (8 * (l % 4)) % 256
  if 48 ≤ l then none else if b.testBit 7 then some (b % 64) else none

/-- The physical bay of a logical bay of a partition (R61, R274): all its cue processors hold one map. -/
def State.physBay (s : State) (p l : Nat) : Option Nat := s.mapBay (leadCp s.shape p) l

/-- The logical bay of a physical bay, as a fault record shows it: 0xFF when none. -/
def State.logBay (s : State) (p b : Nat) : Nat :=
  ((List.range 48).find? (fun l => decide (s.physBay p l = some b))).getD 0xFF

/-- The station takes part in its partition's loop: mapped by the loader (R46, R60). -/
def State.participating (s : State) (b : Nat) : Bool := s.bayActive b && !(s.bay b).passThrough

/-- The number of participating stations of a partition. -/
def State.participants (s : State) (p : Nat) : Nat := ((s.baysOf p).filter s.participating).length

/-- The context switched in, in a partition. -/
def State.curCtx (s : State) (p : Nat) : Option Nat := (s.part p).cur

/-- A range of bay offsets lies in a context's scratchpad quota (R74, R139, R269). -/
def Context.spOk (c : Context) (off len : Nat) : Bool :=
  decide (c.spFirst ≤ off) && decide (off + len ≤ c.spFirst + c.spBytes)

/-- A range of data-space addresses lies in a context's HBM quota. -/
def Context.hbmOk (c : Context) (a len : Nat) : Bool :=
  decide (c.hbmBase ≤ a) && decide (a + len ≤ c.hbmBase + c.hbmSize)

/-- A range of data-space addresses lies in a context's DDR quota. -/
def Context.ddrOk (c : Context) (a len : Nat) : Bool :=
  decide (c.ddrBase ≤ a) && decide (a + len ≤ c.ddrBase + c.ddrSize)

/-- A context that runs books for training: created, and not a dress run. -/
def Context.training (c : Context) : Bool := decide (c.st ≠ 0) && !c.dress

/-- The step number of a context (R270): STEP of its exchange record, or a dress run's completed passes. -/
def State.stepOf (s : State) (p c : Nat) : Word :=
  let x := s.ctx p c
  if x.dress then BitVec.ofNat 32 x.passes
  else match x.book with
    | some b => (match b.xrec with
      | some a => BitVec.ofNat 32 (leNat (s.bytes a 4))
      | none => 0)
    | none => 0

/-- The 8-byte words that a range touches. -/
def wordsOf (a len : Nat) : List Nat := if len = 0 then [] else seqFromTo (a / 8) ((a + len - 1) / 8)

/-- The bank of a bay offset, numbered through the bay (R158). -/
def bankOf (off : Nat) : Nat := 4 * (off / 0x20000 % 128) + off / 32 % 4

/-- A wide access of len bytes takes its banks in the present cycle, under its order of Table 6.1 times ten (R159). -/
def State.useBanks (s : State) (b order off len : Nat) : State :=
  let y := s.bay b
  s.setBay b { y with served := y.served ++ (List.range ((len + 31) / 32)).map (fun i => (bankOf (off + 32 * i), order)) }

/-- No access that goes before one of an order, or of its own order, has taken a bank of its len bytes in the present
cycle (Table 6.1). -/
def Bay.banksFree (y : Bay) (order off len : Nat) : Bool :=
  (List.range ((len + 31) / 32)).all (fun i => y.served.all (fun x => decide (x.1 ≠ bankOf (off + 32 * i)) || decide (order < x.2)))

/-- Reading one scratchpad word through SECDED (R162, R163): a corrected word is counted and waits for its
write-back, an uncorrectable one is counted and its offset kept. True: the word can be used. -/
def State.checkWord (s : State) (w : Nat) : State × Bool :=
  let e := sget 0 s.memErr w
  let (b, off) := spBayOff (8 * w)
  if e = 0 then (s, true)
  else if e = 1 then
    let y := s.bay b
    ((s.setBay b { y with writeBack := if y.writeBack.contains w then y.writeBack else y.writeBack ++ [w] }).countSat
      (aBay b 0x2000) 1, true)
  else ((s.countSat (aBay b 0x2004) 1).setReg (aBay b 0x2008) (BitVec.ofNat 32 off), false)

/-- Check a list of words; the good ones and the bad ones are all read. -/
def State.checkWords (s : State) : List Nat → State × Bool
  | [] => (s, true)
  | w :: ws =>
    let (s, ok) := s.checkWord w
    let (s, ok') := s.checkWords ws
    (s, ok && ok')

/-- Of n bytes from a bay offset, those that lie in the slice of the first. The rest, of a range no longer than a slice, lie
in the next slice of the bay, whose data-space addresses need not follow (R14, R74). -/
def inSlice (off n : Nat) : Nat := min n (0x20000 - off % 0x20000)

/-- Read n bytes of a bay's scratchpad (R162): state after the counts, and the bytes unless a word is uncorrectable. -/
def State.spRead (s : State) (bay off n : Nat) : State × Option (List Byte) :=
  let k := inSlice off n
  let a := spAddr bay off
  let a' := spAddr bay (off + k)
  let (s', ok) := s.checkWords (wordsOf a k ++ wordsOf a' (n - k))
  (s', if ok then some (s.bytes a k ++ s.bytes a' (n - k)) else none)

/-- The words a range covers only in part. -/
def partialWords (a n : Nat) : List Nat :=
  (wordsOf a n).filter (fun w => decide (8 * w < a) || decide (a + n < 8 * w + 8))

/-- Forget the bit errors of the words of a range, for which fresh check bits are stored (R163), and the write-backs of
the 32-byte rows they lie in (R162). -/
def State.freshWords (s : State) : List Nat → State
  | [] => s
  | w :: ws =>
    let b := (spBayOff (8 * w)).1
    let y := s.bay b
    if sget 0 s.memErr w = 0 ∧ y.writeBack.all (fun x => decide (x / 4 ≠ w / 4)) = true then s.freshWords ws
    else
      State.freshWords { s.setBay b { y with writeBack := y.writeBack.filter (fun x => decide (x / 4 ≠ w / 4)) } with
                         memErr := sset 0 s.memErr w 0 } ws

/-- Write bytes to a bay's scratchpad; a word covered in part is read first (R163). False: uncorrectable, nothing
written. -/
def State.spWrite (s : State) (bay off : Nat) (v : List Byte) : State × Bool :=
  let n := v.length
  let k := inSlice off n
  let a := spAddr bay off
  let a' := spAddr bay (off + k)
  let (s', ok) := s.checkWords (partialWords a k ++ partialWords a' (n - k))
  if ok then (((s'.freshWords (wordsOf a k ++ wordsOf a' (n - k))).putBytes a (v.take k)).putBytes a' (v.drop k), true)
  else (s', false)

/-- Reason codes (Table 9.11). -/
def fltOpcode : Nat := 0x01
def fltOperandCase : Nat := 0x02
def fltEngineAbsent : Nat := 0x03
def fltRange : Nat := 0x04
def fltAlign : Nat := 0x05
def fltShape : Nat := 0x06
def fltSlot : Nat := 0x07
def fltQueueId : Nat := 0x08
def fltTag : Nat := 0x09
def fltShardVersion : Nat := 0x0A
def fltEccUncorr : Nat := 0x0B
def fltFenced : Nat := 0x0C
def fltEpoch : Nat := 0x0D
def fltContract : Nat := 0x0E

/-- The nodes that the link engines attach at, the first of the bays their wing adjoins (R181, entry 24): INDEX 0
Ethernet, 1 chain W, 2 chain E. -/
def linkNodeOf (index : Nat) : Nat := if index = 0 then 11 else if index = 2 then 23 else 12

/-- The node of an engine outside the bays: a cue processor (R181). -/
def cpNode (n : Nat) : Nat := match n with | 0 => 14 | 1 => 20 | 2 => 26 | _ => 32

/-- Where a packet enters the cue network, and where it leaves it (R181). -/
def CuePkt.source : CuePkt → Nat
  | .command _ _ _ _ _ _ _ _ cp => cpNode cp
  | .fault _ _ _ cls bay index _ _ _ _ =>
    if cls = 6 then cpNode index else if cls = 7 then linkNodeOf index else if cls = 8 then 12 * (index % 4) + (if index < 4 then 0 else 11)
    else bay
def CuePkt.target : CuePkt → Nat
  | .command cls bay index _ _ _ _ _ _ => if cls = 3 then linkNodeOf index else bay
  | .fault _ _ _ _ _ _ _ _ _ _ => 17

/-- Words of a packet, 2 to 8 (R181). A command takes a word for its queue beside its own, a fault report eight (DESIGN
CHOICE, entry 185). -/
def CuePkt.words : CuePkt → Nat
  | .command _ _ _ _ ws _ _ _ _ => min 8 (max 2 (ws.length + 1))
  | .fault _ _ _ _ _ _ _ _ _ _ => 8

/-- Fault reports go at high priority, commands at low (R181). -/
def CuePkt.high : CuePkt → Bool
  | .command _ _ _ _ _ _ _ _ _ => false
  | .fault _ _ _ _ _ _ _ _ _ _ => true

/-- A packet enters the cue network at its sender's node (R181). -/
def State.sendCue (s : State) (x : CuePkt) : State :=
  { s with cuePkts := s.cuePkts ++ [{ pkt := x, node := x.source, inp := 0, ready := s.cueCyc }] }

/-- An engine sends a fault packet to the fault-record block (R287): class, bay, index as Table 9.13 gives them. -/
def State.sendFault (s : State) (reason part ctx cls bay index : Nat) (bookoff : Word) (addr : Nat)
    (detail : List Nat) : State :=
  s.sendCue (.fault reason part ctx cls bay index bookoff s.clock.house addr detail)

/-- Key of an arriver of a partition in CurtNet.joined, by class and index. -/
def joinKey (p cls idx : Nat) : Nat := 4 * (8192 * cls + idx) + p

/-- An event enters an engine's crossing to the curtain network (R183, R187): it is not registered yet. -/
def State.sendCrtOf (s : State) (node : Nat) (e : CrtEvent) (cp : Option Nat) : State :=
  let joined := match e with | .arrive p _ _ _ cls idx => sset 0 s.crt.joined (joinKey p cls idx) 0 | _ => s.crt.joined
  let w := s.crt.waiting ++ [{ ev := e, node := node, time := s.clock.house, cp := cp }]
  { s with crt := { s.crt with waiting := w, joined := joined } }
def State.sendCrt (s : State) (node : Nat) (e : CrtEvent) : State := s.sendCrtOf node e none

/-- Flag k of partition p as applied at a bay node (R183). -/
def State.flagAt (s : State) (node p k : Nat) : Bool := (sget 0 s.crt.flags node).getLsbD (64 * p + k)

/-- A command is running for a context in a bay's station: a started command, or one waiting (STN_STATUS.RUNNING). -/
def Bay.running (b : Bay) : Bool :=
  b.started.any (fun c => decide (c.queue < 4)) || (b.queues.any (fun kv => decide (kv.1 < 4)))

/-- A bay of the die is fenced or its stagehands are busy: used by the clocks (R336). -/
def State.handsRunning (s : State) (b : Nat) : Bool :=
  s.stagehands.any (fun kv => decide (handBay kv.1 = b) && kv.2.running)

/-- A fence of a reset in progress covers an engine of class cls (Table 9.10) in a bay, or with an index, working for
partition p (R422, Table 15.1). -/
def ResetOp.covers (r : ResetOp) (cls bay index p : Nat) : Bool :=
  if 3 ≤ r.level then true
  else if r.level = 2 then decide (r.part = p)
  else decide (r.level = 1) && decide (r.cls = cls) && (if cls = 3 then decide (r.index = index) else decide (r.bay = bay))

def State.engineFenced (s : State) (cls bay index p : Nat) : Bool := s.resets.any (fun r => r.covers cls bay index p)

/-- A fenced domain at the end of its drain discards what arrives for it (R422). -/
def State.engineDead (s : State) (cls bay index p : Nat) : Bool :=
  s.resets.any (fun r => r.drained && r.covers cls bay index p)

/-- The partition is being reset: at L2, or at L3 or L4 with the whole die (R422). -/
def State.partFenced (s : State) (p : Nat) : Bool :=
  s.resets.any (fun r => decide (3 ≤ r.level) || (decide (r.level = 2) && decide (r.part = p)))

/-- The memory wings are fenced: an L4 reset (Table 15.1, R318), or the reference is lost (R329). -/
def State.memFenced (s : State) : Bool := s.clock.refLost || s.resets.any (fun r => decide (4 ≤ r.level))

/-- A chain port: false W, true E. -/
def State.port (s : State) (e : Bool) : ChainPort := if e then s.chain.e else s.chain.w
def State.setPort (s : State) (e : Bool) (x : ChainPort) : State :=
  { s with chain := if e then { s.chain with e := x } else { s.chain with w := x } }

end Sys2Proof.Machine
end

