-- ==== Sys2Proof/Machine/Events.lean ====
section
/-!
DEFINITION. Machine/Events.lean: Yemir's event log, the risk score with its thresholds, and the mailboxes it writes
(R390 to R400).
-/
namespace Sys2Proof.Machine

/-- Yemir's firmware runs: powered, out of its boot ROM and not halted (R404, R418). -/
def State.ymrUp (s : State) : Bool := decide (s.power ≠ .off) && !s.ymr.inRom && !s.ymr.halted

/-- The die rails are on and mailboxes answer: not before step 4 of power-up, nor in an L4 reset (R400). -/
def State.mbxOn (s : State) : Bool := s.ymr.dieOn && !(s.resets.any (fun r => decide (4 ≤ r.level) && r.drained))

/-- A push of an entry into a channel (R399): false when the push is refused. -/
def State.mbxPush (s : State) (n : Nat) (e : List Word) : State × Bool :=
  if s.mbxOn then
    let m := s.mail n
    if m.entries.length < 8 then (s.setMail n { m with entries := m.entries ++ [e] }, true)
    else if m.overwrite then (s.setMail n { m with entries := m.entries.drop 1 ++ [e], collision := true }, true)
    else (s.countSat (aMbx n 0x0C) 1, false)
  else (s, false)

/-- The 16 words of a list of bytes. -/
def wordsOfBytes (bs : List Byte) : List Word :=
  (List.range 16).map (fun i => BitVec.ofNat 32 (leNat ((bs.drop (4 * i)).take 4)))

/-- A host notice (R397). -/
def noticeEntry (number code score action time : Nat) : List Word :=
  wordsOfBytes (toLE 8 number ++ toLE 2 code ++ toLE 1 score ++ toLE 1 action ++ toLE 8 time)

/-- The partition holds a context. -/
def State.partUsed (s : State) (p : Nat) : Bool := s.ctxs.any (fun kv => decide (kv.1 / 16 = p) && decide (kv.2.st ≠ 0))

/-- A module-wide notice goes to the channel of every partition that holds a context (R397). -/
def State.notice (s : State) (e : List Word) : State :=
  (List.range 4).foldl (fun s p => if s.partUsed p then (s.mbxPush (8 + p) e).1 else s) s

/-- Hottest bay of a list, in quarter degrees, and coolant inlet in tenths (R393). -/
def State.hottest (s : State) (bays : List Nat) : Nat :=
  bays.foldl (fun m b => max m (sget 0 s.ymr.sensors.bayTemp b)) 0

/-- Sum of a tally over the last 600 s. -/
def recentCount (now : Nat) (h : List (Nat × Nat)) : Nat :=
  (h.filter (fun x => decide (now < x.1 + 600000000000))).foldl (fun a x => a + x.2) 0

/-- The step function of the CE and LR terms: 8 * floor(log2(1 + n / unit)), at most cap. -/
def logTerm (cap unit n : Nat) : Nat := min cap (8 * Nat.log2 ((unit + n) / unit))

/-- The risk score (R393); while the die rails are off only E counts (R394). -/
def State.riskScore (s : State) : Nat :=
  let y := s.ymr
  if y.dieOn then
    let ce := logTerm 96 64 (recentCount s.clock.house y.ceHist)
    let lr := logTerm 64 1024 (recentCount s.clock.house y.lrHist)
    let tBay := s.hottest (List.range 48) / 4
    let tIn := y.sensors.inlet / 10
    let th := min 96 (8 * (tBay - 85)) + min 64 (16 * (tIn - 45))
    let su := if s.clock.thrSupply then 32 else 0
    min 255 (y.riskE + ce + lr + th + su)
  else min 255 y.riskE

/-- Set bits of YMR_ALERT; an unmasked bit that becomes set sends an in-band interrupt (R415). -/
def State.setAlert (s : State) (m : BitVec 6) : State :=
  let new := m &&& ~~~s.ymr.alert &&& s.ymr.alertMask
  let alert := s.ymr.alert ||| m
  { s with ymr := { s.ymr with alert := alert },
           pins := if new = 0 then s.pins else { s.pins with ibi := some (BitVec.ofNat 8 alert.toNat) } }

/-- MOD_ALERT_N is driven low (R417). -/
def State.modAlertLow (s : State) : Bool := s.ymr.wdog || !(decide (s.ymr.alert &&& s.ymr.alertMask = 0))

/-- Severity and points of an event code (Table 14.5); the points that depend on the event are passed at its place. -/
def evtSeverity (code : Nat) : Nat :=
  if code ∈ [0x0021, 0x0028, 0x0030, 0x006A, 0x0070] then 3
  else if code ∈ [0x0002, 0x000A, 0x0010, 0x0011, 0x0022, 0x0029, 0x0040, 0x0048, 0x0050, 0x0051, 0x0052, 0x0053, 0x0064, 0x0069] then 2
  else if code ∈ [0x0009, 0x0012, 0x0020, 0x0031, 0x0032, 0x0033, 0x0034, 0x0060, 0x0068, 0x0072] then 1
  else 0

def evtPoints (code : Nat) : Nat :=
  if code = 0x0030 then 160
  else if code = 0x0053 then 64
  else if code ∈ [0x0011, 0x0022, 0x0029, 0x0040] then 48
  else if code ∈ [0x0002, 0x0010, 0x0048] then 32
  else if code ∈ [0x000A, 0x0012] then 16
  else 0

/-- WHERE of a log entry (Table 14.4). -/
def whereOf (part ctx bay engine : Nat) : Nat := part * 16384 + ctx * 1024 + bay * 16 + engine
def whereModule : Nat := 0xFFFF

/-- The log ring holds 1,048,576 entries (R390). -/
def logRing : Nat := 1048576

/-- Write one entry with the score as it stands: at most 1,000 in a second of uptime (R390). -/
def State.logWrite (s : State) (code loc data : Nat) : State :=
  let y := s.ymr
  let sec := s.clock.uptime / 1000000000
  let cnt := if y.logSecond = sec then y.logCount else 0
  if cnt < 1000 then
    let e : LogEntry :=
      { number := y.nextEvent, time := if y.dieOn then s.clock.house else s.clock.uptime, ht := y.dieOn, code := code,
        severity := evtSeverity code, dropped := min 255 y.dropped, loc := loc, risk := y.score, data := data % 2 ^ 64 }
    let log := y.log ++ [e]
    let keep := if log.length > logRing then log.drop 1 else log
    { s with ymr := { y with log := keep, nextEvent := y.nextEvent + 1, logSecond := sec, logCount := cnt + 1, dropped := 0 } }
  else { s with ymr := { y with logSecond := sec, logCount := cnt, dropped := y.dropped + 1 } }

/-- The started training contexts of the die (R431). -/
def State.startedTraining (s : State) : List (Nat × Nat) :=
  ((s.ctxs.filter (fun kv => decide (3 ≤ kv.2.st ∧ kv.2.st ≤ 5) && !kv.2.dress)).map (fun kv => (kv.1 / 16, kv.1 % 16)))

/-- An intermission asked for: a context that has one in progress is not given a second; requests for one context that
fall due together become one (R396). -/
def State.askIntermission (s : State) (r : IReq) : State :=
  if r.cause ≠ 0 ∧ s.inter.reqs.any (fun q => decide (q.part = r.part ∧ q.ctx = r.ctx)) = true then s
  else { s with inter := { s.inter with reqs := s.inter.reqs ++ [r] } }

/-- The thresholds of Table 14.6: level, score, re-arm value. -/
def riskLevels : List (Nat × Nat × Nat) := [(0, 96, 80), (1, 160, 144), (2, 224, 208)]

/-- A threshold's action (R395). -/
def State.riskAction (s : State) (level : Nat) : State :=
  let code := 0x0068 + level
  let number := s.ymr.nextEvent
  if level = 2 then
    let force := bit s.ymr.policy 1
    let l := s.startedTraining
    let taken := force && !l.isEmpty
    let s := s.logWrite code whereModule (s.ymr.score + (if taken then 256 else 0))
    if force then
      (l.foldl (fun s c => s.askIntermission { part := c.1, ctx := c.2, cause := 2, copyHost := false, hdrs := [], expires := none }) s).notice
        (noticeEntry number code s.ymr.score 2 s.clock.house)
    else s
  else
    let s := s.logWrite code whereModule s.ymr.score
    (s.notice (noticeEntry number code s.ymr.score level s.clock.house)).setAlert 1

/-- One threshold: re-armed below its re-arm value, its action taken once when the score reaches it (R395). -/
def State.riskStep (s : State) (t : Nat × Nat × Nat) : State :=
  let dis := s.ymr.disarmed.getLsbD t.1
  let m : BitVec 3 := BitVec.ofNat 3 (2 ^ t.1)
  if s.ymr.score < t.2.2 then { s with ymr := { s.ymr with disarmed := s.ymr.disarmed &&& ~~~m } }
  else if !dis && decide (t.2.1 ≤ s.ymr.score) then
    State.riskAction { s with ymr := { s.ymr with disarmed := s.ymr.disarmed ||| m } } t.1
  else s

def State.riskThresholds (s : State) : State := riskLevels.foldl State.riskStep s

/-- The health monitor computes the score and takes the threshold actions (R393, R395). -/
def State.updateRisk (s : State) : State :=
  State.riskThresholds { s with ymr := { s.ymr with score := s.riskScore } }

/-- Yemir logs an event that adds the given points (R390, R392, R393). -/
def State.logPts (s : State) (code loc data points : Nat) : State :=
  if s.ymrUp then
    let s := { s with ymr := { s.ymr with riskE := min 255 (s.ymr.riskE + points) } }
    let s := { s with ymr := { s.ymr with score := s.riskScore } }
    (s.logWrite code loc data).riskThresholds
  else s

/-- Yemir logs an event with the points of Table 14.5. -/
def State.logEvent (s : State) (code loc data : Nat) : State := s.logPts code loc data (evtPoints code)

/-- Numbers packed into DATA from the low byte up: each value with its width in bytes. -/
def packData : List (Nat × Nat) → Nat
  | [] => 0
  | (w, v) :: l => v % 256 ^ w + 256 ^ w * packData l

/-- Number of one-time signature indices (R402). -/
def xmssIndices : Nat := 2 ^ 40

/-- A signature can still be made (R403). -/
def State.canSign (s : State) : Bool := decide (s.ymr.xmssNext < s.ymr.xmssReserved) || decide (s.ymr.xmssReserved < xmssIndices)

/-- Take the next one-time index; a block of 1,024 is reserved in both areas before its first is used (R403). -/
def State.takeIndex (s : State) : State × Option Nat :=
  let y := s.ymr
  if y.xmssNext < y.xmssReserved then ({ s with ymr := { y with xmssNext := y.xmssNext + 1 } }, some y.xmssNext)
  else if y.xmssReserved < xmssIndices then
    let n := y.xmssReserved
    let s := { s with ymr := { y with xmssNext := n + 1, xmssReserved := n + 1024 } }
    (if n + 1024 < xmssIndices then s else s.logEvent 0x0070 whereModule (n / 1024 + 1), some n)
  else (s, none)

/-- Yemir signs a message with the device identity key: 9,893 bytes (R402); none once the indices are used up (R403). -/
def State.sign (s : State) (msg : List Byte) : State × Option (List Byte) :=
  match s.takeIndex with
  | (s', some i) => (s', some (fitTo 9893 (Config.xmssSign s.fuse.identitySeed i msg)))
  | (s', none) => (s', none)

/-- HEARTBEAT (R418): the firmware advances YMR_HEARTBEAT and services the watchdog. -/
def execHeartbeat (s : State) : Out :=
  if s.ymrUp then .next { s with ymr := { s.ymr with heartbeat := s.ymr.heartbeat + 1, watchdogAt := s.clock.uptime } }
  else idle s

/-- RISK_SCORE_UPDATE (R393, R395). -/
def execRiskScoreUpdate (s : State) : Out := if s.ymrUp then .next s.updateRisk else idle s

/-- RISK_DECAY (R394): at a multiple of 60 s, of house time or with the rails off of uptime, E loses an eighth,
rounded up, once for each mark. -/
def execRiskDecay (s : State) : Out :=
  let y := s.ymr
  let mark := (if y.dieOn then s.clock.house else s.clock.uptime) / 60000000000
  if s.ymrUp && decide (y.decayed < mark) then
    .next { s with ymr := { y with riskE := y.riskE - (y.riskE + 7) / 8, decayed := y.decayed + 1 } }
  else idle s

/-- The slot that is not active. -/
def State.inactiveFw (s : State) : FwSlot := if s.ymr.activeB then s.ymr.slotA else s.ymr.slotB
def State.setInactiveFw (s : State) (f : FwSlot) : State :=
  { s with ymr := if s.ymr.activeB then { s.ymr with slotA := f } else { s.ymr with slotB := f } }

/-- The module is on its way to ready. -/
def State.poweringUp (s : State) : Bool :=
  match s.power with
  | .yemir => true
  | .training => true
  | .testing _ _ => true
  | _ => false

/-- A pending slot that does not bring the module to ready has failed a boot (R414). -/
def State.failBoot (s : State) : State :=
  let f := s.inactiveFw
  if f.pending && s.poweringUp then s.setInactiveFw { f with fails := f.fails + 1 } else s

/-- WATCHDOG_EXPIRY (R418, R414): a second without service halts the processor and sets YMR_ALERT.WDOG. -/
def execWatchdogExpiry (s : State) : Out :=
  if s.ymrUp && decide (s.ymr.watchdogAt + 1000000000 ≤ s.clock.uptime) then
    let s := s.failBoot
    .next { s with ymr := { s.ymr with halted := true, wdog := true, wdogPending := some s.ymr.heartbeat } }
  else idle s

end Sys2Proof.Machine
end

