-- ==== Sys2Proof/Machine/ChainLink.lean ====
section
/-!
DEFINITION. Machine/ChainLink.lean: what a chain port puts on the line: flits, their CRC and their messages, arbitration between
the lanes, credits, curtain slices (R368 to R373, R375).
-/
namespace Sys2Proof.Machine

/-- One bit, one byte and a string of the CRC-32 of IEEE 802.3 (Table 13.1): low bit first, all ones to begin and to end
(PRESUMED, entry 190). -/
def crcBit (c : Nat) : Nat := if c % 2 = 1 then c / 2 ^^^ 0xEDB88320 else c / 2
def crcByte (c : Nat) (b : Byte) : Nat :=
  crcBit (crcBit (crcBit (crcBit (crcBit (crcBit (crcBit (crcBit (c ^^^ b.toNat))))))))
def crc32 (bs : List Byte) : Nat := bs.foldl crcByte 0xFFFFFFFF ^^^ 0xFFFFFFFF

/-- The 256 bytes of a flit: its header, its payload padded with zeros, its CRC (Table 13.1). -/
def flitBytes (header : Nat) (body : List Byte) : List Byte :=
  let b := toLE 8 header ++ fitTo 244 body
  b ++ toLE 4 (crc32 b)

/-- A flit header (Table 13.2). -/
def flitHeader (f : ChainFlit) : Nat :=
  f.seq + 2 ^ 12 * f.ack + 2 ^ 24 * b2n f.nak + 2 ^ 25 * f.vl + 2 ^ 27 * b2n f.som + 2 ^ 28 * b2n f.eom + 2 ^ 29 * b2n f.islocal +
    2 ^ 31 * f.len + 2 ^ 39 * f.cvl + 2 ^ 41 * f.credits + 2 ^ 49 * f.dest + 2 ^ 55 * f.src

/-- The flit that 256 bytes are, with its message bytes as decrypted. -/
def flitOf (raw plain : List Byte) (tagOk : Bool) : ChainFlit :=
  let h := leNat (raw.take 8)
  { seq := h % 4096, ack := h / 2 ^ 12 % 4096, nak := h.testBit 24, vl := h / 2 ^ 25 % 4, som := h.testBit 27, eom := h.testBit 28,
    islocal := h.testBit 29, len := h / 2 ^ 31 % 256, cvl := h / 2 ^ 39 % 4, credits := h / 2 ^ 41 % 256, dest := h / 2 ^ 49 % 64,
    src := h / 2 ^ 55 % 64, plain := plain, tagOk := tagOk }

/-- The CRC of a flit on the line holds (Table 13.1). -/
def crcHolds (raw : List Byte) : Bool := decide (leNat (raw.drop 252) = crc32 (raw.take 252))

/-- The key of a port's own direction: bytes 0 to 31 of K eastward, 32 to 63 westward (R375, R357; entry 191). -/
def ChainPort.outKey (x : ChainPort) (e : Bool) : Nat := if e then x.key % 2 ^ 256 else x.key / 2 ^ 256

/-- The nonce of a message: its lane, its count, three zero bytes (R375). -/
def msgNonce (vl count : Nat) : Nat := vl + 256 * count

/-- Payload bytes of a flit to send: the part, and the tag behind the last. -/
def TxFlit.len (f : TxFlit) : Nat := f.part.length + (if f.eom then 16 else 0)
def TxFlit.body (key : Nat) (f : TxFlit) : List Byte :=
  fitTo f.part.length (Config.gcmBytes key (msgNonce f.vl f.count) f.off f.part) ++
    (if f.eom then toLE 16 (Config.gcmTag key (msgNonce f.vl f.count) [] f.whole).toNat else [])

/-- A flit to send, with the ACK it carries. -/
def TxFlit.fields (f : TxFlit) (ack : Nat) : ChainFlit :=
  { seq := f.seq, ack := ack, nak := false, vl := f.vl, som := f.som, eom := f.eom, islocal := f.islocal, len := f.len, cvl := 0,
    credits := 0, dest := f.dest, src := f.src, plain := f.part, tagOk := true }

/-- A control flit: no SEQ, no payload (R369). -/
def ctlFields (nak : Bool) (ack cvl credits : Nat) : ChainFlit :=
  { seq := 0, ack := ack, nak := nak, vl := 1, som := false, eom := false, islocal := true, len := 0, cvl := cvl,
    credits := credits, dest := 0, src := 0, plain := [], tagOk := true }

/-- Bytes 15:0 of a curtain slice, and its 32 bytes: these encrypted, CSEQ and CACK in clear, the tag (Table 13.4). -/
def slicePlain (c : CurtSlice) : List Byte :=
  toLE 1 c.kind ++ toLE 1 c.curtain ++ [c.payload] ++ toLE 1 c.part ++ toLE 4 c.step.toNat ++ toLE 4 c.epoch.toNat ++
    toLE 1 c.cast ++ toLE 1 c.members ++ toLE 1 (c.uplink.getD 0xFF) ++ toLE 1 c.src
def sliceBytes (key count : Nat) (c : CurtSlice) : List Byte :=
  let clear := toLE 2 c.cseq ++ toLE 2 c.cack
  fitTo 16 (Config.gcmBytes key count 0 (slicePlain c)) ++ clear ++ toLE 12 (Config.gcmTag key count clear (slicePlain c)).toNat

/-- The 32-byte slices on the line with their framing codes (R368): 0 a continuing slice of a flit, 1 its first, 2 a curtain
slice. -/
def flitSlices (bs : List Byte) : List (Nat × List Byte) :=
  (List.range 8).map (fun i => (if i = 0 then 1 else 0, (bs.drop (32 * i)).take 32))
def LineItem.slices : LineItem → List (Nat × List Byte)
  | .data key f ack => flitSlices (flitBytes (flitHeader (f.fields ack)) (f.body key))
  | .ctl nak ack cvl credits => flitSlices (flitBytes (flitHeader (ctlFields nak ack cvl credits)) [])
  | .slice key c count => [(2, sliceBytes key count c)]

/-- Credits of a virtual lane. -/
def ChainPort.credits (x : ChainPort) (vl : Nat) : Nat := if vl = 1 then x.credits1 else if vl = 2 then x.credits2 else x.credits3
def ChainPort.setCredits (x : ChainPort) (vl n : Nat) : ChainPort :=
  if vl = 1 then { x with credits1 := n } else if vl = 2 then { x with credits2 := n } else { x with credits3 := n }

/-- The SEQ up to which every flit has been received and its message dealt with: what an ACK names. A NAK to a message's first
flit (R375) can still name every flit of it (DEDUCED, entry 192). -/
def ChainPort.ackNum (x : ChainPort) : Nat := (x.rxMsg.head?).elim x.rxSeq ChainFlit.seq

/-- A control flit leaves (R369). -/
def State.sendCtl (s : State) (e nak : Bool) (ack cvl credits : Nat) : State :=
  let x := s.port e
  s.setPort e { x with line := x.line ++ [.ctl nak ack cvl credits] }

/-- The present ACK, without credits. -/
def State.ackFlit (s : State) (e : Bool) : State := s.sendCtl e false (s.port e).ackNum 0 0

/-- Credits of a lane return to the neighbour as its flits leave the buffer: at most 255 a flit (R371, Table 13.2). -/
def State.creditBack (s : State) (e : Bool) (vl : Nat) : Nat → Nat → State
  | 0, _ => s
  | fuel + 1, n =>
    if n = 0 then s
    else State.creditBack (s.sendCtl e false (s.port e).ackNum vl (min 255 n)) e vl fuel (n - min 255 n)
def State.returnCredits (s : State) (e : Bool) (vl n : Nat) : State := s.creditBack e vl (n / 255 + 1) n

/-- The oldest flit of a lane, when the lane has a credit. -/
def ChainPort.ready (x : ChainPort) (vl : Nat) : Option Nat :=
  if 0 < x.credits vl then x.txQueue.findIdx? (fun f => decide (f.vl = vl)) else none

/-- The flit that leaves next, with the lane whose turn it is and what is left of the turn (R371): VL1 ahead of all; VL2 and VL3
by their weights, and either alone when the other has nothing. -/
def ChainPort.nextFlit (x : ChainPort) (weight : Nat → Nat) : Option (Nat × Nat × Nat) :=
  let other := if x.turn = 2 then 3 else 2
  match x.ready 1 with
  | some i => some (i, x.turn, x.turnLeft)
  | none =>
    match x.ready x.turn, x.ready other with
    | some i, some j => if 0 < x.turnLeft then some (i, x.turn, x.turnLeft - 1) else some (j, other, weight other - 1)
    | some i, none => some (i, x.turn, if 0 < x.turnLeft then x.turnLeft - 1 else weight x.turn - 1)
    | none, some j => some (j, other, weight other - 1)
    | none, none => none

/-- The weight of a lane in CHN_CFG (R371). -/
def State.laneWeight (s : State) (e : Bool) (vl : Nat) : Nat :=
  let w := s.reg (aChn e 0x04)
  if vl = 2 then fld w 3 0 else fld w 7 4

/-- Flits leave a port that is up, each taking the next SEQ and a credit, while at most 1,024 are unacknowledged (R369,
R371). -/
def State.pump (s : State) (e : Bool) : Nat → State
  | 0 => s
  | fuel + 1 =>
    let x := s.port e
    if !x.up || decide (1024 ≤ x.txUnacked.length) then s
    else
      match x.nextFlit (s.laneWeight e) with
      | none => s
      | some (i, turn, left) =>
        match x.txQueue[i]? with
        | none => s
        | some f =>
          let f := { f with seq := x.txSeq }
          let s := s.setPort e { x.setCredits f.vl (x.credits f.vl - 1) with
            txQueue := listDrop x.txQueue i, txUnacked := x.txUnacked ++ [f], txSeq := (x.txSeq + 1) % 4096, turn := turn,
            turnLeft := left, line := x.line ++ [.data (x.outKey e) f x.ackNum] }
          State.pump (if f.relay then s.returnCredits (!e) f.vl 1 else s) e fuel

def State.chainPump (s : State) (e : Bool) : State := s.pump e (s.port e).txQueue.length

/-- The flits of a message (R375): 244 bytes each but the last, which holds the tag behind what is left. -/
def flitsOf (vl src dest count : Nat) (islocal : Bool) (whole : List Byte) : Nat → Nat → List TxFlit
  | 0, _ => []
  | fuel + 1, off =>
    let rest := whole.drop off
    let last := decide (rest.length ≤ 228)
    { seq := 0, vl := vl, som := decide (off = 0), eom := last, islocal := islocal, dest := dest, src := src,
      part := if last then rest else rest.take 244, count := count, off := off, whole := if last then whole else [], relay := false } ::
      (if last then [] else flitsOf vl src dest count islocal whole fuel (off + 244))

/-- The two modules of a link agree new keys, both signing (R375): at every training, and before a count wraps. The exchange
itself has no layout in the spec and its outcome is a free value (entry 191). -/
def State.agreeKeys (s : State) (e : Bool) : State :=
  let s := s.takeIndex.1
  let x := s.port e
  State.setPort { s with free := s.free + 1 } e
    { x with key := (Config.freeValue 512 s.free).toNat, msgTx := [], msgRx := [], sliceTx := x.sliceTx % 65536,
             sliceRx := x.sliceRx % 65536 }

/-- Queue a message on a chain port. -/
def State.sendMessage (s : State) (e : Bool) (vl dest : Nat) (islocal : Bool) (bs : List Byte) : State :=
  let s := if 2 ^ 64 ≤ sget 0 (s.port e).msgTx vl + 1 then s.agreeKeys e else s
  let x := s.port e
  let n := sget 0 x.msgTx vl
  (s.setPort e { x with msgTx := sset 0 x.msgTx vl (n + 1),
                        txQueue := x.txQueue ++ flitsOf vl (s.chain.addr.getD 0) dest n islocal bs (bs.length / 244 + 2) 0 }).chainPump e

/-- Bytes of the longest transfer (R231), and a payload cut into messages of at most so many: a message must fit the receive
buffer of its lane (entry 193). -/
def maxMessage : Nat := 32 + 64 * 2048
def messagesOf : Nat → List Byte → List (List Byte)
  | 0, bs => [bs]
  | fuel + 1, bs => if bs.length ≤ maxMessage then [bs] else bs.take maxMessage :: messagesOf fuel (bs.drop maxMessage)

/-- Send a payload to another module on a chain port. -/
def State.chainSend (s : State) (e : Bool) (vl dest : Nat) (islocal : Bool) (bs : List Byte) : State :=
  (messagesOf (bs.length / maxMessage) bs).foldl (fun s b => s.sendMessage e vl dest islocal b) s

/-- The buddy in effect (R439). -/
def State.buddy (s : State) : Option Nat :=
  let w := s.reg (aFlt 0x201C)
  match s.chain.addr with
  | none => none
  | some a =>
    if bit w 31 then some (fld w 5 0)
    else if s.chain.count ≤ 1 then none
    else if a ^^^ 1 < s.chain.count then some (a ^^^ 1) else some (a - 1)

/-- Put a curtain slice on a port's line (R372). -/
def ChainPort.putSlice (x : ChainPort) (e : Bool) (c : CurtSlice) (count : Nat) : ChainPort :=
  if x.up then { x with line := x.line ++ [.slice (x.outKey e) c count] } else x

/-- Send a curtain slice on a port: it takes the next count, acknowledges what has been received, and stands unacknowledged
until its CSEQ is acknowledged (R373). -/
def State.sendSlice (s : State) (e : Bool) (c : CurtSlice) : State :=
  let s := if 2 ^ 64 ≤ (s.port e).sliceTx + 1 then s.agreeKeys e else s
  let x := s.port e
  let c := { c with cseq := x.sliceTx % 65536, cack := x.sliceRx % 65536 }
  s.setPort e ({ x with curtOut := x.curtOut ++ [(c, x.sliceTx, s.clock.house)], sliceTx := x.sliceTx + 1, ackDue := false }.putSlice
    e c x.sliceTx)

/-- A slice received is acknowledged by one of KIND 3 when no other has gone back (R373). It takes no CSEQ of its own: that of
the last slice stands in it (entry 194). -/
def State.ackSlice (s : State) (e : Bool) : State :=
  let x := s.port e
  if x.ackDue then
    let c : CurtSlice :=
      { kind := 3, curtain := 0, payload := 0, part := 0, step := 0, epoch := 0, cast := 0, members := 0, uplink := none,
        src := s.chain.addr.getD 0, cseq := (x.sliceTx + 65535) % 65536, cack := x.sliceRx % 65536, tagOk := true }
    s.setPort e ({ x with ackDue := false }.putSlice e c (x.sliceTx - 1))
  else s

end Sys2Proof.Machine
end

