-- ==== Sys2Proof/Machine/MemCore.lean ====
section
/-!
DEFINITION. Machine/MemCore.lean: the memories behind the data map: where an address lives, block reads and writes with
their errors and counters, and the key a DDR block is read under (R13, R290 to R300).
-/
namespace Sys2Proof.Machine

/-- Bases of the data map (Table 0.5). -/
def ddrBase : Nat := 0x100000000000
def hbmBytes : Nat := 288 * 2 ^ 30

/-- All twelve stacks have trained (R291). -/
def State.hbmReady (s : State) : Bool := (List.range 12).all (fun n => decide ((s.ctl n).st = 2))
/-- All eight DIMMs have trained (R294). -/
def State.ddrReady (s : State) : Bool := (List.range 8).all (fun n => decide ((s.ctl (12 + n)).st = 2))

/-- GiB of a DIMM by its SIZE code (Table 10.10). -/
def dimmGiB (size : Nat) : Nat := if size = 1 then 64 else if size = 2 then 128 else if size = 3 then 256 else 0

/-- Installed memory in bytes (R13). -/
def State.installedHbm (s : State) : Nat := if s.hbmReady then hbmBytes else 0
def State.installedDdr (s : State) : Nat := if s.ddrReady then 8 * dimmGiB (s.ctl 12).size * 2 ^ 30 else 0

/-- A range lies in installed HBM or DDR. -/
def State.inHbm (s : State) (a n : Nat) : Bool := decide (a + n ≤ s.installedHbm)
def State.inDdr (s : State) (a n : Nat) : Bool := decide (ddrBase ≤ a) && decide (a + n ≤ ddrBase + s.installedDdr)
def State.inMem (s : State) (a n : Nat) : Bool := s.inHbm a n || s.inDdr a n

/-- A range lies in the scratchpad window, in slices of active bays (R13). -/
def State.inSp (s : State) (a n : Nat) : Bool :=
  decide (spBase ≤ a) && decide (a + n ≤ spBase + 6144 * 0x20000) && s.bayActive (spBayOff a).1

/-- hbm_place and ddr_place (R300): the controller (HBM 0-11, DDR 12-19), and the edge router of the block. -/
def ctlOf (a : Nat) : Nat := if a < ddrBase then a / 4096 % 12 else 12 + (a - ddrBase) / 4096 % 8
def edgeOf (a : Nat) : Nat := a / 256 % 16

/-- The stagehand position of edge router j of a controller (Table 10.3). -/
def edgeRouter (ctl j : Nat) : Nat :=
  if ctl < 6 then 16 * ctl + j
  else if ctl < 12 then 63 * 96 + 16 * (ctl - 6) + j
  else if ctl < 16 then (16 * (ctl - 12) + j) * 96
  else (16 * (ctl - 16) + j) * 96 + 95

/-- The worst error of the words of the 256-byte block of an address: 0 none, 1 correctable, 2 uncorrectable. -/
def State.blockErr (s : State) (a : Nat) : Nat :=
  (List.range 32).foldl (fun m i => max m (sget 0 s.memErr (a / 256 * 32 + i))) 0

/-- The slot a DDR line uses: the first valid range that holds it, else slot 4 (R298). -/
def State.keySlotOf (s : State) (a : Nat) : Nat :=
  let page := (a - ddrBase) / 4096
  match s.keyRanges.find? (fun r => decide (r.page ≤ page) && decide (page < r.page + r.pages)) with
  | some r => r.slot
  | none => 4

/-- The key an address is read and written under: 0 the device key, which lasts as long as the contents do; else the
number of the tenant seed, plus 1. HBM and scratchpad are not encrypted (R410). -/
def State.keyOf (s : State) (a : Nat) : Nat :=
  if a < ddrBase ∨ spBase ≤ a then 0 else if s.keySlotOf a = 4 then 0 else sget 0 s.keySlots (s.keySlotOf a)

/-- The key a block was last written under. -/
def State.keyedAs (s : State) (a : Nat) : Nat := sget 0 s.ddrKeyed (a / 256)

/-- A byte of memory as an engine reads it: under another key than it was written under it is another value (R298). -/
def State.memByte (s : State) (a : Nat) : Byte :=
  if s.keyedAs a = s.keyOf a then s.byte a
  else
    let unit := BitVec.ofNat 128 (leNat (s.bytes (a / 16 * 16) 16))
    BitVec.ofNat 8 ((Config.ddrOtherKey (s.keyedAs a) (s.keyOf a) (a / 16) unit).toNat >>> (8 * (a % 16)))

def State.memBytes (s : State) (a : Nat) : Nat → List Byte
  | 0 => []
  | n + 1 => s.memByte a :: s.memBytes (a + 1) n

/-- The event of an uncorrectable block (R292, R295). -/
def evtUncorr (ctl : Nat) : Nat := if ctl < 12 then 0x0022 else 0x0029

/-- A controller finds a block uncorrectable: counted, its address kept, logged (R292). -/
def State.badBlock (s : State) (a : Nat) : State :=
  let c := ctlOf a
  let b := a / 256 * 256
  (((s.countSat (aMem c 0x08) 1).setReg (aMem c 0x0C) (BitVec.ofNat 32 b)).setReg (aMem c 0x10)
    (BitVec.ofNat 32 (b / 2 ^ 32))).logEvent (evtUncorr c) whereModule b

/-- The correctable errors among the words of the 256-byte block of an address. -/
def State.blockFixes (s : State) (a : Nat) : Nat :=
  ((List.range 32).filter (fun i => decide (sget 0 s.memErr (a / 256 * 32 + i) = 1))).length

/-- A controller reads the block of an address: its bytes, or none when it is uncorrectable; each error corrected is
counted (R292, R295). -/
def State.readBlock (s : State) (a : Nat) : State × Option (List Byte) :=
  let c := ctlOf a
  let b := a / 256 * 256
  let n := s.blockFixes a
  let s := s.countWrap (aMem c 0x18) 1
  let s := if 0 < n then s.countSat (aMem c 0x04) n else s
  if s.blockErr a = 2 then (s.badBlock a, none) else (s, some (s.memBytes b 256))

/-- A block that a controller could not read faults every later read until it is written whole (R292). -/
def State.spoilBlock (s : State) (a : Nat) : State := { s with memErr := sset 0 s.memErr (a / 256 * 32) 2 }

/-- The blocks that a range touches. -/
def blocksOf (a n : Nat) : List Nat := if n = 0 then [] else (seqFromTo (a / 256) ((a + n - 1) / 256)).map (· * 256)

/-- Read every block of a list: the first that is uncorrectable, if any. -/
def State.readBlocks (s : State) : List Nat → State × Option Nat
  | [] => (s, none)
  | b :: bs =>
    let r := s.readBlock b
    if r.2.isSome then r.1.readBlocks bs else (r.1, some b)

/-- Read a range of HBM or DDR: the bytes, or none. -/
def State.readMem (s : State) (a n : Nat) : State × Option (List Byte) :=
  match s.readBlocks (blocksOf a n) with
  | (s', none) => (s', some (s.memBytes a n))
  | (s', some _) => (s', none)

/-- A block's other bytes as they read now, before part of it is written under the present key. -/
def State.rekeyBlock (s : State) (b : Nat) : State :=
  if s.keyedAs b = s.keyOf b then s
  else
    let k := s.keyOf b
    let s' := s.putBytes b (s.memBytes b 256)
    { s' with ddrKeyed := sset 0 s'.ddrKeyed (b / 256) k }

/-- Forget the errors of a block that is written whole (R292). -/
def State.freshBlock (s : State) (b : Nat) : State :=
  { s with memErr := s.memErr.filter (fun kv => !(decide (b / 8 ≤ kv.1) && decide (kv.1 < b / 8 + 32))) }

/-- Write bytes to HBM or DDR. -/
def State.writeMem (s : State) (a : Nat) (v : List Byte) : State :=
  let bs := blocksOf a v.length
  let s := bs.foldl (fun s b => (s.rekeyBlock b).countWrap (aMem (ctlOf b) 0x1C) 1) s
  let s := bs.foldl (fun s b => if a ≤ b ∧ b + 256 ≤ a + v.length then s.freshBlock b else s) s
  s.putBytes a v

/-- Write zero over a whole range. -/
def State.zeroRange (s : State) (a n : Nat) : State :=
  let out := fun (x : Nat) => !(decide (a ≤ x) && decide (x < a + n))
  let keyed := s.ddrKeyed.filter (fun kv => out (256 * kv.1))
  { s with mem := s.mem.filter (fun kv => out kv.1), memErr := s.memErr.filter (fun kv => out (8 * kv.1)),
           ddrKeyed := keyed }

/-- How many 4 KiB units of lo up to but not hi fall to place k of n (R300). -/
def unitsOf (n k lo hi : Nat) : Nat := (hi + n - 1 - k) / n - (lo + n - 1 - k) / n

/-- A whole range of 4 KiB units is read or written by its controllers: each counts its 256-byte blocks (off: the
counter's offset, Table 10.10). -/
def State.countUnits (s : State) (a n off : Nat) : State :=
  if a < ddrBase then
    (List.range 12).foldl (fun s k => s.countWrap (aMem k off) (16 * unitsOf 12 k (a / 4096) ((a + n) / 4096))) s
  else
    let b := a - ddrBase
    (List.range 8).foldl (fun s k => s.countWrap (aMem (12 + k) off) (16 * unitsOf 8 k (b / 4096) ((b + n) / 4096))) s

/-- Zero is written over a range of whole 4 KiB units of HBM or DDR. -/
def State.wipe (s : State) (a n : Nat) : State := (s.zeroRange a n).countUnits a n 0x1C

/-- The listed bytes of a range, by offset. -/
def State.rangeCells (s : State) (a n : Nat) : Sparse Byte :=
  (s.mem.filter (fun kv => decide (a ≤ kv.1) && decide (kv.1 < a + n))).map (fun kv => (kv.1 - a, kv.2))

/-- A little-endian number in HBM or DDR. -/
def State.memNat (s : State) (a n : Nat) : Nat := leNat (s.memBytes a n)
def State.putMemNat (s : State) (a n v : Nat) : State := s.writeMem a (toLE n v)

/-- A fresh number of the random source: its place in the sequence of free values (entry 4). -/
def State.draw (s : State) : State × Nat := ({ s with free := s.free + 1 }, s.free + 1)

/-- n fresh free bytes. -/
def State.freeBytes (s : State) : Nat → State × List Byte
  | 0 => (s, [])
  | n + 1 =>
    let b := Config.freeValue 8 s.free
    let r := State.freeBytes { s with free := s.free + 1 } n
    (r.1, b :: r.2)

end Sys2Proof.Machine
end

