-- ==== Sys2Proof/Machine/Replies.lean ====
section
/-!
DEFINITION. Machine/Replies.lean: status codes, replies of Yemir, and the module's own addresses (R347 to R356).
-/
namespace Sys2Proof.Machine

/-- Status codes (Table 12.5). -/
def stOk : Nat := 0
def stMalformed : Nat := 1
def stAuth : Nat := 2
def stFenced : Nat := 3
def stBusy : Nat := 4
def stNoEngine : Nat := 5
def stContract : Nat := 6
def stRange : Nat := 7
def stDomainOff : Nat := 8
def stTimeout : Nat := 9

/-- The session of a header, when open. -/
def State.session (s : State) (h : PcpHdr) : Option Session :=
  if h.session = 0 then none else s.ymr.sessions.find? (fun x => decide (x.id = h.session))

/-- Change the sessions with an id. -/
def State.modSession (s : State) (id : BitVec 64) (f : Session → Session) : State :=
  { s with ymr := { s.ymr with sessions := s.ymr.sessions.map (fun x => if x.id = id then f x else x) } }

/-- Number 16 * partition + context of a header. -/
def hdrPart (h : PcpHdr) : Nat := h.partition.toNat
def hdrCtx (h : PcpHdr) : Nat := h.context.toNat
def hdrKey (h : PcpHdr) : Nat := ctxKey (hdrPart h) (hdrCtx h)

/-- Queue a payload for a peer on a class of the Ethernet port (R343, R345). -/
def State.ethSend (s : State) (cls peer conn : Nat) (bs : List Byte) : State :=
  let m : OutMsg := { kind := 0, cls := cls, peer := peer, conn := conn, psn := 0, payload := bs, ready := s.clock.house }
  { s with eth := { s.eth with egress := s.eth.egress ++ [m] } }

/-- The port that a message for a chain address leaves by (R234, R374): along the line; the shorter way round an intact
loop; along the line that a broken loop has become. True: E. -/
def Chain.portTo (c : Chain) (d : Nat) : Bool :=
  match c.addr with
  | none => false
  | some a =>
    let n := max 1 c.count
    match c.broken with
    | some b => decide ((a + n - (b + 1) % n) % n < (d + n - (b + 1) % n) % n)
    | none => if c.isLoop then decide ((d + n - a) % n ≤ n / 2) else decide (a < d)

/-- A packet of a reply (R347, R348): header, payload, tag; under a session encrypted, else in clear with a zero tag. -/
def Reply.packet (r : Reply) (nfrag frag : Nat) (bs : List Byte) : List Byte :=
  let hdr := toLE 2 0x5043 ++ [1] ++ toLE 1 (1 + 2 * b2n r.enc) ++ toLE 1 r.opcode ++ toLE 1 r.status ++ [r.chain] ++
    toLE 1 (16 * r.context.toNat + r.partition.toNat) ++ toLE 8 r.session.toNat ++ toLE 4 r.sequence.toNat ++ toLE 2 bs.length ++
    toLE 1 frag ++ toLE 1 nfrag ++ toLE 8 0
  let nonce := r.sequence.toNat + 2 ^ 32 * frag
  if r.enc then hdr ++ fitTo bs.length (Config.gcmBytes r.key nonce 0 bs) ++ toLE 16 (Config.gcmTag r.key nonce hdr bs).toNat
  else hdr ++ bs ++ toLE 16 0

/-- The packets of a reply: fragments of at most 8,952 bytes (R347). -/
def Reply.packets (r : Reply) : List (List Byte) :=
  let n := max 1 ((r.payload.length + 8951) / 8952)
  (List.range n).map (fun k => r.packet n k ((r.payload.drop (8952 * k)).take 8952))

/-- A reply leaves: on class 6 to its sender, or over VL1 to the module of the chain that forwarded its request (R343, R349). -/
def State.sendReply (s : State) (r : Reply) : State :=
  let s := { s with ymr := { s.ymr with replies := s.ymr.replies ++ [r] } }
  r.packets.foldl (fun s bs =>
    match r.via with
    | some a => s.chainSend (s.chain.portTo a) 1 a false bs
    | none => s.ethSend 6 r.peer 0 bs) s

/-- A reply to a request. -/
def State.replyTo (s : State) (h : PcpHdr) (op status : Nat) (payload : List Byte) : Reply :=
  let key := (s.session h).elim 0 Session.key
  { peer := h.peer, via := h.via, session := h.session, opcode := op, status := status, sequence := h.sequence, chain := h.chain,
    context := h.context, partition := h.partition, enc := (s.session h).isSome, key := key / 2 ^ 256, payload := payload }

/-- Yemir answers an accepted request (R351): once; the reply of a closed session is dropped (Table 12.6). -/
def State.reply (s : State) (h : PcpHdr) (op status : Nat) (payload : List Byte) : State :=
  let r := s.replyTo h op status payload
  let s := s.modSession h.session (fun x => { x with open_ := x.open_ - 1 })
  let s := { s with ymr := { s.ymr with busy := s.ymr.busy.erase (hdrKey h, op) } }
  if h.session ≠ 0 ∧ r.enc = false then s else s.sendReply r

/-- A reply of steps 3 to 5 of R349: no payload, in clear, at most 1,000 in a second. -/
def State.earlyReply (s : State) (h : PcpHdr) (status : Nat) : State :=
  let sec := s.now / 1000000000
  let n := if s.ymr.authSecond = sec then s.ymr.authCount else 0
  if n < 1000 then
    let s := { s with ymr := { s.ymr with authSecond := sec, authCount := n + 1 } }
    s.sendReply { s.replyTo h h.opcode.toNat status [] with enc := false, key := 0 }
  else { s with ymr := { s.ymr with authSecond := sec, authCount := n } }

/-- A packet that has come over VL1 is the reply to a request this module forwarded: it goes on to the sender; with its last
fragment the request is answered (R349). -/
def State.relayedReply (s : State) (bs : List Byte) : Option State :=
  let num := fun (off n : Nat) => leNat ((bs.drop off).take n)
  let hit := fun (x : BitVec 64 × Word × Nat) => decide (x.1.toNat = num 8 8) && decide (x.2.1.toNat = num 16 4)
  match (if num 0 2 = 0x5043 ∧ (num 3 1).testBit 0 = true then s.ymr.relayed.find? hit else none) with
  | some x =>
    let s := if num 22 1 + 1 = num 23 1 then { s with ymr := { s.ymr with relayed := s.ymr.relayed.erase x } } else s
    some (s.ethSend 6 x.2.2 0 bs)
  | none => none

/-- The link-local IPv6 address of a MAC address (Table 12.1). -/
def linkLocal (mac : Nat) : Nat :=
  0xFE80 * 2 ^ 112 + ((mac / 2 ^ 24) ^^^ 0x020000) * 2 ^ 40 + 0xFFFE * 2 ^ 24 + mac % 2 ^ 24

/-- The addresses this module answers on (R355); IPv4 mapped into IPv6 (R363). -/
def State.ownAddrs (s : State) : List Nat :=
  let ip4 := (s.reg (aEth 0x18)).toNat
  [linkLocal s.fuse.mac.toNat] ++ (s.eth.slaac.map BitVec.toNat).toList ++
    (if ip4 = 0 then [] else [0xFFFF * 2 ^ 32 + ip4])

/-- This module is member i of a cast list. -/
def State.memberOf (s : State) (g : Nat) : Option Nat :=
  let c := s.cast g
  (List.range c.members.length).find? (fun i =>
    if c.ethernet then s.ownAddrs.contains (c.members.getD i 0) else decide (s.chain.addr = some (c.members.getD i 64)))

/-- The bytes of a curtain message (Table 12.7). -/
def curtMsgBytes (m : CurtMsg) : List Byte :=
  toLE 1 m.kind ++ toLE 1 m.curtain ++ [m.payload] ++ toLE 1 m.part ++ toLE 4 m.epoch.toNat ++ toLE 4 m.step.toNat ++
    toLE 1 m.cast ++ toLE 3 0

end Sys2Proof.Machine
end

