-- ==== Sys2Proof/Machine/ChainCurtains.lean ====
section
/-!
DEFINITION. Machine/ChainCurtains.lean: curtain slices of a chain: their routes (R374), the counting of arrivals at the
head (R381), and the release of a held curtain at the root of the die (R186).
-/
namespace Sys2Proof.Machine

/-- The port that leads to the head: true E (R374). -/
def Chain.headPort (c : Chain) : Bool :=
  match c.addr, c.broken with
  | some a, some b => decide (b < a)
  | some a, none => c.isLoop && decide (c.count / 2 < a)
  | none, _ => false

/-- The head sends a RELEASE away from itself (R374): on E, and on W in an intact loop of three or more, or in one that
has lost a link elsewhere (entry 20). -/
def State.headRelease (s : State) (c : CurtSlice) : State :=
  let s := s.sendSlice true c
  if (s.chain.isLoop && decide (3 ≤ s.chain.count)) || (s.chain.broken.isSome && s.chain.w.up) then s.sendSlice false c
  else s

/-- A RELEASE that arrives on a port goes on at the other one (R374). -/
def State.forwardRelease (s : State) (fromE : Bool) (c : CurtSlice) : State :=
  let out := !fromE
  let half := s.chain.count / 2
  let stop := s.chain.isLoop && s.chain.broken.isNone &&
    (if fromE then decide (s.chain.addr = some (half + 1)) else decide (s.chain.addr = some half))
  if (s.port out).up && !stop && !s.chain.head then s.sendSlice out c else s

/-- A curtain as its release leaves it (R186, R191). -/
def Curtain.released (c : Curtain) (payload : Byte) : Curtain :=
  let c' := { c with gen := !c.gen, payload := payload, arrived := c.arrived - c.count, acc := c.accNext, accNext := 0,
                     held := false }
  match c.next with
  | some (ch, n) => { c' with chain := ch, count := n, next := none }
  | none => c'

/-- The root releases a curtain: the release goes down the tree in sequence order (R186, R188). -/
def State.releaseCurtain (s : State) (p n : Nat) (payload : Byte) (seq : Word) (ev : CrtEvent) (time : Nat) : State :=
  let k := curtKey p n
  let s := s.setCurtain p n ((s.curtain p n).released payload)
  let e : CrtNum := { seq := seq, ev := ev, release := some (p, n, payload), time := time }
  { s with crt := { s.crt with numbered := s.crt.numbered ++ [e], seq := seq,
                               given := sset 0 s.crt.given k (sget 0 s.crt.given k + 1) } }

/-- The chain's release of a held curtain takes the next number of the sequence (entry 21). -/
def State.chainRelease (s : State) (p n : Nat) (payload : Byte) : State :=
  if (s.curtain p n).held then
    s.releaseCurtain p n payload (s.crt.seq + 1) (.arrive p n payload 0 7 0) s.clock.house
  else s

/-- A RELEASE is applied by a member of the list it names (R374, R381). -/
def State.applyRelease (s : State) (c : CurtSlice) : State :=
  if (s.memberOf c.cast).isSome && !(s.cast c.cast).ethernet && decide (¬ c.epoch.toNat < (s.cast c.cast).epoch.toNat) then
    s.chainRelease c.part c.curtain c.payload
  else s

/-- The chain root releases its chain with a payload. -/
def State.releaseChain (s : State) (c : CurtSlice) : State := (s.headRelease c).applyRelease c

/-- ARRIVEs that count together (R381). -/
def sameArrive (a b : CurtSlice) : Bool :=
  decide (a.part = b.part) && decide (a.curtain = b.curtain) && decide (a.cast = b.cast) && decide (a.epoch = b.epoch)

/-- The cluster root's list of arrivals, per partition, curtain, list and epoch (R364). -/
def sameCurt (a b : CurtMsg) : Bool :=
  decide (a.part = b.part) && decide (a.curtain = b.curtain) && decide (a.cast = b.cast) && decide (a.epoch = b.epoch)

/-- The head holds every ARRIVE of a set (R381). -/
def State.arrivesAll (s : State) (c : CurtSlice) : Bool :=
  decide (c.members ≤ (s.chain.arrives.filter (fun x => sameArrive x c)).length)

/-- A RELEASE of the cluster reaches this chain root: the chain curtain whose ARRIVEs are complete and wait for it is released,
in the list's epoch (R364). One that comes before the last local arrival is kept: it is applied after an arrival of the same
nanosecond (R365). -/
def State.clusterReleased (s : State) (m : CurtMsg) : State :=
  let hit := fun (c : CurtSlice) =>
    decide (c.part = m.part) && decide (c.curtain = m.curtain) && decide (c.uplink = some m.cast) && s.arrivesAll c
  if m.epoch ≠ (s.cast m.cast).epoch then s
  else
    match s.chain.arrives.find? hit with
    | some c =>
      let s := { s with chain := { s.chain with arrives := s.chain.arrives.filter (fun x => !(sameArrive x c)) } }
      s.releaseChain { c with kind := 2, payload := m.payload, src := s.chain.addr.getD 0 }
    | none => { s with eth := { s.eth with releases := (s.eth.releases.filter (fun x => decide (x.2 = s.clock.house))) ++ [(m, s.clock.house)] } }

/-- The cluster root counts an ARRIVE (R364): with one of every member it sends RELEASE to all of them. -/
def State.clusterCount (s : State) (m : CurtMsg) : State :=
  let l := s.cast m.cast
  if m.epoch ≠ l.epoch ∨ l.ethernet = false ∨ l.members.length ≤ m.src then s
  else
    let old := s.eth.arrives.filter (fun x => sameCurt x m)
    let all := if old.any (fun x => decide (x.src = m.src)) then old else old ++ [m]
    let rest := s.eth.arrives.filter (fun x => !(sameCurt x m))
    if l.members.length ≤ all.length then
      let pay := all.foldl (fun p x => p ||| x.payload) 0
      let r := { m with kind := 2, payload := pay, src := 0 }
      let s := { s with eth := { s.eth with arrives := rest } }
      let s := l.members.foldl (fun s a => if s.ownAddrs.contains a then s else s.ethSend 7 a 0 (curtMsgBytes r)) s
      s.clusterReleased r
    else { s with eth := { s.eth with arrives := rest ++ all } }

/-- A RELEASE of the cluster that came earlier in this nanosecond is applied now (R365). -/
def State.lateRelease (s : State) (p n u : Nat) : State :=
  let hit := fun (x : CurtMsg × Nat) =>
    decide (x.2 = s.clock.house) && decide (x.1.part = p) && decide (x.1.curtain = n) && decide (x.1.cast = u)
  match s.eth.releases.find? hit with
  | some x => State.clusterReleased { s with eth := { s.eth with releases := s.eth.releases.erase x } } x.1
  | none => s

/-- The head has an ARRIVE from every member (R381): it releases, or takes part in the cluster's release (R364). -/
def State.headComplete (s : State) (c : CurtSlice) (pay : Byte) : State :=
  match c.uplink with
  | none =>
    State.releaseChain { s with chain := { s.chain with arrives := s.chain.arrives.filter (fun x => !(sameArrive x c)) } }
      { c with kind := 2, payload := pay, src := s.chain.addr.getD 0 }
  | some u =>
    let l := s.cast u
    let m : CurtMsg :=
      { kind := 1, curtain := c.curtain, payload := pay, part := c.part, epoch := l.epoch, step := c.step, cast := u,
        src := (s.memberOf u).getD 0 }
    let root := l.members.getD 0 0
    if s.ownAddrs.contains root then s.clusterCount m
    else State.lateRelease (s.ethSend 7 root 0 (curtMsgBytes m)) c.part c.curtain u

/-- The head counts an ARRIVE once for each distinct SRC (R381); a stale epoch is discarded (R232). -/
def State.headCount (s : State) (c : CurtSlice) : State :=
  if c.epoch.toNat < (s.cast c.cast).epoch.toNat then s
  else
    let old := s.chain.arrives.filter (fun x => sameArrive x c)
    if old.any (fun x => decide (x.src = c.src)) then s
    else
      let s := { s with chain := { s.chain with arrives := s.chain.arrives ++ [c] } }
      if c.members ≤ old.length + 1 then s.headComplete c ((old ++ [c]).foldl (fun p x => p ||| x.payload) 0) else s

/-- This module's own ARRIVE of a curtain that has closed locally (R381). The head counts its own at once; a module
without an address never arrives anywhere. -/
def State.chainArrive (s : State) (p n ctx : Nat) (payload : Byte) (castId : Nat) : State :=
  let l := s.cast castId
  let c : CurtSlice :=
    { kind := 1, curtain := n, payload := payload, part := p, step := s.stepOf p ctx, epoch := l.epoch, cast := castId,
      members := l.members.length, uplink := l.uplink, src := s.chain.addr.getD 0, cseq := 0, cack := 0, tagOk := true }
  match s.chain.addr with
  | none => s
  | some _ => if s.chain.head then s.headCount c else s.sendSlice s.chain.headPort c

/-- The chain list of a curtain's ARRIVE: that of the LE_STEP that arrived at it, else the lowest list the module belongs
to (entry 23). -/
def State.curtainCast (s : State) (p n : Nat) : Nat :=
  match (s.link p).step with
  | some st => if st.curt = n then st.cast else 0
  | none => ((List.range 256).find? (fun g => !(s.cast g).ethernet && (s.memberOf g).isSome)).getD 0

/-- A curtain whose generation was complete before the last one's release closes with that release (R186): a chain curtain
is held again and its ARRIVE leaves, any other one is released. -/
def State.reclose (s : State) (p n : Nat) : State :=
  let c := s.curtain p n
  if c.held = true ∨ c.count = 0 ∨ c.arrived < c.count then s
  else if c.chain then
    (s.setCurtain p n { c with held := true }).chainArrive p n ((s.curCtx p).getD 0) c.acc (s.curtainCast p n)
  else s.releaseCurtain p n c.acc (s.crt.seq + 1) (.arrive p n c.acc 0 7 0) s.clock.house

end Sys2Proof.Machine
end

