-- ==== Sys2Proof/Machine/Operands.lean ====
section
/-!
DEFINITION. Machine/Operands.lean: operand forms: the fields of stagehand instructions and command words, register
operands, vector lanes and address-generator sequences (R71 to R77, R133, R135).
-/
namespace Sys2Proof.Machine

/-- A stagehand instruction word by its fields (Table 5.2). -/
structure ShFields where
  opc : Nat
  d : Nat
  a : Nat
  b : Nat
  p : Nat
  /-- IMM or OFF of 14 bits, sign-extended -/
  imm : Int
  /-- IMM of 19 bits, sign-extended -/
  imm19 : Int
  rnd : Nat
  fmt : Nat
deriving DecidableEq, Repr

def shFields (w : Word) : ShFields :=
  { opc := fld w 31 24, d := fld w 23 19, a := fld w 18 14, b := fld w 13 9, p := fld w 8 6,
    imm := signed 14 (fld w 13 0), imm19 := signed 19 (fld w 18 0), rnd := fld w 5 4, fmt := fld w 3 0 }

/-- Scalar, vector and predicate registers (R133): s0 reads 0, p0 reads all ones, neither takes a write. -/
def Stagehand.getS (h : Stagehand) (r : Nat) : Word := if r = 0 then 0 else sget 0 h.s r
def Stagehand.setS (h : Stagehand) (r : Nat) (v : Word) : Stagehand := if r = 0 then h else { h with s := sset 0 h.s r v }
def Stagehand.getV (h : Stagehand) (r : Nat) : BitVec 512 := sget 0 h.v r
def Stagehand.setV (h : Stagehand) (r : Nat) (x : BitVec 512) : Stagehand := { h with v := sset 0 h.v r x }
def Stagehand.getP (h : Stagehand) (r : Nat) : Word := if r = 0 then 0xFFFFFFFF else sget 0 h.p r
def Stagehand.setP (h : Stagehand) (r : Nat) (x : Word) : Stagehand := if r = 0 then h else { h with p := sset 0 h.p r x }

/-- Set sticky flags. -/
def Stagehand.flag (h : Stagehand) (f : StickyFlags) : Stagehand := { h with flags := h.flags ||| f }

/-- Lanes of a vector register (R133). -/
def lane16 (x : BitVec 512) (i : Nat) : BitVec 16 := BitVec.ofNat 16 (x.toNat >>> (16 * i))
def lane32 (x : BitVec 512) (i : Nat) : Word := BitVec.ofNat 32 (x.toNat >>> (32 * i))
def packNat (w : Nat) : List Nat → Nat
  | [] => 0
  | v :: vs => v % 2 ^ w + 2 ^ w * packNat w vs
def vec16 (l : List (BitVec 16)) : BitVec 512 := BitVec.ofNat 512 (packNat 16 (l.map BitVec.toNat))
def vec32 (l : List Word) : BitVec 512 := BitVec.ofNat 512 (packNat 32 (l.map BitVec.toNat))
def vecBytes (l : List Byte) : BitVec 512 := BitVec.ofNat 512 (leNat l)
def bytesOfVec (n : Nat) (x : BitVec 512) : List Byte := toLE n x.toNat

/-- A lane-wise BF16 result under a predicate: lanes whose bit is 0 keep their old value and set no flag (R136). -/
def mapLanes16 (pred : Word) (old : BitVec 512) (f : Nat → BitVec 16 × StickyFlags) : BitVec 512 × StickyFlags :=
  let rs := (List.range 32).map (fun i => if pred.getLsbD i then f i else (lane16 old i, 0))
  (vec16 (rs.map Prod.fst), rs.foldl (fun a r => a ||| r.2) 0)

/-- A lane-wise INT32 result; lane i is governed by predicate bit 2i (R133). -/
def mapLanes32 (pred : Word) (old : BitVec 512) (f : Nat → Word) : BitVec 512 :=
  vec32 ((List.range 16).map (fun i => if pred.getLsbD (2 * i) then f i else lane32 old i))

/-- Command word 0 (Table 3.1). -/
structure CmdHead where
  opcode : Nat
  words : Nat
  waitFlag : Nat
  wait : Bool
  setFlag : Nat
  set : Bool
  arrays : Nat
deriving DecidableEq, Repr

def cmdHead (w : Word) : CmdHead :=
  { opcode := fld w 31 26, words := fld w 25 23, waitFlag := fld w 22 15, wait := bit w 14, setFlag := fld w 13 6,
    set := bit w 5, arrays := fld w 4 3 }

/-- Word i of a command, zero where the packet is shorter. -/
def cword (ws : List Word) (i : Nat) : Word := ws.getD i 0

def QCmd.head (c : QCmd) : CmdHead := cmdHead (cword c.words 0)
def Started.head (c : Started) : CmdHead := cmdHead (cword c.words 0)

/-- A scoreboard range: first 64-byte unit and length in units (Table 3.3). -/
def rangeOf (w : Word) : Nat × Nat := (fld w 31 14, fld w 13 0)

/-- Whether a command declares ranges: every one but STN_NOP, STN_AGEN and SE_AGEN (R72, R304). -/
def declares (opcode : Nat) : Bool := !(opcode = 0x01 || opcode = 0x02 || opcode = 0x40)

/-- The opcode of a command of queue q of a bay. The OPCODE field of word 0 has six bits (Table 3.1), and the opcodes of
the stream engine are 0x40 to 0x44 (Table 10.5): a stream queue takes the field as their low six bits (DEDUCED, entry 36). -/
def bayOp (q : Nat) (ws : List Word) : Nat := (cmdHead (cword ws 0)).opcode + (if 5 ≤ q then 0x40 else 0)

/-- Read and write range of the words of a command of queue q; length 0 is no range. -/
def rangesOf (q : Nat) (ws : List Word) : (Nat × Nat) × (Nat × Nat) :=
  if declares (bayOp q ws) then (rangeOf (cword ws 1), rangeOf (cword ws 2)) else ((0, 0), (0, 0))

/-- Two ranges overlap. -/
def overlaps (a b : Nat × Nat) : Bool :=
  decide (0 < a.2) && decide (0 < b.2) && decide (a.1 < b.1 + b.2) && decide (b.1 < a.1 + a.2)

/-- Scoreboard entries a command needs (R167). -/
def entriesOf (q : Nat) (ws : List Word) : Nat :=
  let r := rangesOf q ws
  (if 0 < r.1.2 then 1 else 0) + (if 0 < r.2.2 then 1 else 0)

/-- Commands that hold scoreboard entries, by queue and words: the started ones, and those that completed in the present
cycle (R167). -/
def Bay.holders (b : Bay) : List (Nat × List Word) :=
  b.started.map (fun c => (c.queue, c.words)) ++
    (b.freeing.filter (fun x => decide (b.clk.cyc ≤ x.2.2))).map (fun x => (x.1, x.2.1))

/-- Entries of the scoreboard in use. -/
def Bay.entriesUsed (b : Bay) : Nat := b.holders.foldl (fun n c => n + entriesOf c.1 c.2) 0

/-- The ranges of a command conflict with those of another (R167). -/
def rangesConflict (k : Nat) (ws : List Word) (j : Nat) (vs : List Word) : Bool :=
  let r := rangesOf k ws
  let q := rangesOf j vs
  overlaps r.2 q.1 || overlaps r.2 q.2 || overlaps r.1 q.2

/-- The scoreboard allows the ranges of a command (R167): a command that has completed conflicts with none, and its
entries are free from the next cycle. -/
def Bay.scoreboardOk (b : Bay) (k : Nat) (ws : List Word) : Bool :=
  b.started.all (fun c => !(rangesConflict k ws c.queue c.words)) && decide (b.entriesUsed + entriesOf k ws ≤ 32)

/-- The number of addresses a slot produces (R76). -/
def AgSlot.total (t : AgSlot) : Nat := t.counts.foldl (· * ·) 1

/-- Sum of index times stride over the levels, the index of each level taken from a running address number. -/
def agSum : List Nat → List Int → Nat → Int
  | c :: cs, d :: ds, n => ((n % c : Nat) : Int) * d + agSum cs ds (n / c)
  | _, _, _ => 0

/-- The n-th address of a slot, wrapped modulo the width of its base (R76, R282); none beyond its last. -/
def AgSlot.addr (t : AgSlot) (width n : Nat) : Option Nat :=
  if n < t.total then some (((t.base : Int) + agSum t.counts t.strides n) % (2 ^ width : Nat)).toNat else none

/-- The first n addresses a slot produces, and whether it produces that many. -/
def AgSlot.take (t : AgSlot) (width n : Nat) : List Nat × Bool :=
  ((List.range (min n t.total)).filterMap (t.addr width), decide (n ≤ t.total))

/-- An address from the two levels STN_CARRY uses (R85). -/
def AgSlot.level01 (t : AgSlot) (i j : Nat) : Nat :=
  (((t.base : Int) + (i : Int) * t.strides.getD 0 0 + (j : Int) * t.strides.getD 1 0) % (2 ^ 24 : Nat)).toNat

/-- One half of a slot written (Table 3.5, Table 10.x of the stream engine): first: base and levels 0 to 2. -/
def AgSlot.writeHalf (t : AgSlot) (second : Bool) (base : Nat) (cs : List Nat) (ds : List Int) : AgSlot :=
  if second then { t with counts := t.counts.take 3 ++ cs, strides := t.strides.take 3 ++ ds }
  else { base := base, counts := cs ++ t.counts.drop 3, strides := ds ++ t.strides.drop 3 }

end Sys2Proof.Machine
end

