-- ==== Sys2Proof/Machine/ShIssue.lean ====
section
/-!
DEFINITION. Machine/ShIssue.lean: how a stagehand issues one instruction: the checks at issue in their order (R136),
the program counter and loops (R137), faults (R152).
-/
namespace Sys2Proof.Machine

/-- The opcodes of Table 5.3. -/
def shListed (opc : Nat) : Bool :=
  (0x01 ≤ opc && opc ≤ 0x0B) || (0x10 ≤ opc && opc ≤ 0x18) || (0x20 ≤ opc && opc ≤ 0x28) || opc == 0x2F ||
  (0x30 ≤ opc && opc ≤ 0x4A) || (0x4C ≤ opc && opc ≤ 0x53) || (0x58 ≤ opc && opc ≤ 0x5C) ||
  (0x60 ≤ opc && opc ≤ 0x64) || (0x68 ≤ opc && opc ≤ 0x6A) || opc == 0x6C || opc == 0x70 || opc == 0x71 ||
  (0x78 ≤ opc && opc ≤ 0x7B)

/-- Which of D, A and B name a vector or predicate register (Table 5.3). -/
def shNarrowFields (opc : Nat) : Bool × Bool × Bool :=
  if opc = 0x38 ∨ opc = 0x39 ∨ opc = 0x3A ∨ opc = 0x3B then (true, false, false)
  else if opc = 0x3C ∨ opc = 0x3D then (true, true, false)
  else if 0x40 ≤ opc ∧ opc ≤ 0x45 then (true, true, true)
  else if 0x46 ≤ opc ∧ opc ≤ 0x4A then (true, true, false)
  else if 0x4C ≤ opc ∧ opc ≤ 0x4F then (true, true, true)
  else if opc = 0x50 ∨ opc = 0x51 then (false, true, false)
  else if opc = 0x52 then (true, false, false)
  else if opc = 0x53 then (false, true, false)
  else if 0x58 ≤ opc ∧ opc ≤ 0x5A then (true, true, true)
  else if opc = 0x5B then (true, true, false)
  else if opc = 0x5C then (true, false, false)
  else if opc = 0x60 ∨ opc = 0x61 then (true, true, true)
  else if opc = 0x62 then (true, true, false)
  else if opc = 0x63 then (true, false, false)
  else if opc = 0x64 then (false, true, false)
  else if 0x68 ≤ opc ∧ opc ≤ 0x6A then (true, true, false)
  else if opc = 0x6C then (true, false, false)
  else (false, false, false)

/-- R and C format instructions whose P must be 0 (R136). -/
def shNoPred (opc : Nat) : Bool :=
  (0x01 ≤ opc && opc ≤ 0x0B) || opc == 0x2F || opc == 0x3C || opc == 0x3D || opc == 0x53 ||
  (0x60 ≤ opc && opc ≤ 0x64) || (0x68 ≤ opc && opc ≤ 0x6A) || opc == 0x6C || opc == 0x70 || opc == 0x71 || opc == 0x7B

/-- The instruction at pc lies in the body of the loop in progress (R137). -/
def Stagehand.inLoop (h : Stagehand) : Bool :=
  match h.loop with
  | some l => decide (l.first ≤ h.pc ∧ h.pc ≤ l.last)
  | none => false

/-- Registers a stagehand instruction names. -/
inductive ShReg where
  | s (k : Nat)
  | v (k : Nat)
  | p (k : Nat)
deriving DecidableEq, Repr

/-- The registers an instruction reads (Tables 5.2 and 5.3, R146). -/
def shReads (f : ShFields) : List ShReg :=
  let o := f.opc
  let rnd := if f.rnd = 2 then [ShReg.s 29, .s 30, .s 31] else []
  if 0x01 ≤ o ∧ o ≤ 0x0B then [.s f.a, .s f.b]
  else if (0x10 ≤ o ∧ o ≤ 0x17) ∨ o = 0x27 ∨ o = 0x28 ∨ (0x30 ≤ o ∧ o ≤ 0x34) ∨ o = 0x38 ∨ o = 0x3A ∨ o = 0x3E ∨ o = 0x63 ∨ o = 0x71
  then [.s f.a]
  else if (0x20 ≤ o ∧ o ≤ 0x25) ∨ (0x35 ≤ o ∧ o ≤ 0x37) then [.s f.d, .s f.a]
  else if o = 0x39 ∨ o = 0x3B then [.s f.a, .v f.d]
  else if o = 0x3C then [.s f.b, .v f.a]
  else if o = 0x3D then [.s f.b, .v f.a, .v f.d]
  else if o = 0x3F then [.s f.a, .v f.d, .v (f.d + 1), .v (f.d + 2), .v (f.d + 3)]
  else if (0x40 ≤ o ∧ o ≤ 0x45) ∨ (0x4C ≤ o ∧ o ≤ 0x4F) ∨ (0x58 ≤ o ∧ o ≤ 0x5A) then [.v f.a, .v f.b, .p f.p]
  else if 0x46 ≤ o ∧ o ≤ 0x4A then [.v f.a, .p f.p]
  else if o = 0x50 ∨ o = 0x51 ∨ o = 0x53 ∨ o = 0x5B then [.v f.a, .s f.b, .p f.p]
  else if o = 0x52 ∨ o = 0x5C then [.s f.a, .p f.p]
  else if o = 0x60 ∨ o = 0x61 then [.p f.a, .p f.b]
  else if o = 0x62 ∨ o = 0x64 then [.p f.a]
  else if o = 0x68 ∨ o = 0x69 then [.v f.a, .s f.b] ++ rnd
  else if o = 0x6A then [.v f.a] ++ rnd
  else if o = 0x6C then [.s 29, .s 30, .s 31]
  else []

/-- The registers an instruction writes (Table 5.3, R144). -/
def shDests (f : ShFields) : List ShReg :=
  let o := f.opc
  if (0x01 ≤ o ∧ o ≤ 0x18) ∨ o = 0x26 ∨ o = 0x27 ∨ (0x30 ≤ o ∧ o ≤ 0x34) ∨ o = 0x50 ∨ o = 0x51 ∨ o = 0x53 ∨ o = 0x64 ∨ o = 0x70
  then [.s f.d]
  else if o = 0x38 ∨ o = 0x3A ∨ o = 0x3C ∨ (0x40 ≤ o ∧ o ≤ 0x4A) ∨ o = 0x4F ∨ o = 0x52 ∨ (0x58 ≤ o ∧ o ≤ 0x5C) ∨ o = 0x68 ∨
    o = 0x6A ∨ o = 0x6C then [.v f.d]
  else if o = 0x3E then [.v f.d, .v (f.d + 1), .v (f.d + 2), .v (f.d + 3)]
  else if (0x4C ≤ o ∧ o ≤ 0x4E) ∨ (0x60 ≤ o ∧ o ≤ 0x63) then [.p f.d]
  else if o = 0x69 then (if f.fmt = 6 ∨ f.fmt = 7 ∨ f.fmt = 9 then [.v f.d] else [.v f.d, .s f.b])
  else []

/-- The contract latency of an instruction that reaches no memory, in cycles from issue to the write (Table 5.3). -/
def shLatency (opc : Nat) : Nat :=
  if opc = 0x0B then 3
  else if opc = 0x26 ∨ opc = 0x27 ∨ (0x4C ≤ opc ∧ opc ≤ 0x4E) ∨ (0x58 ≤ opc ∧ opc ≤ 0x5C) then 2
  else if (0x40 ≤ opc ∧ opc ≤ 0x47) ∨ opc = 0x51 ∨ (0x68 ≤ opc ∧ opc ≤ 0x6A) then 4
  else if 0x48 ≤ opc ∧ opc ≤ 0x4A then 12
  else if opc = 0x50 then 6
  else if opc = 0x6C then 8
  else 1

/-- The narrow accesses a memory instruction makes, one in each cycle that it holds the port (Table 5.4). -/
def shPort (opc : Nat) : Nat :=
  if 0x30 ≤ opc ∧ opc ≤ 0x37 then 1
  else if opc = 0x38 ∨ opc = 0x39 then 8
  else if opc = 0x3A ∨ opc = 0x3B then 4
  else if opc = 0x3C ∨ opc = 0x3D then 16
  else 0

/-- One result is written: its registers, then its flags (R134, R145). -/
def Stagehand.write (h : Stagehand) (w : ShWrite) : Stagehand :=
  let h := w.s.foldl (fun h r => h.setS r.1 r.2) h
  let h := w.v.foldl (fun h r => h.setV r.1 r.2) h
  let h := w.p.foldl (fun h r => h.setP r.1 r.2) h
  { h with flags := (h.flags &&& ~~~w.clear) ||| w.flags }

/-- The results due by a cycle are written, in the order of their cycles and in program order within one (R134, R145). -/
def Stagehand.landed (h : Stagehand) (k : Nat) : Stagehand :=
  let g := (h.flight.takeWhile (fun w => decide (w.due ≤ k))).foldl Stagehand.write h
  { g with flight := h.flight.dropWhile (fun w => decide (w.due ≤ k)) }

/-- Every result still to be written is written. -/
def Stagehand.settle (h : Stagehand) : Stagehand := { h.flight.foldl Stagehand.write h with flight := [] }

/-- A result takes its place among those still to be written, behind the earlier instructions' of its cycle. -/
def insertWrite (w : ShWrite) : List ShWrite → List ShWrite
  | [] => [w]
  | x :: xs => if x.due ≤ w.due then x :: insertWrite w xs else w :: x :: xs

/-- The instruction that issued in the cycle before h.issue writes what upd gives, lat cycles after its issue; what it
reads, it has read at issue (R134). -/
def Stagehand.put (h : Stagehand) (f : ShFields) (lat : Nat) (upd : Stagehand → Stagehand) : Stagehand :=
  let g := upd { h with flags := 0 }
  let w : ShWrite :=
    { due := h.issue - 1 + lat
      s := (shDests f).filterMap (fun r => match r with | .s k => some (k, g.getS k) | _ => none)
      v := (shDests f).filterMap (fun r => match r with | .v k => some (k, g.getV k) | _ => none)
      p := (shDests f).filterMap (fun r => match r with | .p k => some (k, g.getP k) | _ => none)
      flags := g.flags, clear := 0, load := false, store := false, words := [], ask := 0, age := 0 }
  { h with flight := insertWrite w h.flight }

/-- The write that a memory instruction adds: its narrow accesses from its issue on, a load with its registers, a store
with none (R138). -/
def Stagehand.access (h : Stagehand) (f : ShFields) (lat : Nat) (banks : List Nat) (upd : Option (Stagehand → Stagehand)) :
    Stagehand :=
  let k := h.issue - 1
  let g := (upd.getD id) h
  let w : ShWrite :=
    { due := k + lat
      s := (shDests f).filterMap (fun r => match r with | .s j => some (j, g.getS j) | _ => none)
      v := (shDests f).filterMap (fun r => match r with | .v j => some (j, g.getV j) | _ => none)
      p := [], flags := 0, clear := 0, load := upd.isSome, store := upd.isNone, words := banks, ask := k, age := k }
  { h with flight := insertWrite w h.flight }

/-- The condition of a branch opcode on its two operands (Table 5.3). -/
def shBranch (opc : Nat) (a b : Word) : Bool :=
  if opc = 0x20 then decide (a = b)
  else if opc = 0x21 then decide (a ≠ b)
  else if opc = 0x22 then a.slt b
  else if opc = 0x23 then !(a.slt b)
  else if opc = 0x24 then a.ult b
  else !(a.ult b)

/-- The first code of the checks at issue, in the order of R136; none when the instruction issues. -/
def shCheck (h : Stagehand) (f : ShFields) : Option Nat :=
  let n := shNarrowFields f.opc
  let wide := (n.1 && decide (7 < f.d)) || (n.2.1 && decide (7 < f.a)) || (n.2.2 && decide (7 < f.b))
  let conv := f.opc == 0x68 || f.opc == 0x69 || f.opc == 0x6A
  let loopBad := f.opc == 0x28 && (h.inLoop || decide (f.imm < 1) || decide (256 < f.imm))
  let jumpBad := h.inLoop && (f.opc == 0x26 || f.opc == 0x27 ||
    (decide (0x20 ≤ f.opc) && decide (f.opc ≤ 0x25) && shBranch f.opc (h.getS f.d) (h.getS f.a)))
  let gridBad := (f.opc == 0x3E || f.opc == 0x3F) && !(f.d == 0 || f.d == 4)
  if wide || (conv && f.rnd == 3) || loopBad || jumpBad || gridBad then some fltOpcode
  else if (shNoPred f.opc && f.p != 0) || ((f.opc == 0x68 || f.opc == 0x69) && (f.fmt == 8 || decide (10 ≤ f.fmt))) ||
      (f.opc == 0x6A && decide (3 < f.fmt)) then some fltOperandCase
  else if ((f.opc == 0x78 || f.opc == 0x79) && (decide (f.imm < 0) || decide (63 < f.imm))) ||
      (f.opc == 0x7A && (decide (f.imm < 0) || decide (15 < f.imm))) then some fltRange
  else none

/-- The program counter after an instruction that does not branch, with the loop of R137. -/
def Stagehand.nextPc (h : Stagehand) : Stagehand :=
  match h.loop with
  | some l =>
    if h.pc = l.last then
      if 1 < l.left then { h with pc := l.first, loop := some { l with left := l.left - 1 } }
      else { h with pc := h.pc + 1, loop := none }
    else { h with pc := h.pc + 1 }
  | none => { h with pc := h.pc + 1 }

/-- A stopped stagehand: loads and RGETs in flight are discarded, stores and RPUTs already issued complete (R150). -/
def Stagehand.halted (h : Stagehand) : Stagehand :=
  { h with running := false, wait := .none, getsOut := [], flight := h.flight.filter (fun w => !w.load) }

/-- The data of the RGETs of some stagehands are discarded when they come (R150, R153). -/
def State.voidGets (s : State) (hit : Nat → Bool) : State :=
  let mine := fun (f : Flit) =>
    (decide (f.kind = 1) && hit f.src) || (decide (f.kind = 2) && decide (f.src < 6144) && hit (f.dest / 512 % 6144))
  { s with flits := s.flits.map (fun f => if mine f then { f with void := true } else f) }

/-- SH_STOP halts a stagehand of its set that runs (R150). -/
def State.stopHand (s : State) (l : Nat) : State :=
  if (s.hand l).running then (s.setHand l (s.hand l).halted).voidGets (fun k => decide (k = l)) else s

/-- A stagehand runs for a context in its partition. -/
def Stagehand.runsFor (h : Stagehand) (p c : Nat) : Bool := h.running && decide (h.part = p) && decide (h.ctx = c)

/-- Stop the stagehands that run for a context in its partition. -/
def State.stopHands (s : State) (p c : Nat) : State :=
  let stop := fun (_ : Nat) (h : Stagehand) => if h.runsFor p c then h.halted else h
  State.voidGets { s with stagehands := smap Stagehand.idle stop s.stagehands } (fun l => (s.hand l).runsFor p c)

/-- The SH_START commands whose stagehands were stopped complete without their flags (R152). -/
def State.unflagSets (s : State) (p c : Nat) : State :=
  let hit := fun (l : Nat) => (s.hand l).runsFor p c
  let mark := fun (x : Started) =>
    if decide (x.queue = 4) && decide ((cmdHead (cword x.words 0)).opcode = 0x21) && decide (x.part = p) && decide (x.ctx = c) && x.set.any hit
    then { x with noFlag := true } else x
  { s with bays := smap Bay.reset (fun _ b => { b with started := b.started.map mark }) s.bays }

/-- The fault packet of a stagehand (R152, Table 9.14). -/
def State.handFault (s : State) (l reason addr : Nat) : State :=
  let h := s.hand l
  s.sendFault reason h.part h.ctx 2 (handBay l) l h.bookoff addr [h.pc % 256, h.pc / 256 % 256]

/-- An instruction waits at issue while a register it reads or writes is still to be written, by an earlier instruction
or by an RGET (R134, R140). -/
def shHazard (h : Stagehand) (f : ShFields) : Bool :=
  let pending := fun (r : ShReg) =>
    match r with
    | .s k => k ≠ 0 && h.flight.any (fun w => w.s.any (fun x => decide (x.1 = k)))
    | .v k => h.flight.any (fun w => w.v.any (fun x => decide (x.1 = k))) || h.getsOut.any (fun d => decide (d ≤ k ∧ k ≤ d + 3))
    | .p k => k ≠ 0 && h.flight.any (fun w => w.p.any (fun x => decide (x.1 = k)))
  (shReads f ++ shDests f).any pending

/-- The stagehand's scratchpad port is still held by an earlier memory instruction in a cycle (R134, R138). -/
def Stagehand.portBusy (h : Stagehand) (k : Nat) : Bool :=
  h.flight.any (fun w => !w.words.isEmpty && decide (k < w.ask + w.words.length))

/-- The word at a stagehand's pc. -/
def Stagehand.word (h : Stagehand) : ShFields := shFields (sget 0 h.istore h.pc)

/-- Every earlier store, VSCATTER and RPUT has completed (R138, R151). -/
def Stagehand.settled (h : Stagehand) : Bool := decide (h.putsOut = 0) && h.flight.all (fun w => !w.store)

/-- What keeps an instruction from issuing in a cycle (R134, R151): a register still to be written, the port, or for SETF
and CURT an earlier store or RPUT. -/
def Stagehand.stalls (h : Stagehand) (f : ShFields) (k : Nat) : Bool :=
  shHazard h f || (decide (0 < shPort f.opc) && h.portBusy k) || (decide (f.opc = 0x79 ∨ f.opc = 0x7A) && !h.settled)

/-- The cycle in which a stagehand issues its next instruction in the present nanosecond: the first one in which nothing
stalls it, one instruction in each (R134). -/
def Stagehand.issueCycle (h : Stagehand) (c : BayClk) : Nat :=
  let k := max h.issue (c.cyc + 1 - max 1 c.adv)
  if (h.landed k).stalls h.word k then max k c.cyc else k

/-- The stagehands that another's fault stops could issue in the same nanosecond (R152). -/
def State.cutHands (s : State) (p c : Nat) : State :=
  let cut := fun (l : Nat) (h : Stagehand) =>
    let k := h.issueCycle (s.bay (handBay l)).clk
    if h.runsFor p c && decide (h.wait = .none) && decide (k ≤ (s.bay (handBay l)).clk.cyc) && !((h.landed k).stalls (h.landed k).word k)
    then { h with cut := some s.clock.uptime } else h
  { s with stagehands := smap Stagehand.idle cut s.stagehands }

/-- An instruction that faults (R152): the record's packet, every stagehand of the context stopped in the same cycle. -/
def State.shFault (s : State) (l reason addr : Nat) : State :=
  let h := s.hand l
  (((s.unflagSets h.part h.ctx).cutHands h.part h.ctx).stopHands h.part h.ctx).handFault l reason addr

/-- What an instruction does after its checks at issue: the next state, a wait at issue, or a fault at execution with
its reason, its address and the state to fault in. -/
inductive ShRes where
  | done (s : State)
  | wait
  | fault (s : State) (reason addr : Nat)
deriving DecidableEq, Repr

/-- Whether the stagehand can issue: running, and waiting for nothing at issue (R134). -/
def Stagehand.ready (h : Stagehand) : Bool := h.running && decide (h.wait = .none)

/-- What the word at the pc of stagehand l comes to in cycle k, opc being the opcode of the command (R136): none when the
word has another listed opcode or waits at issue; else the next state, or a fault with its reason and address and the
state to fault in. Whatever the command, a pc outside the store and an unlisted opcode fault (R136, R137). -/
def shOutcome (opc : Nat) (body : ShFields → State → ShRes) (l k : Nat) (s : State) : Option ShRes :=
  let h := (s.hand l).landed k
  let s' := s.setHand l { h with issue := k + 1 }
  if 1023 < h.pc then some (.fault s' fltRange 0)
  else
    let f := h.word
    if f.opc ≠ opc then (if shListed f.opc then none else some (.fault s' fltOpcode 0))
    else if h.stalls f k then none
    else
      match shCheck h f with
      | some r => some (.fault s' r 0)
      | none => match body f s' with | .wait => none | r => some r

/-- Stagehand l issues the word at its pc (R134), at most one in each cycle of its bay. A stagehand that another's fault
has stopped in this very cycle still reports a fault of its own instruction (R152). -/
def shIssue (opc : Nat) (body : ShFields → State → ShRes) (l : Nat) (s : State) : Out :=
  let h := s.hand l
  let k := h.issueCycle (s.bay (handBay l)).clk
  if (s.bay (handBay l)).clk.cyc < k then idle s
  else if h.ready then
    match shOutcome opc body l k s with
    | some (.done s') => .next s'
    | some (.fault s' r a) => .next (s'.shFault l r a)
    | _ => idle s
  else if h.cut = some s.clock.uptime then
    match shOutcome opc body l k s with
    | some (.fault _ r a) => .next (State.handFault (s.setHand l { h with cut := none }) l r a)
    | _ => idle s
  else idle s

/-- An instruction that only changes its stagehand's registers and moves on: its result is written at its contract
latency (R134, Table 5.3). -/
def shReg (opc : Nat) (upd : ShFields → Stagehand → Stagehand) (l : Nat) (s : State) : Out :=
  shIssue opc (fun f s => .done (s.setHand l (((s.hand l).put f (shLatency opc) (upd f)).nextPc))) l s

end Sys2Proof.Machine
end

