-- ==== Sys2Proof/Machine/CueCore.lean ====
section
/-!
DEFINITION. Machine/CueCore.lean: call-sheet entries as a cue processor holds them, retirement, its faults and reports,
readiness of contexts and the switch between them (R220, R273, R280, R281, R430).
-/
namespace Sys2Proof.Machine

/-- Fields of a call-sheet entry (Table 9.8). -/
def CsEntry.num (e : CsEntry) (off n : Nat) : Nat := leNat ((e.bytes.drop off).take n)
def CsEntry.kind (e : CsEntry) : Nat := e.num 0 1
def CsEntry.contract (e : CsEntry) : Nat := e.num 1 1
def CsEntry.phys (e : CsEntry) : Bool := (e.num 2 2).testBit 15
def CsEntry.cls (e : CsEntry) : Nat := e.num 2 2 / 4096 % 8
def CsEntry.bayF (e : CsEntry) : Nat := e.num 2 2 / 64 % 64
def CsEntry.idx (e : CsEntry) : Nat := e.num 2 2 / 4 % 16
def CsEntry.que (e : CsEntry) : Nat := e.num 2 2 % 4
def CsEntry.bookoff (e : CsEntry) : Word := BitVec.ofNat 32 (e.num 4 4)
def CsEntry.arg (e : CsEntry) : Nat := e.num 8 4
def CsEntry.batchAddr (e : CsEntry) : Nat := e.num 16 6
/-- The eight words of a 32-byte packet slot. -/
def slotWords (bs : List Byte) : List Word := (List.range 8).map (fun i => BitVec.ofNat 32 (leNat ((bs.drop (4 * i)).take 4)))
def CsEntry.packet (e : CsEntry) : List Word := slotWords (e.bytes.drop 32)

/-- Partition of a cue processor: one stands in each field (Table 9.6). -/
def State.partOfCp (s : State) (n : Nat) : Nat := partOfField s.shape n

/-- A context is stopped for its snapshot (R434). -/
def State.stopped (s : State) (p c : Nat) : Bool :=
  decide (s.inter.phase = 2) && decide (s.inter.part = p) && decide (s.inter.ctx = c)

/-- The context that a cue processor works for: switched in, running or stopping at a boundary, and its partition not
stopped by an intermission or fenced by a reset (R279, R422, R434). -/
def State.cpCtx (s : State) (n : Nat) : Option Nat :=
  let p := s.partOfCp n
  match s.curCtx p with
  | some c =>
    let st := (s.ctx p c).st
    if decide (st = 4 ∨ st = 5) && !(s.stopped p c) && !(s.partFenced p) && decide (s.shape ≠ 0) then some c
    else none
  | none => none

/-- Entries of a context's ring in a cue processor, and its base (Table 9.16). -/
def State.ringSize (s : State) (n c : Nat) : Nat := (s.reg (aCp n (0x100C + 0x40 * c))).toNat
def State.ringBase (s : State) (n c : Nat) : Nat :=
  (s.reg (aCp n (0x1004 + 0x40 * c))).toNat + (s.reg (aCp n (0x1008 + 0x40 * c))).toNat % 65536 * 2 ^ 32

/-- Set CP_RDPTR of a context. -/
def State.setRdptr (s : State) (p c n v : Nat) : State :=
  let x := s.ctx p c
  s.setCtx p c { x with rdptr := sset 0 x.rdptr n v }

/-- The oldest entry retires (Table 9.9); the next in the ring is the oldest now. -/
def State.cpRetire (s : State) (n : Nat) : State :=
  let y := s.cp n
  match y.fetched with
  | e :: rest =>
    let s := s.setCp n { y with fetched := rest, wait := .none, batchPos := 0, granted := false, registered := false }
    let p := s.partOfCp n
    (match s.curCtx p with
     | some c => s.setRdptr p c n (if s.ringSize n c = 0 then 0 else (e.index + 1) % s.ringSize n c)
     | none => s)
  | [] => s

/-- The packet or event that a cue processor's entry waits for has come to its place. -/
def State.cpDelivered (s : State) (n : Nat) : State :=
  let y := s.cp n
  match y.fetched with
  | e :: _ =>
    if y.registered then
      if e.kind = 2 ∧ y.batchPos + 1 < e.arg then
        s.setCp n { y with batchPos := y.batchPos + 1, registered := false, granted := false }
      else s.cpRetire n
    else s
  | [] => s

/-- A doorbell of channels 0 to 7 and 12 to 15 enters its crossing; doorbells that merge set DB_OVR (R398). -/
def State.ringMail (s : State) (n : Nat) : State :=
  if 8 ≤ n ∧ n ≤ 11 then s
  else
    let m := s.mail n
    if m.doorbell then s.setMail n { m with dbOvr := true } else s.setMail n { m with doorbell := true }

/-- Sixteen words that the spec gives no layout for (entry 22). -/
def State.freeWords (s : State) : Nat → State × List Word
  | 0 => (s, [])
  | n + 1 =>
    let w := Config.freeValue 32 s.free
    let r := State.freeWords { s with free := s.free + 1 } n
    (r.1, w :: r.2)

/-- A cue processor pushes an entry to Yemir through its channel; one that is refused is kept and pushed again
(R397, R399). -/
def State.cpReport (s : State) (n : Nat) : State :=
  let (s, e) := s.freeWords 16
  let y := s.cp n
  if y.mbxRetry.isEmpty then
    match s.mbxPush n e with
    | (s', true) => s'.ringMail n
    | (s', false) => if s.mbxOn then s'.setCp n { y with mbxRetry := [e], mbxAt := s.clock.house } else s'
  else s.setCp n { y with mbxRetry := y.mbxRetry ++ [e] }

/-- A cue processor faults at its oldest entry and halts (R273, R274). -/
def State.cpFault (s : State) (n reason : Nat) : State :=
  let y := s.cp n
  let p := s.partOfCp n
  let c := (s.curCtx p).getD 0
  let e := y.fetched.head?
  let s := s.setCp n { y with halted := true }
  s.sendFault reason p c 6 0xFF n (e.elim 0xFFFFFFFF CsEntry.bookoff) (e.elim 0 CsEntry.addr)
    (e.elim [] (fun e => [e.num 0 1, e.num 1 1, e.num 2 1, e.num 3 1]))

/-- A fetch at an address fails: the cue processor halts (R273). -/
def State.cpFetchFault (s : State) (n reason addr : Nat) : State :=
  let p := s.partOfCp n
  let s := s.setCp n { s.cp n with halted := true }
  s.sendFault reason p ((s.curCtx p).getD 0) 6 0xFF n 0xFFFFFFFF addr []

/-- Credit of a context, equal in every cue processor until passes start. -/
def Context.creditOf (x : Context) (cp : Nat) : Nat := sget 0 x.credit cp
def State.hasCredit (s : State) (p c : Nat) : Bool := decide (0 < (s.ctx p c).creditOf (leadCp s.shape p))

/-- FLT_ISOLATE restricts a partition to one context (R430). -/
def State.isolatedOut (s : State) (p c : Nat) : Bool :=
  let w := s.reg (aFlt 0x2018)
  bit w 31 && decide (fld w 5 4 = p) && decide (fld w 3 0 ≠ c)

/-- A context is ready (R280): started, stopping at its next boundary or not (R279), and holding credit or in the middle
of a pass. A dress run waits for the end of its parent's step (R220). -/
def State.ctxReady (s : State) (p c : Nat) : Bool :=
  let x := s.ctx p c
  decide (3 ≤ x.st ∧ x.st ≤ 5) && (s.hasCredit p c || x.midPass) && !(s.isolatedOut p c) &&
    !(x.dress && (s.ctx p x.parent).midPass)

/-- The first ready context after c, wrapping from 15 to 0. -/
def State.nextReady (s : State) (p c : Nat) : Option Nat :=
  (((List.range 15).map (fun i => (c + 1 + i) % 16)).find? (s.ctxReady p ·))

/-- The first ready dress run of a context (R220). -/
def State.dressOf (s : State) (p c : Nat) : Option Nat :=
  ((List.range 15).map (fun i => (c + 1 + i) % 16)).find? (fun d =>
    (s.ctx p d).dress && decide ((s.ctx p d).parent = c) && s.ctxReady p d)

/-- The context after the one switched in: a parent that was rung before its dress run, a ready dress run before its
parent's next step (R220), else the ready one after it (R280). -/
def State.nextCtx (s : State) (p c : Nat) : Option Nat :=
  let x := s.ctx p c
  if x.dress && (s.part p).parentRang && s.ctxReady p x.parent then some x.parent
  else if !x.dress && !x.midPass && (s.dressOf p c).isSome then s.dressOf p c
  else s.nextReady p c

/-- The buckets of a context go, with its landed parts; the other parts follow their buckets to their new places. -/
def LinkEng.dropBuckets (l : LinkEng) (c : Nat) : LinkEng :=
  let keep := fun (b : Bucket) => decide (b.ctx ≠ c)
  let land := (l.landing.filter (fun x => decide (x.ctx ≠ c))).map
    (fun x => { x with bucket := ((l.buckets.take x.bucket).filter keep).length })
  { l with buckets := l.buckets.filter keep, landing := land }

/-- What belongs to the running context is saved with it (R70, R145, R281). -/
def State.saveCtx (s : State) (p c : Nat) : State :=
  let x := s.ctx p c
  let stn := (s.baysOf p).foldl (fun m b => sset 0 m (stationOfBay b) (s.bay b).flags) []
  let sh := (s.stagehands.filter (fun kv => decide (s.partOfBay (handBay kv.1) = p))).foldl
    (fun m kv => sset 0 m kv.1 kv.2.settle.flags) []
  let cu := (List.range 16).foldl (fun m n => sset Curtain.off m n (s.curtain p n)) []
  s.setCtx p c { x with stnFlags := stn, shFlags := sh, curtains := cu }

/-- Slots, tiles, ledgers, ramps and stagehands of a partition between two contexts (R77, R89, R96, R153, R199). -/
def State.clearPart (s : State) (p : Nat) : State :=
  let s := (s.baysOf p).foldl (fun s b => s.setBay b { s.bay b with slots := [], tiles := [], ledger := [], flags := 0, ramps := [] }) s
  State.voidGets { s with stagehands := s.stagehands.filter (fun kv => decide (s.partOfBay (handBay kv.1) ≠ p)) }
    (fun l => decide (s.partOfBay (handBay l) = p))

/-- A context's own flags and curtains come back. -/
def State.loadCtx (s : State) (p c : Nat) : State :=
  let x := s.ctx p c
  let s := x.stnFlags.foldl (fun s kv => s.setBay (bayOfStation kv.1) { s.bay (bayOfStation kv.1) with flags := kv.2 }) s
  let s := x.shFlags.foldl (fun s kv => s.setHand kv.1 { s.hand kv.1 with flags := kv.2 }) s
  let s := (List.range 16).foldl (fun s n => s.setCurtain p n (sget Curtain.off x.curtains n)) s
  s.setCtx p c { x with stnFlags := [], shFlags := [], curtains := [] }

/-- The cue processors of a partition take up a context at its read positions. -/
def State.startCps (s : State) (p c : Nat) : State :=
  let x := s.ctx p c
  (cpsOf s.shape p).foldl (fun s n =>
    s.setCp n { CueProc.idle with fetchPos := sget 0 x.rdptr n, inPass := x.midPass, mbxRetry := (s.cp n).mbxRetry, mbxAt := (s.cp n).mbxAt }) s

/-- A started context's state: running while it holds credit or is in a pass, switched in or not (CP_CSTATE.STATE). -/
def State.settleState (s : State) (p c : Nat) : State :=
  let x := s.ctx p c
  if x.st = 3 ∨ x.st = 4 then s.setCtx p c { x with st := if s.hasCredit p c || x.midPass then 4 else 3 } else s

/-- Switch a context in (R281). -/
def State.switchTo (s : State) (p c : Nat) : State :=
  if s.curCtx p = some c then s
  else
    let s := match s.curCtx p with | some o => s.saveCtx p o | none => s
    let s := (s.clearPart p).loadCtx p c
    let y := s.part p
    ((s.setPart p { y with cur := some c, since := s.clock.house, endOfPass := false, parentRang := false }).startCps p c).settleState p c

/-- The context switched in leaves with none to follow it: isolation keeps every other one out (R430). -/
def State.switchOut (s : State) (p c : Nat) : State :=
  let s := (s.saveCtx p c).clearPart p
  let s := (List.range 16).foldl (fun s n => s.setCurtain p n Curtain.off) s
  let s := (cpsOf s.shape p).foldl (fun s n => s.setCp n { CueProc.idle with mbxRetry := (s.cp n).mbxRetry, mbxAt := (s.cp n).mbxAt }) s
  s.setPart p { s.part p with cur := none, endOfPass := false, parentRang := false }

/-- Nothing of a context waits, is started or runs in the bays of its partition. -/
def State.ctxQuiet (s : State) (p c : Nat) : Bool :=
  s.bays.all (fun kv => kv.2.started.all (fun x => !(decide (x.part = p) && decide (x.ctx = c))) &&
      kv.2.queues.all (fun q => q.2.all (fun x => !(decide (x.part = p) && decide (x.ctx = c))))) &&
    s.stagehands.all (fun kv => !(kv.2.running && decide (kv.2.part = p)))

/-- The link engines have no started command of a context: no step to close, no gather, no bucket of its own
(R209, R230, R244). -/
def State.linkQuiet (s : State) (p c : Nat) : Bool :=
  let l := s.link p
  (match l.step with | some st => decide (st.ctx ≠ c) | none => true) &&
    l.gathers.all (fun g => decide (g.ctx ≠ c) || g.dead) &&
    l.buckets.all (fun b => decide (b.ctx ≠ c) || b.accepted.isNone || b.confirmed)

/-- No pass of the context switched in keeps the partition (R280, R419, R430). -/
def State.partFree (s : State) (p : Nat) : Bool :=
  match s.curCtx p with
  | none => true
  | some c =>
    let x := s.ctx p c
    !(s.stopped p c) && !(s.partFenced p) &&
      ((decide (x.st ≤ 2) && s.ctxQuiet p c) || (decide (x.st = 3) && !x.midPass) ||
        (decide (x.st = 4 ∨ x.st = 5) && !x.midPass && s.isolatedOut p c) || (decide (x.st = 6) && s.ctxQuiet p c && s.linkQuiet p c))

/-- With nothing running in a partition, a ready context is switched in (R281). -/
def State.trySwitch (s : State) (p : Nat) : State :=
  if s.partFree p then
    match s.curCtx p with
    | some c =>
      if s.ctxReady p c then s.settleState p c
      else (match s.nextCtx p c with | some d => s.switchTo p d | none => s)
    | none => (match s.nextReady p 15 with | some d => s.switchTo p d | none => if s.ctxReady p 15 then s.switchTo p 15 else s)
  else s

end Sys2Proof.Machine
end

