-- ==== Sys2Proof/Machine/CtxReset.lean ====
section
/-!
DEFINITION. Machine/CtxReset.lean: the end of a reset of any level, and what an L0 reset does to its context once the
context's started commands have completed (R424, R425, R429).
-/
namespace Sys2Proof.Machine

/-- DATA of EVT_RESET (Table 14.5, R429): level, class, bay and result, one byte each. -/
def ResetOp.data (r : ResetOp) (result : Nat) : Nat := packData [(1, r.level), (1, r.cls), (1, r.bay), (1, result)]

/-- A reset ends with a result (0 done, 1 timed out, 2 superseded): the registers of Table 15.7, EVT_RESET, the reply. -/
def State.closeReset (s : State) (r : ResetOp) (result status : Nat) : State :=
  let s := { s with resets := s.resets.erase r }
  let s := s.setReg (aFlt 0x2008) (BitVec.ofNat 32 ((s.clock.house - r.since) / 1000))
  let s := s.setReg (aFlt 0x2004) (setFld (setFld (s.reg (aFlt 0x2004)) 30 28 r.level) 27 26 result)
  (s.logEvent 0x0061 whereModule (r.data result)).reply r.hdr 0x32 status []

/-- A curtain whose generation is reset: its configuration stays, a pending one taken over (R191, R425). -/
def Curtain.regen (c : Curtain) : Curtain :=
  let k := c.next.getD (c.chain, c.count)
  { Curtain.off with chain := k.1, count := k.2 }

/-- The sticky flags of a context's stations and stagehands, and its curtains' generations, where it is switched in. -/
def State.clearLive (s : State) (p : Nat) : State :=
  let s := (s.baysOf p).foldl (fun s b => s.setBay b { s.bay b with flags := 0 }) s
  let clear := fun (l : Nat) (h : Stagehand) => if s.partOfBay (handBay l) = p then { h.settle with flags := 0 } else h
  let s := { s with stagehands := smap Stagehand.idle clear s.stagehands }
  (List.range 16).foldl (fun s n => s.setCurtain p n (s.curtain p n).regen) s

/-- The buckets and gathers of a context that the link engines hold are discarded (R425). -/
def State.dropExchange (s : State) (p c : Nat) : State :=
  let l := (s.link p).dropBuckets c
  s.setLink p { l with gathers := l.gathers.filter (fun g => decide (g.ctx ≠ c)) }

/-- What L0 does to a context (R425). -/
def State.resetCtx (s : State) (p c : Nat) : State :=
  let x := s.ctx p c
  let cur := decide (s.curCtx p = some c)
  let s := s.setCtx p c { x with st := 2, rdptr := [], credit := [], midPass := false, stnFlags := [], shFlags := [],
                                 curtains := smap Curtain.off (fun _ k => k.regen) x.curtains }
  let s := (s.setFaultRec p c none).dropExchange p c
  if cur then
    (cpsOf s.shape p).foldl (fun s n => s.setCp n { CueProc.idle with mbxRetry := (s.cp n).mbxRetry, mbxAt := (s.cp n).mbxAt }) (s.clearLive p)
  else s

/-- A context has started, uncompleted commands that an L0 reset waits for: those of the bays, and its LE_STEP. -/
def State.ctxStarted (s : State) (p c : Nat) : Bool :=
  s.bays.any (fun kv => kv.2.started.any (fun x => decide (x.part = p) && decide (x.ctx = c))) ||
    (match (s.link p).step with | some st => decide (st.ctx = c) | none => false)

/-- The L0 reset in progress of a context. -/
def State.l0Of (s : State) (p c : Nat) : Option ResetOp :=
  s.resets.find? (fun r => decide (r.level = 0) && decide (r.part = p) && decide (r.ctx = c))

/-- A started command of a context has completed: an L0 reset that waited for the last one ends (R425), and with nothing
left of a faulted context its partition can switch (R419). -/
def State.commandDone (s : State) (p c : Nat) : State :=
  match s.l0Of p c with
  | some r => if s.ctxStarted p c then s else ((s.resetCtx p c).closeReset r 0 stOk).trySwitch p
  | none => if (s.ctx p c).st = 6 then s.trySwitch p else s

end Sys2Proof.Machine
end

