-- ==== Sys2Proof/Machine/Tiles.lean ====
section
/-!
DEFINITION. Machine/Tiles.lean: elements, tiles and the products of one beat (R45, R78 to R81, R119, R120).
-/
namespace Sys2Proof.Machine

/-- The element codes of a row of bytes (R75, R106): n elements. -/
def elemCodes (fmt : Nat) (bs : List Byte) (n : Nat) : List Nat :=
  let v := leNat bs
  if fmt = 4 then (List.range n).map (fun i => (v >>> (4 * i)) % 16)
  else if fmt = 8 ∨ fmt = 9 then (List.range n).map (fun i => (v >>> (16 * i)) % 65536)
  else if fmt = 2 ∨ fmt = 3 then (List.range n).map (fun i => (v >>> (8 * i)) % 64)
  else (List.range n).map (fun i => (v >>> (8 * i)) % 256)

/-- Bytes of n elements of a format as stored by a feeder. -/
def elemBytes (fmt n : Nat) : Nat := n * fmtBits fmt / 8

/-- Element codes as bytes. -/
def packBytes (fmt : Nat) (codes : List Nat) : List Byte :=
  toLE (elemBytes fmt codes.length) (packNat (fmtBits fmt) codes)

/-- Value of an element code; none of the formats above 9 has one. -/
def elemValue (fmt code : Nat) : Num :=
  match elemFmt fmt with
  | some f => f.decode code
  | none => .nan

/-- Consecutive parts of n elements. -/
def chunks {α : Type} (n : Nat) : Nat → List α → List (List α)
  | 0, _ => []
  | k + 1, l => l.take n :: chunks n k (l.drop n)

/-- E2M1 as the E4M3 value that equals it (R79, Table 4.9). -/
def widenE2M1 (code : Nat) : Nat :=
  match fmtE2M1.decode code with
  | .fin n m e => (fmtE4M3.roundFin true .rne n m e).1
  | _ => 0

/-- A tile held in format a accepts rows of format r (Table 3.7). -/
def pairing (tile row : Nat) : Bool :=
  let fp8 := fun f => decide (f = 0 ∨ f = 1 ∨ f = 2 ∨ f = 3 ∨ f = 6 ∨ f = 7)
  (fp8 tile && fp8 row) || (decide (tile = 5) && decide (row = 5)) || (decide (tile = 4) && decide (row = 4)) ||
    (decide (tile = 8) && decide (row = 8))

/-- Elements of one beat and elements of one block (Table 2.6, R119). -/
def beatElems (fmt : Nat) : Nat := if fmt = 4 then 256 else if fmt = 8 then 64 else 128
def blockElems (fmt : Nat) : Nat := if fmt = 8 then 64 else 32
def beatBlocks (fmt : Nat) : Nat := beatElems fmt / blockElems fmt

/-- Bytes of block scales that a beat carries (Table 2.6). -/
def beatScales (fmt : Nat) : Nat := if fmt = 4 then 8 else if isMx fmt then 4 else 0

/-- The blocks of a row beat: scaled element values (R105). A plain format has scale code 127. -/
def rowBlocks (fmt : Nat) (data : BitVec 1024) (scales : BitVec 64) : List (List Num) :=
  let codes := elemCodes fmt (toLE 128 data.toNat) (beatElems fmt)
  let blocks := chunks (blockElems fmt) (beatBlocks fmt) codes
  (blocks.zip (List.range blocks.length)).map (fun p =>
    let sc : Byte := if isMx fmt then BitVec.ofNat 8 (scales.toNat >>> (8 * p.2)) else 127
    p.1.map (fun c => scaled sc (elemValue fmt c)))

/-- The blocks of one column of a tile: scaled element values. -/
def colBlocks (t : Tile) (n : Nat) : List (List Num) :=
  let k := (t.cols.getD n []).length / blockElems t.fmt
  let blocks := chunks (blockElems t.fmt) k (t.cols.getD n [])
  let scs := t.scales.getD n []
  (blocks.zip (List.range blocks.length)).map (fun p =>
    p.1.map (fun c => scaled (scs.getD p.2 127) (elemValue t.fmt c.toNat)))

/-- A block sum with the flags of its products (Tables 4.5 and 4.6). -/
def blockSum (xs ys : List Num) : Num × StickyFlags :=
  let ps := (xs.zip ys).map (fun p => mulNum p.1 p.2)
  let t := sumNum (ps.map Prod.fst)
  (t.1, ps.foldl (fun a r => a ||| r.2) t.2)

/-- Add the block sums of a beat to an accumulator value, block 0 first, one rounding per block (R120). -/
def addBlocks (c : BitVec 28) : List (Num × StickyFlags) → BitVec 28 × StickyFlags
  | [] => (c, 0)
  | (x, f) :: rest =>
    let r := addA28 c x
    let q := addBlocks r.1 rest
    (q.1, f ||| r.2 ||| q.2)

/-- The A28 code of −0, from which a sum starts on the first block under ZERO = 1 (R120). -/
def a28NegZero : BitVec 28 := 0x8000000

/-- One row beat against one tile into one accumulator row: values of the 128 columns and flags. -/
def multiplyRow (t : Tile) (row : List (List Num)) (acc : Nat → BitVec 28) : List (BitVec 28 × StickyFlags) :=
  (List.range 128).map (fun n => addBlocks (acc n) ((row.zip (colBlocks t n)).map (fun p => blockSum p.1 p.2)))

/-- Write the columns of an accumulator row. -/
def Bay.setAccRow (b : Bay) (arr bank row : Nat) (l : List (BitVec 28)) : Bay :=
  (l.zip (List.range 128)).foldl (fun b p => b.setAcc arr bank row p.2 p.1) b

end Sys2Proof.Machine
end

