-- ==== Sys2Proof/Machine/StationQueue.lean ====
section
/-!
DEFINITION. Machine/StationQueue.lean: the checks a command meets at issue (R73, R147, R148, R168), readiness and the
start of a command (R97, Table 3.17), and its end.
-/
namespace Sys2Proof.Machine

/-- The first of a list of conditions that holds, with its code. -/
def firstOf : List (Bool × Nat) → Option Nat
  | [] => none
  | (b, c) :: rest => if b then some c else firstOf rest

/-- Flag numbers in use above 63, and scoreboard ranges past bay offset 0xFF_FFFF (R73, R168). -/
def rangeBad (q : Nat) (ws : List Word) : Bool :=
  let h := cmdHead (cword ws 0)
  let r := rangesOf q ws
  (h.wait && decide (63 < h.waitFlag)) || (h.set && decide (63 < h.setFlag)) ||
    (decide (0 < r.1.2) && decide (2 ^ 18 < r.1.1 + r.1.2)) || (decide (0 < r.2.2) && decide (2 ^ 18 < r.2.1 + r.2.2))

/-- The Words count of Table 3.2, word 0 included. -/
def stnWords (op : Nat) : Option Nat :=
  match op with
  | 0x01 => some 2
  | 0x02 => some 8
  | 0x03 => some 4
  | 0x04 => some 5
  | 0x05 => some 4
  | 0x06 => some 5
  | 0x07 => some 8
  | 0x08 => some 4
  | 0x09 => some 4
  | 0x10 => some 7
  | 0x11 => some 7
  | 0x12 => some 7
  | 0x13 => some 7
  | 0x14 => some 7
  | 0x15 => some 7
  | 0x16 => some 7
  | _ => none

/-- ARRAYS values Table 3.2 does not allow. -/
def arraysBad (op arrays : Nat) : Bool :=
  if op = 0x03 ∨ op = 0x05 ∨ op = 0x07 ∨ op = 0x08 ∨ op = 0x09 then decide (arrays = 0)
  else if op = 0x06 then decide (arrays ≠ 3) else false

/-- The modes of Table 3.14. -/
def reModeOk (op mode : Nat) : Bool :=
  if op = 0x12 then decide (mode ≤ 3) else if op = 0x15 then decide (mode ≤ 1) else decide (mode = 0)

/-- A row-engine command's fields (Table 3.13). -/
def reLen (ws : List Word) : Nat := fld (cword ws 4) 16 0
def reRows (ws : List Word) : Nat := fld (cword ws 5) 31 17
def reLedger0 (ws : List Word) : Nat := fld (cword ws 5) 16 3
def reLedger1 (ws : List Word) : Nat := fld (cword ws 6) 15 2
def reMode (ws : List Word) : Nat := fld (cword ws 3) 4 2

/-- The issue check of a station or row-engine command: the first code that applies, in the order of R73. -/
def stnCheck (ws : List Word) : Option Nat :=
  let h := cmdHead (cword ws 0)
  let op := h.opcode
  let w3 := cword ws 3
  let w4 := cword ws 4
  let re := decide (0x10 ≤ op ∧ op ≤ 0x16)
  let fmtHi := fld w3 23 20
  let fmtMma := fld w3 16 13
  let row0Count := fun (row0 : Nat) => decide (512 < row0 + fld w4 9 0)
  match stnWords op with
  | none => some fltOpcode
  | some n =>
    firstOf [
      -- 1. FLT_OPCODE
      (decide (h.words ≠ n - 1), fltOpcode),
      (arraysBad op h.arrays, fltOpcode),
      (decide (op = 0x03) && decide (fld w3 16 15 = 3), fltOpcode),
      (decide (op = 0x04 ∨ op = 0x06) && decide (fld w3 19 18 = 0), fltOpcode),
      (decide (op = 0x05) && decide (fld w3 20 19 = 0), fltOpcode),
      (decide (op = 0x07) && decide (fld w3 19 18 = 3), fltOpcode),
      (re && (decide (fld w3 7 6 = 3) || !(reModeOk op (reMode ws))), fltOpcode),
      -- 2. FLT_OPERAND_CASE
      (decide (op = 0x03 ∨ op = 0x04) && decide (8 < fmtHi), fltOperandCase),
      (decide (op = 0x05) && decide (8 < fmtMma), fltOperandCase),
      (decide (op = 0x06) && decide (7 < fmtHi), fltOperandCase),
      (decide (op = 0x07) && decide (9 < fmtHi), fltOperandCase),
      (decide (op = 0x03) &&
        (decide (fld w3 16 15 = 2) != decide (5 < fmtHi) ||
          (bit w3 19 && isMx fmtHi && decide (fld w3 16 15 ≠ 1)) || (bit w3 18 && decide (fmtHi ≠ 4))), fltOperandCase),
      (decide (op = 0x07) && decide (fmtHi = 9) && decide (fld w4 31 24 = 0xFF), fltOperandCase),
      (re && (!(decide (fld w3 15 12 = 0 ∨ fld w3 15 12 = 1 ∨ fld w3 15 12 = 8)) ||
        !(decide (fld w3 11 8 = 0 ∨ fld w3 11 8 = 1 ∨ fld w3 11 8 = 8)) || decide (fld w3 7 6 = 2)), fltOperandCase),
      -- 3. FLT_RANGE
      (rangeBad 0 ws, fltRange),
      -- 4. FLT_SHAPE
      (decide (op = 0x04) && row0Count (fld w3 15 7), fltShape),
      (decide (op = 0x05) && decide (512 < fld w3 9 0), fltShape),
      (decide (op = 0x06) && row0Count (fld w3 14 6), fltShape),
      (decide (op = 0x07) && row0Count (fld w3 15 7), fltShape),
      (re && (decide (65536 < reLen ws) || decide (16384 < reRows ws) ||
        decide (16384 < reLedger0 ws + reRows ws) ||
        (decide (op = 0x15) && decide (reMode ws = 1) && decide (16384 < reLedger1 ws + reRows ws))), fltShape)]

/-- Tile and row formats pair (Table 3.7); tile as held. -/
def tilesPair (y : Bay) (fmt : Nat) (bufs : List (Nat × Nat)) : Bool := bufs.all (fun p => pairing (y.tile p.1 p.2).fmt fmt)

/-- The tile buffers of the first n tiles of a carry-mode product, in order (R85): (array, buffer). -/
def carryTiles : List (Nat × Nat) := [(0, 0), (1, 0), (0, 1), (1, 1)]

/-- Arrays a command names: 0 for array A, 1 for array B. -/
def arraysOf (arrays : Nat) : List Nat := if arrays = 3 then [0, 1] else if arrays = 1 then [0] else if arrays = 2 then [1] else []

/-- The tile buffers an STN_MMA or STN_CARRY multiplies by, and its row format (R83, R85). -/
def tilesUsed (ws : List Word) : List (Nat × Nat) × Nat :=
  let h := cmdHead (cword ws 0)
  let w3 := cword ws 3
  if h.opcode = 0x05 then
    ((arraysOf h.arrays).flatMap (fun a => (if fld w3 16 13 = 8 then [0, 1] else [fld w3 18 18]).map (fun f => (a, f))), fld w3 16 13)
  else if h.opcode = 0x06 then (carryTiles.take (fld (cword ws 4) 11 10 + 1), fld w3 23 20)
  else ([], 0)

/-- The issue check of a station command at a bay (R73, R81): the pairing of R81, which goes before the codes of its class 3
and 4, is made against the tiles that are loaded; one that a load still to come will fill is met as the command starts. -/
def Bay.stnIssue (y : Bay) (ws : List Word) : Option Nat :=
  let u := tilesUsed ws
  let mispaired := !(tilesPair y u.2 (u.1.filter (fun p => (y.tile p.1 p.2).loaded)))
  match stnCheck ws with
  | some r => if mispaired && decide (r = fltRange ∨ r = fltShape) then some fltOperandCase else some r
  | none => none

/-- The issue check of a dispatcher command (R147, R148): words, flags and ranges, then shape, alignment, quota. -/
def State.dispCheck (s : State) (part ctx : Nat) (ws : List Word) : Option Nat :=
  let h := cmdHead (cword ws 0)
  let op := h.opcode
  let base := fld (cword ws 3) 23 0
  let dest := fld (cword ws 5) 25 16
  let count := fld (cword ws 5) 10 0
  firstOf [
    (!(decide (op = 0x20 ∨ op = 0x21 ∨ op = 0x22)), fltOpcode),
    (decide (h.words ≠ (if op = 0x22 then 3 else 5)), fltOpcode),
    (rangeBad 4 ws, fltRange),
    (decide (op = 0x20) && decide (1024 < dest + count), fltShape),
    (decide (op = 0x20) && decide (base % 64 ≠ 0), fltAlign),
    (decide (op = 0x20) && decide (0 < count) && !((s.ctx part ctx).spOk base (4 * count)), fltRange)]

/-- The test of the head commands at their bay node (R185): a flag once seen set is not waited for again. -/
def State.testHeads (s : State) (b : Nat) : State :=
  let y := s.bay b
  let look := fun (_ : Nat) (l : List QCmd) =>
    match l with
    | [] => []
    | c :: cs =>
      let h := c.head
      if h.wait && s.flagAt b c.part h.waitFlag then { c with waitSeen := true } :: cs else c :: cs
  s.setBay b { y with queues := smap [] look y.queues }

/-- The node at which the link engines of the wings look at flags and releases (entry 24). -/
def linkNode : Nat := 12

/-- Heads of the link engines' queues that wait for a flag have seen it (R185). -/
def State.testLinks (s : State) (p : Nat) : State :=
  let l := s.link p
  let look := fun (_ : Nat) (q : List QCmd) =>
    match q with
    | [] => []
    | c :: cs => if c.head.wait && s.flagAt linkNode p c.head.waitFlag then { c with waitSeen := true } :: cs else c :: cs
  s.setLink p { l with queues := smap [] look l.queues }

/-- The WAIT flag of a command, if any, has been seen set. -/
def QCmd.waitOk (c : QCmd) : Bool := !c.head.wait || c.waitSeen

/-- The command works on an array. -/
def Started.onArray (c : Started) (a : Nat) : Bool := (arraysOf c.head.arrays).contains a

/-- Its opcode, and whether rows remain. -/
def Started.op (c : Started) : Nat := bayOp c.queue c.words
def Started.isStation (c : Started) : Bool := decide (c.queue < 4)
def Started.isRe (c : Started) : Bool := c.isStation && decide (0x10 ≤ c.op ∧ c.op ≤ 0x16)

/-- An STN_MMA that still accepts rows from tile buffer buf of array a; a BF16 one uses both buffers (R48, R80). -/
def Started.mmaUses (c : Started) (a buf : Nat) : Bool :=
  c.isStation && decide (c.op = 0x05) && c.onArray a && decide (0 < c.left) &&
    (decide (fld (cword c.words 3) 16 13 = 8) || decide (fld (cword c.words 3) 18 18 = buf))

/-- A started command that holds both ports of the feeder of array a (Table 3.17, R88): a carry holds feeder A for CW and
feeder B for CCW. -/
def Started.holdsFeeder (c : Started) (a : Nat) : Bool :=
  c.isStation && ((decide (c.op = 0x03) && c.onArray a) || (decide (c.op = 0x06) && bit (cword c.words 3) (18 + a)) ||
    (decide (c.op = 0x08 ∨ c.op = 0x09) && (c.onArray a || (decide (a = 0) && bit (cword c.words 3) 25))))

/-- An STN_CARRY with rows left multiplies with tile buffer buf of array a (R54, R85). -/
def Started.carryUses (c : Started) (a buf : Nat) : Bool :=
  c.isStation && decide (c.op = 0x06) && decide (0 < c.left) &&
    (carryTiles.take (fld (cword c.words 4) 11 10 + 1)).contains (a, buf)

/-- An STN_DRAIN of array a is in progress. -/
def Started.drains (c : Started) (a : Nat) : Bool := c.isStation && decide (c.op = 0x07) && c.onArray a

/-- "Ready when" of Table 3.17, for the command with these words. -/
def Bay.readyOk (b : Bay) (ws : List Word) : Bool :=
  let h := cmdHead (cword ws 0)
  let w3 := cword ws 3
  let arrs := arraysOf h.arrays
  match h.opcode with
  | 0x03 =>
    let bf := decide (fld w3 23 20 = 8)
    let buf := fld w3 17 17
    let used := fun (c : Started) (a f : Nat) => c.mmaUses a f || c.carryUses a f
    arrs.all (fun a => !(b.started.any (fun c => used c a buf || (bf && used c a (1 - buf)))))
  | 0x05 =>
    let bf := decide (fld w3 16 13 = 8)
    let buf := fld w3 18 18
    let bank := fld w3 17 17
    arrs.all (fun a =>
      (b.tile a buf).loaded && (!bf || (b.tile a (1 - buf)).loaded) &&
      !(b.started.any (fun c => c.drains a && decide (fld (cword c.words 3) 17 17 = bank))) &&
      (let others := b.started.filter (fun c => c.isStation && decide (c.op = 0x05) && c.onArray a)
       decide (others.length ≤ 1) && others.all (fun c => !bf && decide (fld (cword c.words 3) 16 13 ≠ 8) &&
          decide (fld (cword c.words 3) 18 18 ≠ buf))))
  | 0x06 =>
    let n := fld (cword ws 4) 11 10 + 1
    (carryTiles.take n).all (fun p => (b.tile p.1 p.2).loaded) &&
      !(b.started.any (fun c => c.isStation && decide (c.op = 0x05)))
  | 0x07 =>
    let bank := fld w3 17 17
    arrs.all (fun a => !(b.started.any (fun c =>
      c.isStation && ((decide (c.op = 0x05) && c.onArray a && decide (fld (cword c.words 3) 17 17 = bank)) ||
        (decide (c.op = 0x06) && decide (a = 0) && decide (fld (cword c.words 3) 15 15 = bank)))))) &&
    (!(bit w3 16) || b.started.any (fun c => c.isRe && bit (cword c.words 3) 5))
  | 0x08 | 0x09 =>
    arrs.all (fun a => !(b.started.any (fun c =>
      c.isStation && (decide (c.op = 0x06) || (decide (c.op = 0x05) && c.onArray a) || c.drains a)))) &&
    (!(bit w3 25) || !(b.started.any Started.isRe))
  | op => if 0x10 ≤ op ∧ op ≤ 0x16 then !(b.started.any Started.isRe) else true

/-- "Resources held" of Table 3.17 are free for the command with these words. A tile load, a spill and a fill take their
ports from a drain or an injection in progress (R98); an injection and an STN_MMA hold theirs beat by beat and row by
row (entry 169). -/
def Bay.resourcesFree (b : Bay) (ws : List Word) : Bool :=
  let h := cmdHead (cword ws 0)
  let w3 := cword ws 3
  let arrs := arraysOf h.arrays
  let held := fun (a : Nat) => b.started.any (fun c => c.holdsFeeder a)
  let drains := fun (a : Nat) => (b.started.filter (fun c => c.drains a)).length
  let carry := b.started.any (fun c => c.isStation && decide (c.op = 0x06))
  match h.opcode with
  | 0x03 => arrs.all (fun a => !(held a))
  | 0x05 => !carry
  | 0x06 => !carry && [0, 1].all (fun a => !(bit w3 (18 + a)) || (!(held a) && decide (drains a = 0)))
  | 0x07 => arrs.all (fun a => !(held a) && decide (drains a ≤ 1))
  | 0x08 | 0x09 => arrs.all (fun a => !(held a)) && (!(bit w3 25) || !(held 0))
  | op => if 0x10 ≤ op ∧ op ≤ 0x16 then !(b.started.any Started.isRe) else true

/-- A station or row-engine command can start as Table 3.17 has it. -/
def Bay.conditionOk (b : Bay) (ws : List Word) : Bool := b.readyOk ws && b.resourcesFree ws

/-- Tags of a transfer command, and whether two such commands' ranges overlap (Table 10.7). -/
def seTag0 (ws : List Word) : Nat := fld (cword ws 3) 19 13
def seNtags (ws : List Word) : Nat := fld (cword ws 3) 12 5
def tagsMeet (a b : List Word) : Bool :=
  decide (seTag0 a < seTag0 b + seNtags b) && decide (seTag0 b < seTag0 a + seNtags a)

/-- No earlier command of its own queue holds any of its tags (R310). -/
def Bay.tagsFree (y : Bay) (k : Nat) (ws : List Word) : Bool :=
  y.started.all (fun x => !(decide (x.queue = k) && decide (0x41 ≤ x.op) && tagsMeet x.words ws))

/-- The head c of queue k is ready (R97, R310). -/
def Bay.headReady (y : Bay) (k : Nat) (c : QCmd) : Bool :=
  c.waitOk && y.scoreboardOk k c.words &&
    (if k < 4 then y.readyOk c.words else decide (k = 4) || decide (bayOp k c.words = 0x40) || y.tagsFree k c.words)

/-- The cycle in which a head became ready: this one, where no cycle has passed since (R97). -/
def Bay.readySince (y : Bay) (c : QCmd) : Nat := c.readyAt.getD y.clk.cyc

/-- A waiting command as it would stand among the started ones. -/
def QCmd.asStarted (c : QCmd) (k : Nat) : Started :=
  { id := 0, queue := k, words := c.words, part := c.part, ctx := c.ctx, bookoff := c.bookoff, startCyc := 0, earliest := 0,
    left := 0, done := 0, slots := [], set := [], noFlag := false, nextTag := 0 }

/-- Starting the head d of queue j would take what the head c of queue k needs: a resource of Table 3.17 (R97), a range
or a scoreboard entry (R168); the stream queues start their heads in order whatever they need (R310). -/
def Bay.contends (y : Bay) (j : Nat) (d : QCmd) (k : Nat) (c : QCmd) : Bool :=
  let after : Bay := { y with started := y.started ++ [d.asStarted j] }
  decide (4 < j ∧ 4 < k) || ((decide (4 ≤ j) || y.resourcesFree d.words) &&
    (!(after.scoreboardOk k c.words) || (decide (j < 4 ∧ k < 4) && !(after.resourcesFree c.words))))

/-- Queues of one engine are ordered by the cycle in which their heads became ready; against another engine's only heads
that became ready in one cycle are, station before dispatcher before stream engine (R97, R168, R310). -/
def sameEngine (j k : Nat) : Bool := decide (j < 4 ∧ k < 4) || decide (4 < j ∧ 4 < k)

/-- Of the ready heads that need the same resource or range the one that became ready in the earlier cycle goes first, in
one cycle the one of the lower-numbered queue (R97, R168, R310). -/
def Bay.goesFirst (y : Bay) (k : Nat) : Bool :=
  match y.queue k with
  | [] => true
  | c :: _ =>
    (List.range 9).all (fun j =>
      match y.queue j with
      | [] => true
      | d :: _ =>
        decide (j = k) || !(y.headReady j d && y.contends j d k c &&
          ((sameEngine j k && decide (y.readySince d < y.readySince c)) ||
            (decide (y.readySince d = y.readySince c) && decide (j < k)))))

/-- A feeder that a load or a spill has taken for L cycles pauses the drains in progress on it, which count only cycles in
which they hold a port, and with a drain to the row engine the command that takes its rows (R98). -/
def Bay.pauseDrains (y : Bay) (feeders : List Nat) (L : Nat) : Bay :=
  let now := y.clk.cyc
  let hit := fun (c : Started) => feeders.any c.drains && decide (now < c.earliest)
  let toRe := y.started.any (fun c => hit c && bit (cword c.words 3) 16)
  let hold := fun (c : Started) =>
    { c with earliest := c.earliest + (now + L - max now c.heldTo), heldTo := max c.heldTo (now + L) }
  { y with started := y.started.map (fun c => if hit c || (toRe && c.isRe && bit (cword c.words 3) 5) then hold c else c) }

/-- A feeder has a port for an injected beat: no load, spill or carry holds both, and its drains leave one (R98,
Table 3.17). -/
def Bay.portFree (y : Bay) (a : Nat) : Bool :=
  !(y.started.any (fun c => c.holdsFeeder a)) && decide ((y.started.filter (fun c => c.drains a)).length ≤ 1)

/-- A cycle passes: the heads that are ready keep or take the cycle in which they became so (R97, R310). -/
def Bay.markReady (y : Bay) : Bay :=
  { y with queues := y.queues.map (fun kv =>
      match kv.2 with
      | [] => kv
      | c :: cs => (kv.1, { c with readyAt := if y.headReady kv.1 c then some (y.readySince c) else none } :: cs)) }

/-- The command at the head of queue q starts (R97): it leaves the queue, copies its slots and takes its entries. -/
def State.beginCmd (s : State) (b q : Nat) (c : QCmd) (rest : List QCmd) (latency left : Nat) (slots : List AgSlot)
    (set : List Nat) : State × Started :=
  let y := s.bay b
  let st : Started :=
    { id := y.nextId, queue := q, words := c.words, part := c.part, ctx := c.ctx, bookoff := c.bookoff,
      startCyc := y.clk.cyc, earliest := y.clk.cyc + latency, left := left, done := 0, slots := slots, set := set,
      noFlag := false, nextTag := 0, readyCyc := y.readySince c }
  let y := { y.setQueue q rest with started := y.started ++ [st], nextId := y.nextId + 1,
                                    ctx := if q < 4 then c.ctx else y.ctx }
  ((s.setBay b y).testHeads b, st)

/-- Change a started command. -/
def State.modStarted (s : State) (b id : Nat) (f : Started → Started) : State :=
  let y := s.bay b
  s.setBay b { y with started := y.started.map (fun c => if c.id = id then f c else c) }

/-- The class of Table 9.13 and the index of a bay engine's command. -/
def Started.faultClass (c : Started) : Nat :=
  if c.queue = 4 then 3 else if 5 ≤ c.queue then 4 else if c.isRe then 1 else 0

/-- A started command faults at execution (R74, R76): what it did stands, and it ends without its flag. -/
def State.cmdFault (s : State) (b : Nat) (c : Started) (reason addr : Nat) : State :=
  (s.modStarted b c.id (fun x => { x with left := 0, noFlag := true, earliest := (s.bay b).clk.cyc })).sendFault reason
    c.part c.ctx c.faultClass b (stationOfBay b) c.bookoff addr []

/-- The STN_FLAGS of a station (R117). -/
def State.stnFlags (s : State) (b : Nat) (f : StickyFlags) : State :=
  let y := s.bay b
  s.setBay b { y with flags := y.flags ||| f }

/-- Start of the head of a queue of a bay when it has the opcode and is ready; the effect follows. Otherwise this is
not the event that happens. -/
def startHead (op : Nat) (b q : Nat) (ready : QCmd → State → Bool)
    (go : QCmd → List QCmd → State → State) (s : State) : Out :=
  match (s.bay b).queue q with
  | [] => idle s
  | c :: rest =>
    if decide (bayOp q c.words = op) && s.bayActive b && !(s.bay b).clk.stopped && c.waitOk &&
        (s.bay b).scoreboardOk q c.words && ready c s && (s.bay b).goesFirst q then .next (go c rest s)
    else idle s

/-- Start of a station or row-engine command. -/
def stnStart (op : Nat) (b q : Nat) (go : QCmd → List QCmd → State → State) (s : State) : Out :=
  startHead op b q (fun c s => (s.bay b).conditionOk c.words) go s

/-- One address of a slot for a command (R74, R76): what is wrong with it, or the bay offset. -/
def State.slotAddr (s : State) (part ctx b : Nat) (slot : AgSlot) (n len align : Nat) : Except (Nat × Nat) Nat :=
  match slot.addr 24 n with
  | none => .error (fltShape, 0)
  | some off =>
    if !((s.ctx part ctx).spOk off len) then .error (fltRange, spAddr b off)
    else if off % align ≠ 0 then .error (fltAlign, spAddr b off)
    else .ok off

/-- Read through a slot. -/
def State.slotRead (s : State) (part ctx b : Nat) (slot : AgSlot) (n len align : Nat) :
    State × Except (Nat × Nat) (List Byte) :=
  match s.slotAddr part ctx b slot n len align with
  | .error e => (s, .error e)
  | .ok off =>
    match s.spRead b off len with
    | (s', some v) => (s', .ok v)
    | (s', none) => (s', .error (fltEccUncorr, spAddr b off))

/-- Write through a slot. -/
def State.slotWrite (s : State) (part ctx b : Nat) (slot : AgSlot) (n align : Nat) (v : List Byte) :
    State × Option (Nat × Nat) :=
  match s.slotAddr part ctx b slot n v.length align with
  | .error e => (s, some e)
  | .ok off =>
    match s.spWrite b off v with
    | (s', true) => (s', none)
    | (s', false) => (s', some (fltEccUncorr, spAddr b off))

/-- Read rows n, n + 1, … through a slot; the first fault ends it. -/
def State.slotReads (s : State) (part ctx b : Nat) (slot : AgSlot) (first len align : Nat) :
    Nat → State × Except (Nat × Nat) (List (List Byte))
  | 0 => (s, .ok [])
  | k + 1 =>
    match s.slotRead part ctx b slot first len align with
    | (s', .error e) => (s', .error e)
    | (s', .ok v) =>
      match s'.slotReads part ctx b slot (first + 1) len align k with
      | (s'', .ok vs) => (s'', .ok (v :: vs))
      | (s'', .error e) => (s'', .error e)

/-- A slot of the station or the stream engine as it reads when a command starts (R77, R305). -/
def Bay.copySlots (y : Bay) (ks : List Nat) : List AgSlot := ks.map y.slot

end Sys2Proof.Machine
end

