-- ==== Sys2Proof/Machine/StationCmds.lean ====
section
/-!
DEFINITION. Machine/StationCmds.lean: the station commands STN_NOP to STN_FILL (R72, R77 to R89). A command does its
data movement as it starts; rows that travel on the revolve are moved by their own events.
-/
namespace Sys2Proof.Machine

/-- STN_NOP (R72): waits for and sets cue flags only. -/
def execStnNop (bay : Fin 48) (q : Fin 4) (s : State) : Out :=
  stnStart 0x01 bay q (fun c rest s => (s.beginCmd bay q c rest 1 0 [] []).1) s

/-- The counts and strides of words 2 to 7 of an AGEN command (Table 3.5). -/
def agenCounts (ws : List Word) : List Nat := [fld (cword ws 2) 19 0, fld (cword ws 4) 19 0, fld (cword ws 6) 19 0]
def agenStrides (ws : List Word) : List Int := [(cword ws 3).toInt, (cword ws 5).toInt, (cword ws 7).toInt]

/-- One half of slot k of a bay written by an AGEN command (R77). -/
def State.writeSlot (s : State) (b k : Nat) (second : Bool) (base : Nat) (ws : List Word) : State :=
  let y := s.bay b
  s.setBay b { y with slots := sset AgSlot.init y.slots k
                                ((y.slot k).writeHalf second base (agenCounts ws) (agenStrides ws)) }

/-- STN_AGEN (R77, Table 3.5): writes half of an address-generator slot. -/
def execStnAgen (bay : Fin 48) (q : Fin 4) (s : State) : Out :=
  stnStart 0x02 bay q (fun c rest s =>
    let w1 := cword c.words 1
    ((s.beginCmd bay q c rest 1 0 [] []).1).writeSlot bay (fld w1 31 28) (bit w1 27) (fld w1 23 0) c.words) s

/-- Rows of a tile as stored, their bytes, and their elements (R78, R80). -/
def tileRows (fmt : Nat) (transpose widen : Bool) : Nat := if fmt = 4 && !transpose && !widen then 256 else 128
def tileRowElems (fmt : Nat) (transpose widen : Bool) : Nat := if fmt = 4 && transpose && !widen then 256 else 128

/-- K of a tile as held. -/
def tileK (fmt : Nat) (widen : Bool) : Nat := if fmt = 4 && !widen then 256 else 128

/-- Rows of the scale plane and bytes of each (R78): none for BF16 and the plain formats. -/
def planeShape (fmt scale : Nat) (transpose widen : Bool) : Nat × Nat :=
  let kb := tileK fmt widen / 32
  if scale = 2 then (0, 1) else if scale = 0 then (kb, 128) else if transpose then (4, kb) else (kb, 4)

/-- Valid elements of K and N (Table 3.6). -/
def tileValid (fmt kvalid nvalid : Nat) (widen : Bool) : Nat × Nat :=
  (if kvalid = 0 then tileK fmt widen else kvalid * (tileK fmt widen / 4), if nvalid = 0 then 128 else nvalid)

/-- The scale code of K block b of column n, before R79 (R78). -/
def planeScale (plane : List (List Byte)) (scale : Nat) (transpose : Bool) (b n : Nat) : Byte :=
  if scale = 2 then 127
  else if scale = 0 then (plane.getD b []).getD n 127
  else if transpose then (plane.getD (n / 32) []).getD b 127
  else (plane.getD b []).getD (n / 32) 127

/-- The tile buffers a load fills, from the rows and the plane it read (R78 to R80): buffer number and tile. -/
def buildTile (w3 : Word) (rows plane : List (List Byte)) : List (Nat × Tile) × StickyFlags :=
  let fmt := fld w3 23 20
  let transpose := bit w3 19
  let widen := bit w3 18
  let scale := fld w3 16 15
  let k := tileK fmt widen
  let (kv, nv) := tileValid fmt (fld w3 14 13) (fld w3 12 6) widen
  let codes := rows.map (fun r => elemCodes fmt r (tileRowElems fmt transpose widen))
  let at_ := fun i n => if transpose then (codes.getD n []).getD i 0 else (codes.getD i []).getD n 0
  let conv := fun c => if widen then widenE2M1 c else c
  let cols := (List.range 128).map (fun n => (List.range k).map (fun i =>
    if i < kv ∧ n < nv then BitVec.ofNat 16 (conv (at_ i n)) else 0))
  let scales := (List.range 128).map (fun n => (List.range (k / 32)).map (fun b =>
    let live := decide (32 * b < kv) && (if scale = 1 then decide (n / 32 * 32 < nv) else decide (n < nv))
    if live then planeScale plane scale transpose b n else (127 : Byte)))
  let nf := if widen && scales.any (fun l => l.contains 0xFF) then flagNf else 0
  let held := if widen then 0 else fmt
  if fmt = 8 then
    ([(0, { loaded := false, fmt := 8, cols := cols.map (List.take 64), scales := scales.map (List.take 2) }),
      (1, { loaded := false, fmt := 8, cols := cols.map (List.drop 64), scales := scales.map (List.drop 2) })], nf)
  else ([(fld w3 17 17, { loaded := false, fmt := held, cols := cols, scales := scales })], nf)

/-- The pitch rule of a transposed read (R161): consecutive rows of a 64-row block an odd number of 64 B apart. -/
def pitchBad (slot : AgSlot) (first n : Nat) : Option Nat :=
  (List.range n).find? (fun i =>
    decide (i % 64 ≠ 63) &&
      (match slot.addr 24 (first + i), slot.addr 24 (first + i + 1) with
       | some a, some a' => decide (((a' : Int) - (a : Int)) % 64 ≠ 0) || decide ((((a' : Int) - (a : Int)) / 64) % 2 = 0)
       | _, _ => false))

/-- Load the tiles of a list of arrays; a fault leaves the remaining buffers not loaded. -/
def State.loadTiles (s : State) (b : Nat) (c : Started) (dslot sslot : AgSlot) : List Nat → Nat → State × Option (Nat × Nat)
  | [], _ => (s, none)
  | a :: rest, i =>
    let w3 := cword c.words 3
    let fmt := fld w3 23 20
    let transpose := bit w3 19
    let widen := bit w3 18
    let n := tileRows fmt transpose widen
    let len := elemBytes fmt (tileRowElems fmt transpose widen)
    let pl := planeShape fmt (fld w3 16 15) transpose widen
    match (if transpose then pitchBad dslot (i * n) n else none) with
    | some j => (s, some (fltAlign, spAddr b ((dslot.addr 24 (i * n + j + 1)).getD 0)))
    | none =>
      match s.slotReads c.part c.ctx b dslot (i * n) len 64 n with
      | (s1, .error e) => (s1, some e)
      | (s1, .ok rows) =>
        match s1.slotReads c.part c.ctx b sslot (i * pl.1) pl.2 pl.2 pl.1 with
        | (s2, .error e) => (s2, some e)
        | (s2, .ok plane) =>
          let t := buildTile w3 rows plane
          let y := t.1.foldl (fun (y : Bay) p => y.setTile a p.1 p.2) (s2.bay b)
          ((s2.setBay b y).stnFlags b t.2).loadTiles b c dslot sslot rest (i + 1)

/-- The buffers that an STN_TLOAD fills (R80). -/
def tloadBuffers (w3 : Word) : List Nat := if fld w3 23 20 = 8 then [0, 1] else [fld w3 17 17]

/-- STN_TLOAD (R78 to R80): the buffers count as not loaded until the load completes. -/
def execStnTload (bay : Fin 48) (q : Fin 4) (s : State) : Out :=
  stnStart 0x03 bay q (fun c rest s =>
    let w3 := cword c.words 3
    let arrs := arraysOf c.head.arrays
    let slots := (s.bay bay).copySlots [fld w3 31 28, fld w3 27 24]
    let (s, st) := s.beginCmd bay q c rest (if fld w3 23 20 = 8 then 256 else 128) 0 slots []
    let y := (s.bay bay).pauseDrains arrs (if fld w3 23 20 = 8 then 256 else 128)
    let y := arrs.foldl (fun (y : Bay) a => (tloadBuffers w3).foldl (fun y bf => y.setTile a bf Tile.empty) y) y
    match (s.setBay bay y).loadTiles bay st (slots.getD 0 AgSlot.init) (slots.getD 1 AgSlot.init) arrs 0 with
    | (s', none) => s'
    | (s', some (r, a)) => s'.cmdFault bay st r a) s

/-- STN_INJECT (R82): its rows leave by ROW_INJECTION. -/
def execStnInject (bay : Fin 48) (q : Fin 4) (s : State) : Out :=
  stnStart 0x04 bay q (fun c rest s =>
    let w3 := cword c.words 3
    let slots := (s.bay bay).copySlots [fld w3 31 28, fld w3 27 24]
    (s.beginCmd bay q c rest 1 (fld (cword c.words 4) 9 0) slots []).1) s

/-- A ramp that falls climbs back from the step it has reached (R96). -/
def Ramp.turn (r : Ramp) (now : Nat) : Ramp := if decide (r.step = 0) || r.rising then r else { r with rising := true, since := now }

/-- An array climbs from the step it stands at: the start of a ramp up (R95, R96). -/
def State.rampUp (s : State) (b a : Nat) : State :=
  let y := s.bay b
  let r := y.ramp a
  s.setBay b (y.setRamp a
    (if r.step = 0 then { r with step := 1, rising := true, code := fld (s.reg (aBay b 0x0008)) 1 0, since := y.clk.cyc, credit := 0 }
     else r.turn y.clk.cyc))

/-- Which bank an array is filling (STN_STATUS.BANK_A, BANK_B). -/
def State.fillBank (s : State) (b a bank : Nat) : State :=
  let y := s.bay b
  s.setBay b (if a = 0 then { y with bankA := decide (bank = 1) } else { y with bankB := decide (bank = 1) })

/-- STN_MMA (R81, R83): the pairing is checked against the tile it starts on; its rows come by PASS_ROW_ARRIVAL and
ROW_INJECTION. -/
def execStnMma (bay : Fin 48) (q : Fin 4) (s : State) : Out :=
  stnStart 0x05 bay q (fun c rest s =>
    let w3 := cword c.words 3
    let (s1, st) := s.beginCmd bay q c rest 1 (fld w3 9 0) [] []
    if tilesPair (s.bay bay) (tilesUsed c.words).2 (tilesUsed c.words).1 then
      (arraysOf c.head.arrays).foldl (fun s a => (s.rampUp bay a).fillBank bay a (fld w3 17 17)) s1
    else s1.cmdFault bay st fltOperandCase 0) s

/-- STN_CARRY (R81, R85): both arrays, NTILES tiles; its carried rows come by CARRY_BEAT_ARRIVAL, or leave this station
first by ROW_INJECTION when it is their origin. -/
def execStnCarry (bay : Fin 48) (q : Fin 4) (s : State) : Out :=
  stnStart 0x06 bay q (fun c rest s =>
    let w3 := cword c.words 3
    let w4 := cword c.words 4
    let slots := (s.bay bay).copySlots [fld w3 31 28, fld w3 27 24]
    let (s1, st) := s.beginCmd bay q c rest 1 (fld w4 9 0) slots []
    if tilesPair (s.bay bay) (tilesUsed c.words).2 (tilesUsed c.words).1 then
      [0, 1].foldl (fun s a => (s.rampUp bay a).fillBank bay a (fld w3 15 15)) s1
    else s1.cmdFault bay st fltOperandCase 0) s

/-- The exchange record's field at an offset, n bytes, of a context that has one (Table 8.1). -/
def State.xrecField (s : State) (p c off n : Nat) : Option Nat :=
  match (s.ctx p c).book with
  | some b => b.xrec.map (fun a => leNat (s.bytes (a + off) n))
  | none => none

/-- The G16 scale a drain uses (R86, R223). -/
def State.drainScale (s : State) (p c g : Nat) : Nat := if g = 0 then (s.xrecField p c 0x008 1).getD 0 else g

/-- A drained row of one array: its values rounded to the format, scale bytes and flags (R86, R87, R107, R122). -/
def drainRow (fmt : Nat) (gscale : Nat) (mode : Nat → Rnd) (vals : List Num) : List Nat × List Byte × StickyFlags :=
  match elemFmt fmt with
  | some f =>
    if isMx fmt then
      let bs := chunks 32 4 vals
      let rs := (bs.zip (List.range 4)).map (fun p => narrowBlock f (fun i => mode (32 * p.2 + i)) p.1)
      ((rs.map (fun r => r.2.1)).flatten, rs.map (fun r => r.1), rs.foldl (fun a r => a ||| r.2.2) 0)
    else
      let k : Int := if fmt = 9 then 127 - (gscale : Int) else 0
      match f with
      | .fp g =>
        let rs := (vals.zip (List.range vals.length)).map (fun p => g.narrow false (mode p.2) (p.1.scale k))
        (rs.map Prod.fst, [], orFlags rs)
      | .int8 => ([], [], 0)
  | none => ([], [], 0)

/-- The value a drained element stands for, as it is passed to the row engine. -/
def drainValue (fmt gscale : Nat) (sc : List Byte) (i code : Nat) : Num :=
  if isMx fmt then scaled (sc.getD (i / 32) 127) (elemValue fmt code)
  else if fmt = 9 then (elemValue 9 code).scale ((gscale : Int) - 127) else elemValue fmt code

/-- Row i of a drain: per array, the rounded row. -/
def State.drainRowOf (s : State) (b : Nat) (c : Started) (gscale i : Nat) : List (List Nat × List Byte × StickyFlags) :=
  let w3 := cword c.words 3
  let y := s.bay b
  let eidx := (cword c.words 6).toNat + 2 ^ 32 * (cword c.words 7).toNat
  let key := (s.ctx c.part c.ctx).key
  let step := s.stepOf c.part c.ctx
  (arraysOf c.head.arrays).map (fun a =>
    drainRow (fld w3 23 20) gscale
      (fun j => if fld w3 19 18 = 2 then .sr (srBits key (cword c.words 5) step ((eidx + i * 256 + 128 * a + j) % 2 ^ 64))
                else rndOf (fld w3 19 18) 0)
      ((List.range 128).map (fun n => a28 (y.accAt a (fld w3 17 17) (fld w3 15 7 + i) n))))

/-- Write rows i, i + 1, … of a drain to the scratchpad. -/
def State.drainOut (s : State) (b : Nat) (c : Started) (gscale : Nat) (dslot sslot : AgSlot) (i : Nat) :
    Nat → State × Option (Nat × Nat)
  | 0 => (s, none)
  | k + 1 =>
    let fmt := fld (cword c.words 3) 23 20
    let rs := s.drainRowOf b c gscale i
    let data := packBytes fmt (rs.map (fun r => r.1)).flatten
    let sc := (rs.map (fun r => r.2.1)).flatten
    -- nothing is moved for a row that lacks its scale address (R76)
    if isMx fmt && decide (sslot.total ≤ i) then (s, some (fltShape, 0))
    else
    match s.slotWrite c.part c.ctx b dslot i 64 data with
    | (s1, some e) => (s1, some e)
    | (s1, none) =>
      match (if isMx fmt then s1.slotWrite c.part c.ctx b sslot i sc.length sc else (s1, none)) with
      | (s2, some e) => (s2, some e)
      | (s2, none) =>
        (s2.stnFlags b (rs.foldl (fun a r => a ||| r.2.2) 0)).drainOut b c gscale dslot sslot (i + 1) k

/-- Cycles per drained row (R49). -/
def drainCycles (fmt : Nat) : Nat := if fmt = 4 then 1 else if fmt = 8 ∨ fmt = 9 then 4 else 2

/-- A row of 128 raw containers (R88, Table 4.3). -/
def containers (vals : List (BitVec 28)) : List Byte := (vals.map (fun v => toLE 4 v.toNat)).flatten

/-- Container rows of an STN_SPILL or STN_FILL, in their order (R88): array, bank and row, or a ledger row. -/
def spillRows (w3 : Word) (arrays : Nat) : List (Nat × Nat × Nat) :=
  let banks := (if bit w3 26 then [0] else []) ++ (if bit w3 27 then [1] else [])
  ((arraysOf arrays).map (fun a => (banks.map (fun k => (List.range 512).map (fun r => (a, k, r)))).flatten)).flatten ++
    (if bit w3 25 then (List.range 128).map (fun r => (2, 0, r)) else [])

/-- Write the container rows. -/
def State.spillOut (s : State) (b : Nat) (c : Started) (slot : AgSlot) : List (Nat × Nat × Nat) → Nat → State × Option (Nat × Nat)
  | [], _ => (s, none)
  | (a, k, r) :: rest, i =>
    let y := s.bay b
    let row := if a = 2 then ((List.range 128).map (fun e => toLE 4 (sget 0 y.ledger (128 * r + e)).toNat)).flatten
      else containers ((List.range 128).map (y.accAt a k r))
    match s.slotWrite c.part c.ctx b slot i 64 row with
    | (s1, some e) => (s1, some e)
    | (s1, none) => s1.spillOut b c slot rest (i + 1)

/-- Read the container rows back, bits 31:28 ignored in accumulators. -/
def State.fillIn (s : State) (b : Nat) (c : Started) (slot : AgSlot) : List (Nat × Nat × Nat) → Nat → State × Option (Nat × Nat)
  | [], _ => (s, none)
  | (a, k, r) :: rest, i =>
    match s.slotRead c.part c.ctx b slot i 512 64 with
    | (s1, .error e) => (s1, some e)
    | (s1, .ok v) =>
      let ws := (chunks 4 128 v).map leNat
      let y := s1.bay b
      let y := if a = 2 then
          { y with ledger := (ws.zip (List.range 128)).foldl
                      (fun m p => sset 0 m (128 * r + p.2) (BitVec.ofNat 32 p.1)) y.ledger }
        else y.setAccRow a k r (ws.map (BitVec.ofNat 28))
      (s1.setBay b y).fillIn b c slot rest (i + 1)

/-- The feeders a spill or a fill holds (Table 3.17). -/
def spillFeeders (w3 : Word) (arrays : Nat) : List Nat := (if bit w3 25 then [0] else []) ++ arraysOf arrays

/-- Cycles of a spill or fill: the feeders of the arrays work at once, the ledger adds 512 on feeder A (R88). -/
def spillCycles (w3 : Word) (arrays : Nat) : Nat :=
  let banks := (if bit w3 26 then 1 else 0) + (if bit w3 27 then 1 else 0)
  let led := if bit w3 25 then 512 else 0
  if arrays = 2 then max (2048 * banks) led else 2048 * banks + led

/-- STN_SPILL (R88): accumulator banks, and the ledger if asked, as raw containers. -/
def execStnSpill (bay : Fin 48) (q : Fin 4) (s : State) : Out :=
  stnStart 0x08 bay q (fun c rest s =>
    let w3 := cword c.words 3
    let slots := (s.bay bay).copySlots [fld w3 31 28]
    let L := spillCycles w3 c.head.arrays
    let (s, st) := s.beginCmd bay q c rest L 0 slots []
    let s := s.setBay bay ((s.bay bay).pauseDrains (spillFeeders w3 c.head.arrays) L)
    match s.spillOut bay st (slots.getD 0 AgSlot.init) (spillRows w3 c.head.arrays) 0 with
    | (s', none) => s'
    | (s', some (r, a)) => s'.cmdFault bay st r a) s

/-- STN_FILL (R88): the containers read back. -/
def execStnFill (bay : Fin 48) (q : Fin 4) (s : State) : Out :=
  stnStart 0x09 bay q (fun c rest s =>
    let w3 := cword c.words 3
    let slots := (s.bay bay).copySlots [fld w3 31 28]
    let L := spillCycles w3 c.head.arrays
    let (s, st) := s.beginCmd bay q c rest L 0 slots []
    let s := s.setBay bay ((s.bay bay).pauseDrains (spillFeeders w3 c.head.arrays) L)
    match s.fillIn bay st (slots.getD 0 AgSlot.init) (spillRows w3 c.head.arrays) 0 with
    | (s', none) => s'
    | (s', some (r, a)) => s'.cmdFault bay st r a) s

end Sys2Proof.Machine
end

