-- ==== Sys2Proof/Machine/Wakes.lean ====
section
/-!
DEFINITION. Machine/Wakes.lean: the caps that govern a bay's clock, and the wakes of one that is stopped (R324, R327, R334 to
R336).
-/
namespace Sys2Proof.Machine

/-- Change a bay's clock. -/
def State.setClk (s : State) (b : Nat) (f : BayClk → BayClk) : State :=
  let y := s.bay b
  s.setBay b { y with clk := f y.clk }

/-- The cap register of the half a bay lies in (R327). -/
def halfCap (east : Bool) : Nat := aClk (if east then 0x08 else 0x04)
def bayEast (b : Nat) : Bool := decide (6 ≤ b % 12)

/-- Throttling is in force (R328). -/
def State.throttling (s : State) : Bool := s.clock.thrPin || s.clock.thrSupply

/-- CLK_STATUS.THR_SRC. -/
def State.thrSrc (s : State) : Nat := (if s.clock.thrPin then 1 else 0) + (if s.clock.thrSupply then 2 else 0)

/-- Lowest cap of a half in force (CLK_STATUS.EFF_E, EFF_W). -/
def State.effCap (s : State) (east : Bool) : Nat :=
  let w := s.reg (halfCap east)
  min (min (fld w 6 0) (fld w 14 8)) (if s.throttling then 5 else 0x5A)

/-- BAY_CLKCFG of a bay. -/
def State.clkcfg (s : State) (b : Nat) : Word := s.reg (aBay b 0x4000)

/-- The adaptive limit is in use (R326). -/
def State.adapt (s : State) (b : Nat) : Bool := bit (s.clkcfg b) 8

/-- A bay's target code: the lowest of its caps (R324). -/
def State.target (s : State) (b : Nat) : Nat :=
  min (min (fld (s.clkcfg b) 6 0) (s.effCap (bayEast b))) (if s.adapt b then (s.bay b).clk.alimit else 0x5A)

/-- PTP ends, with PTP_EN cleared or the link down (R360, R366): the lock goes, and in the chain master house time runs from the
reference again (R322). -/
def State.ptpEnd (s : State) : State :=
  { s with eth := { s.eth with ptpGood := 0, ptpMaster := none, ptpDelay := 0, ptpSync := none, ptpReq := none },
           clock := { s.clock with trim := if s.chain.head then 0 else s.clock.trim } }

/-- A wake request of a bay (R335). One that finds the event of another in its crossing merges with it and sets the overrun
flag (R334). A stopped clock starts, at the lower of its code and its target, and counts the wake; a stop of the same instant
is undone, and one that follows in it has no effect: the wake wins. -/
def State.wakeBay (s : State) (b : Nat) : State :=
  let c := (s.bay b).clk
  let now := some s.clock.uptime
  let s := if c.wakeEv then s.orReg (aClk 0x1C) 1 else s
  let s := s.setClk b (fun c => { c with woke := now, wakeEv := c.wakeEv || c.stopped })
  if !c.stopped then s
  else if c.stopAt = now then s.setClk b (fun c => { c with stopped := false })
  else
    (s.setClk b (fun c => { c with stopped := false, code := min c.code (s.target b), busyCyc := c.cyc, phase := 0 })).countSat
      (aBay b 0x4010) 1

/-- A register access, or the scrub timer, wakes a bay whose clock is stopped (R166, R336). -/
def State.wakeIfStopped (s : State) (b : Nat) : State := if (s.bay b).clk.stopped then s.wakeBay b else s

/-- Registers of the die can be written: its rails are on. -/
def whenOn (s : State) (t : State) : Out := if s.ymr.dieOn then .next t else idle s

/-- An access to a register of a bay: it wakes the bay if its clock is stopped, and then completes (R336). -/
def whenOnBay (b : Nat) (s : State) (f : State → State) : Out := whenOn s (f (s.wakeIfStopped b))

end Sys2Proof.Machine
end

