-- ==== Sys2Proof/Machine/StationEvents.lean ====
section
/-!
DEFINITION. Machine/StationEvents.lean: command packets that reach an engine queue, completion of started commands, and
the station's own registers (R41, R66, R68 to R71, R101, R102, R422).
-/
namespace Sys2Proof.Machine

/-- Reserved values in the non-format fields of a stream command, and its other issue checks (R304, R308). -/
def State.streamCheck (s : State) (bay queue : Nat) (ws : List Word) : Option Nat :=
  let h := cmdHead (cword ws 0)
  let op := bayOp 5 ws
  let w3 := cword ws 3
  let w4 := cword ws 4
  let xfer := decide (0x41 ≤ op ∧ op ≤ 0x44)
  let tag0 := fld w3 19 13
  let ntags := fld w3 12 5
  let held := (s.bay bay).started.any (fun c =>
    decide (5 ≤ c.queue) && decide (c.queue ≠ 5 + queue) && decide (0x41 ≤ c.op) &&
      (let t := fld (cword c.words 3) 19 13
       let n := fld (cword c.words 3) 12 5
       decide (tag0 < t + n) && decide (t < tag0 + ntags)))
  firstOf [
    (!(decide (0x40 ≤ op ∧ op ≤ 0x44)), fltOpcode),
    (decide (h.words ≠ (if op = 0x40 then 6 else 4)), fltOpcode),
    (decide (op = 0x40) && decide (fld (cword ws 1) 27 26 = 3), fltOpcode),
    ((h.wait && decide (63 < h.waitFlag)) || (h.set && decide (63 < h.setFlag)), fltRange),
    (xfer && rangeBad 5 ws, fltRange),
    (xfer && (decide (ntags = 0) || decide (128 < tag0 + ntags)), fltTag),
    (decide (op = 0x42 ∨ op = 0x44) && decide (fld w4 31 16 = 0), fltOperandCase),
    (decide (op = 0x43 ∨ op = 0x44) && decide (fld w4 4 0 < 8), fltAlign),
    (xfer && held, fltTag)]

/-- The first of a link engine's queues in LinkEng.queues, by INDEX of Table 9.10: 0 Ethernet, 1 chain W, 2 chain E. -/
def linkQueue (index queue : Nat) : Nat := (if index = 1 then 0 else if index = 0 then 3 else 6) + queue

/-- The words a link engine's queue takes (R209, R227, R244); the other checks are made as the command starts
(entry 16). -/
def linkCheck (index queue : Nat) (ws : List Word) : Option Nat :=
  let h := cmdHead (cword ws 0)
  firstOf [
    (!(decide (index = 1) && ((decide (h.opcode = 0x30) && decide (queue = 0)) ||
        (decide (h.opcode = 0x31 ∨ h.opcode = 0x32) && decide (queue = 1)))), fltOpcode),
    (decide (h.words ≠ (if h.opcode = 0x30 then 5 else if h.opcode = 0x31 then 6 else 1)), fltOpcode),
    ((h.wait && decide (63 < h.waitFlag)) || (h.set && decide (63 < h.setFlag)), fltRange)]

/-- The fault class of Table 9.13 of an engine class of Table 9.10. -/
def classOf (cls op : Nat) : Nat :=
  if cls = 0 then (if 0x10 ≤ op ∧ op ≤ 0x16 then 1 else 0) else if cls = 1 then 3 else if cls = 2 then 4 else 7

/-- INDEX of a fault record for an engine of a class (Table 9.13). -/
def indexOf (cls bay index : Nat) : Nat := if cls = 0 then stationOfBay bay else if cls = 3 then index else 0

/-- The queue of a bay engine in Bay.queues. -/
def bayQueue (cls queue : Nat) : Nat := if cls = 0 then queue else if cls = 1 then 4 else 5 + queue

/-- An STN_MMA or STN_CARRY released while a ramp of its arrays falls makes it climb back (R96). -/
def Bay.turnRamps (y : Bay) (ws : List Word) : Bay :=
  let h := cmdHead (cword ws 0)
  if h.opcode = 0x05 ∨ h.opcode = 0x06 then
    (arraysOf h.arrays).foldl (fun (y : Bay) a => y.setRamp a ((y.ramp a).turn y.clk.cyc)) y
  else y

/-- A packet enters an engine queue after its issue checks (R71, R73, R147, R168, R228, R304). -/
def State.enterQueue (s : State) (cls bay index queue : Nat) (ws : List Word) (part ctx : Nat) (bookoff : Word) : State :=
  let op := (cmdHead (cword ws 0)).opcode
  let bad :=
    if cls = 0 then (s.bay bay).stnIssue ws
    else if cls = 1 then s.dispCheck part ctx ws
    else if cls = 2 then s.streamCheck bay queue ws
    else linkCheck index queue ws
  match bad with
  | some r => s.sendFault r part ctx (classOf cls op) (if cls = 3 then 0xFF else bay) (indexOf cls bay index) bookoff 0 []
  | none =>
    let c : QCmd := { words := ws, part := part, ctx := ctx, bookoff := bookoff, waitSeen := false }
    if cls = 3 then
      let l := s.link part
      (s.setLink part (l.setQueue (linkQueue index queue) (l.queue (linkQueue index queue) ++ [c]))).testLinks part
    else
      let y := if cls = 0 then (s.bay bay).turnRamps ws else s.bay bay
      (s.setBay bay (y.setQueue (bayQueue cls queue) (y.queue (bayQueue cls queue) ++ [c]))).testHeads bay

/-- COMMAND_ARRIVAL (R71): packet i of those that reached their node enters its queue. Into a fenced engine it is
refused and its context faults with FLT_FENCED (R422); what reaches an engine after its drain, and what belongs to a
context that has faulted, is discarded (R419, R422). A stopped bay takes it after its wake (R333). -/
def execCommandArrival (i : Nat) (s : State) : Out :=
  match s.cueArrived[i]? with
  | some (.command cls bay index queue ws part ctx bookoff cp) =>
    let s' := { s with cueArrived := listDrop s.cueArrived i }
    let s' := s'.cpDelivered cp
    if decide (cls < 3) && (s.bay bay).clk.stopped then idle s
    else if s.engineDead cls bay index part then .next s'
    else if s.engineFenced cls bay index part then
      .next (s'.sendFault fltFenced part ctx 6 0xFF cp bookoff 0 [])
    else if (s.ctx part ctx).st = 6 then .next s'
    else .next (s'.enterQueue cls bay index queue ws part ctx bookoff)
  | _ => idle s

/-- Every stagehand of a command's set has halted since that command started it (Table 5.9, R149, R150). -/
def State.setHalted (s : State) (c : Started) : Bool :=
  c.set.all (fun l => !((s.hand l).running && decide ((s.hand l).startId = c.id)))

/-- A started command has reached its completion event (R101, Table 3.18, Table 5.9, R311). -/
def State.completes (s : State) (b : Nat) (c : Started) : Bool :=
  decide (c.left = 0) && decide (c.earliest ≤ (s.bay b).clk.cyc) &&
    (!(decide (c.queue = 4)) || decide (c.op = 0x20) || s.setHalted c)

/-- The tile buffers of a completed STN_TLOAD count as loaded (R80). -/
def Bay.tilesLoaded (y : Bay) (c : Started) : Bay :=
  if c.isStation && decide (c.op = 0x03) && !c.noFlag then
    (arraysOf c.head.arrays).foldl (fun (y : Bay) a =>
      (tloadBuffers (cword c.words 3)).foldl (fun (y : Bay) bf => y.setTile a bf { y.tile a bf with loaded := true }) y) y
  else y

/-- COMMAND_COMPLETION (R101): command id of a bay completes, sets its SET flag, and frees its entries (R167). -/
def execCommandCompletion (bay : Fin 48) (id : Nat) (s : State) : Out :=
  let y := s.bay bay
  match y.started.find? (fun c => decide (c.id = id)) with
  | some c =>
    if s.completes bay c && !y.clk.stopped then
      let y := { y.tilesLoaded c with
                   started := y.started.filter (fun x => decide (x.id ≠ id)),
                   freeing := y.freeing.filter (fun x => decide (y.clk.cyc ≤ x.2.2)) ++ [(c.queue, c.words, y.clk.cyc)] }
      let s := s.setBay bay y
      let s := if c.head.set && !c.noFlag then s.sendCrt bay (.flagSet c.part c.head.setFlag) else s
      .next (s.commandDone c.part c.ctx)
    else idle s
  | none => idle s

/-- A value 1 or 2 that a link field of a station accepts (R66, R69): CW_OUT, CW_IN, CCW_OUT, CCW_IN as 0 to 3. -/
def linkFieldOk (st field v : Nat) : Bool :=
  let from_ := crossoverFrom.contains st
  let to_ := crossoverTo.contains st
  if v = 1 then (if field = 0 ∨ field = 3 then from_ else to_)
  else if v = 2 then (if field = 0 ∨ field = 3 then decide (st = 33 ∨ st = 46) else decide (st = 34 ∨ st = 47))
  else true
where
  crossoverFrom : List Nat := [5, 22, 27, 46, 17, 39, 12, 32]
  crossoverTo : List Nat := [18, 47, 40, 23, 6, 28, 33, 13]

/-- Whether STN_LINKCFG of a station takes a value (R69). -/
def linkcfgOk (st : Nat) (v : Word) : Bool :=
  linkFieldOk st 0 (fld v 11 10) && linkFieldOk st 1 (fld v 9 8) && linkFieldOk st 2 (fld v 15 14) &&
    linkFieldOk st 3 (fld v 13 12) && decide (fld v 1 0 ≠ 3)

/-- Write of STN_LINKCFG (R69). -/
def State.writeLinkcfg (s : State) (b : Nat) (v : Word) : State :=
  if linkcfgOk (stationOfBay b) v && !(s.bay b).running then s.setReg (aBay b 0x0004) (v &&& 0xFF03)
  else s.orReg (aBay b 0x000C) 1

/-- Write of STN_RAMPCFG (R69); the new length takes effect at the next ramp up (R95). -/
def State.writeRampcfg (s : State) (b : Nat) (v : Word) : State :=
  if fld v 1 0 = 3 then s.orReg (aBay b 0x000C) 1 else s.setReg (aBay b 0x0008) (v &&& 3)

/-- Write of STN_CNTCTL: CLEAR sets the tap, busy and stall counters to 0, FREEZE holds them (Table 2.10). -/
def State.clearCounters (s : State) (b : Nat) : State :=
  let s := [0x0020, 0x0024, 0x0028, 0x002C].foldl (fun s off => s.setReg (aBay b off) 0) s
  s.setBay b { s.bay b with tapCount := 0 }

def State.writeCntctl (s : State) (b : Nat) (v : Word) : State :=
  let s := s.setReg (aBay b 0x0034) (v &&& 1)
  if bit v 1 then s.clearCounters b else s

/-- STN_LINKCFG_WRITE (R69). -/
def execStnLinkcfgWrite (bay : Fin 48) (v : Word) (s : State) : Out := whenOnBay bay s (fun s => s.writeLinkcfg bay v)

/-- STN_RAMPCFG_WRITE (R69). -/
def execStnRampcfgWrite (bay : Fin 48) (v : Word) (s : State) : Out := whenOnBay bay s (fun s => s.writeRampcfg bay v)

/-- STN_CNTCTL_CLEAR (R68): CLEAR alone; FREEZE keeps its value. -/
def execStnCntctlClear (bay : Fin 48) (s : State) : Out := whenOnBay bay s (fun s => s.clearCounters bay)

/-- STN_CNTCTL_FREEZE (R68). -/
def execStnCntctlFreeze (bay : Fin 48) (on : Bool) (s : State) : Out :=
  whenOnBay bay s (fun s => s.setReg (aBay bay 0x0034) (if on then 1 else 0))

end Sys2Proof.Machine
end

