-- ==== Sys2Proof/Machine/Clocks.lean ====
section
/-!
DEFINITION. Machine/Clocks.lean: bay clocks, caps, throttling, loss of the reference, event crossings, house time
(R321 to R341).
-/
namespace Sys2Proof.Machine

/-- FREQUENCY_MOVE (R326, Table 11.2): one code down at once, one code up no sooner than 1 µs after the last move; none
while the clock is stopped or runs from its own oscillator (R329). -/
def execFrequencyMove (bay : Fin 48) (s : State) : Out :=
  let c := (s.bay bay).clk
  let t := s.target bay
  if c.stopped || c.fallback then idle s
  else if t < c.code then .next (s.setClk bay (fun c => { c with code := c.code - 1, moved := s.clock.house }))
  else if c.code < t ∧ c.moved + 1000 ≤ s.clock.house then
    .next (s.setClk bay (fun c => { c with code := c.code + 1, moved := s.clock.house }))
  else idle s

/-- DROOP_STRETCH (R325): the next period is lengthened by an eighth or a quarter, the deepest of several; a signal
while the clock is stopped has no effect. -/
def execDroopStretch (bay : Fin 48) (deep : Bool) (s : State) : Out :=
  if (s.bay bay).clk.stopped then idle s
  else .next (s.setClk bay (fun c => { c with nextEighths := max c.nextEighths (if deep then 10 else 9) }))

/-- Lower the adaptive limit by n codes, not below 0, counted in BAY_CLKSTEP (R326). -/
def State.lowerLimit (s : State) (b n : Nat) : State :=
  let a := (s.bay b).clk.alimit
  (s.setClk b (fun c => { c with alimit := a - n })).countSat (aBay b 0x400C) (min a n)

/-- ADAPTIVE_WINDOW (R326, Table 11.2): 16,384 cycles have passed since the window began. -/
def execAdaptiveWindow (bay : Fin 48) (s : State) : Out :=
  let c := (s.bay bay).clk
  if c.cyc < c.winStart + 16384 then idle s
  else
    let quiet := if c.winStretch ≤ 16 then c.quiet + 1 else 0
    let s := s.setClk bay (fun c => { c with winStart := c.winStart + 16384, winStretch := 0, quiet := quiet % 16 })
    if !(s.adapt bay) then .next (s.setClk bay (fun c => { c with quiet := 0 }))
    else if 256 < c.winStretch then .next (s.lowerLimit bay 1)
    else if quiet = 16 then .next (s.setClk bay (fun c => { c with alimit := min 0x5A (c.alimit + 1) }))
    else .next s

/-- ADAPTIVE_DROP (R326): 64 consecutive stretched periods lower the limit by five codes at once. -/
def execAdaptiveDrop (bay : Fin 48) (s : State) : Out :=
  if s.adapt bay && decide (64 ≤ (s.bay bay).clk.runLen) then
    .next ((s.setClk bay (fun c => { c with runLen := c.runLen - 64 })).lowerLimit bay 5)
  else idle s

/-- Write of the HOST field of a half's cap (R327). -/
def State.writeCap (s : State) (east : Bool) (v : Word) : State :=
  if 0x5A < fld v 6 0 then s.orReg (aClk 0) 0x80
  else s.setReg (halfCap east) (setFld (s.reg (halfCap east)) 6 0 (fld v 6 0))

/-- CLK_CAP_WRITE (R327). -/
def execClkCapWrite (east : Bool) (v : Word) (s : State) : Out := whenOn s (s.writeCap east v)

/-- Write of BAY_CLKCFG (R341): a code above 0x5A in its cap field is rejected there and in CLK_STATUS (R327). -/
def State.writeClkcfg (s : State) (b : Nat) (v : Word) : State :=
  if 0x5A < fld v 6 0 then (s.orReg (aBay b 0x4000) 0x80000000).orReg (aClk 0) 0x80
  else s.setReg (aBay b 0x4000) ((v &&& 0x37F) ||| (s.clkcfg b &&& 0x80000000 &&& ~~~v))

/-- BAY_CLKCFG_WRITE (R341). -/
def execBayClkcfgWrite (bay : Fin 48) (v : Word) (s : State) : Out := whenOnBay bay s (fun s => s.writeClkcfg bay v)

/-- A throttle request begins (R328): every start of throttling is counted and logged. -/
def State.throttleOn (s : State) (supply : Bool) : State :=
  let was := s.throttling
  let s := { s with clock := if supply then { s.clock with thrSupply := true } else { s.clock with thrPin := true } }
  let s := if supply then s.setAlert 4 else s
  if was then s else (s.countSat (aClk 0x24) 1).logEvent 0x0031 whereModule s.thrSrc

def State.throttleOff (s : State) (supply : Bool) : State :=
  { s with clock := if supply then { s.clock with thrSupply := false } else { s.clock with thrPin := false } }

/-- THROTTLE_START (R328): TRAY_THROTTLE_N goes low, or the supply monitor calls for throttling. -/
def execThrottleStart (supply : Bool) (s : State) : Out :=
  let s := if supply then s else { s with pins := { s.pins with throttleN := false } }
  if s.ymr.dieOn && !(if supply then s.clock.thrSupply else s.clock.thrPin) then .next (s.throttleOn supply) else .next s

/-- THROTTLE_END (R328, Table 16.3): TRAY_THROTTLE_N goes high, or the supply's request ends, 1 ms after the input has
risen to 46 V. -/
def execThrottleEnd (supply : Bool) (s : State) : Out :=
  if supply then
    if s.clock.sag = none ∧ s.clock.sagEnd + 1000000 ≤ s.clock.house then .next (s.throttleOff true) else idle s
  else .next (({ s with pins := { s.pins with throttleN := true } } : State).throttleOff false)

/-- WAKE_REQUEST (R335): a crossing holds something for a bay. -/
def execWakeRequest (bay : Fin 48) (s : State) : Out := .next (s.wakeBay bay)

/-- EVENT_CROSSING (R334): the event has crossed; the receiver reads the state it refers to. -/
def execEventCrossing (x : EventXing) (s : State) : Out :=
  match x with
  | .wake b => .next (s.setClk b (fun c => { c with wakeEv := false }))
  | .scrubWake b => .next (s.setClk b (fun c => { c with scrubEv := false }))
  | .fltNotify => .next { s with clock := { s.clock with faultEv := false } }
  | .mailbox n => .next (s.setMail n { s.mail n with doorbell := false })

/-- What R336 asks of an idle bay. -/
def State.bayIdle (s : State) (b : Nat) : Bool :=
  let y := s.bay b
  let st := stationOfBay b
  y.queues.isEmpty && y.started.isEmpty && y.transfers.isEmpty && !(s.handsRunning b) && y.tapCw.isNone && y.tapCcw.isNone &&
    y.carryCw.isEmpty && y.carryCcw.isEmpty &&
    !(s.revolve.any (fun kv => decide (kv.1 / 8 = st))) &&
    !(s.flits.any (fun f => decide (handBay f.at_ = b)))

/-- AUTOSTOP (R336): after 4,096 consecutive idle cycles the bay stops its clock; a wake of the same instant wins (R335). -/
def execAutostop (bay : Fin 48) (s : State) : Out :=
  let c := (s.bay bay).clk
  if bit (s.clkcfg bay) 9 && !c.stopped && s.bayIdle bay && decide (c.busyCyc + 4096 ≤ c.cyc) && s.ymr.dieOn &&
      decide (c.woke ≠ some s.clock.uptime) then
    .next (s.setClk bay (fun c => { c with stopped := true, stopAt := some s.clock.uptime }))
  else idle s

/-- Every link of the die goes down with the reference (R329, R362, R370). -/
def State.linksDown (s : State) : State :=
  let down := fun (e : Bool) (s : State) =>
    let x := s.port e
    if x.up then (s.setPort e { x with up := false, downSince := s.clock.house }).countSat (aChn e 0x24) 1 else s
  let s := (down true (down false s)).ptpEnd
  { s with eth := { s.eth with link := false } }

/-- REFERENCE_LOSS (R329). -/
def execReferenceLoss (s : State) : Out :=
  if s.ymr.dieOn then
    let s := (List.range 48).foldl (fun s b => s.setClk b (fun c => { c with fallback := true })) s
    let s := { s with clock := { s.clock with refLost := true, refOk := false } }
    .next (((s.linksDown.countSat (aClk 0x20) 1).setAlert 0x10).logEvent 0x0030 whereModule 0)
  else idle s

/-- REFERENCE_OK (R330): the reference has been good for 10 ms; only an L4 reset returns to it. -/
def execReferenceOk (s : State) : Out :=
  if s.clock.refLost then .next { s with clock := { s.clock with refOk := true } } else idle s

/-- CLK_HT_LO_READ (R323): the read latches the upper word of house time. -/
def State.latchHouse (s : State) : State :=
  { s with clock := { s.clock with latch := BitVec.ofNat 32 (s.clock.house / 2 ^ 32) } }
def execClkHtLoRead (s : State) : Out := whenOn s s.latchHouse

/-- BAY_CYC_LO_READ (R341): the read latches the upper word of the cycle count. -/
def State.latchCyc (s : State) (b : Nat) : State :=
  s.setClk b (fun c => { c with latch := BitVec.ofNat 32 (c.cyc / 2 ^ 32) })
def execBayCycLoRead (bay : Fin 48) (s : State) : Out := whenOnBay bay s (fun s => s.latchCyc bay)

/-- Thousandths of a cycle that pass in a nanosecond at a code; 1.0 GHz on the fallback oscillator (R324, R329). -/
def BayClk.rate (c : BayClk) : Nat := if c.fallback then 1000 else 800 + 10 * c.code

/-- Whole periods that end in the next nanosecond, one after another: a stretched one is eighths / 8 as long (R325). -/
def BayClk.run : Nat → BayClk → BayClk
  | 0, c => c
  | fuel + 1, c =>
    if c.phase < 1000 * c.eighths then c
    else
      let e := c.nextEighths
      BayClk.run fuel
        { c with phase := c.phase - 1000 * c.eighths, cyc := c.cyc + 1, eighths := e, nextEighths := 8,
                 runLen := if 8 < e then c.runLen + 1 else 0,
                 winStretch := c.winStretch + (if 8 < e then 1 else 0) }

/-- One nanosecond of a bay's clock. -/
def BayClk.tick (c : BayClk) : BayClk :=
  if c.stopped then c else BayClk.run 3 { c with phase := c.phase + 8 * c.rate }

/-- Commands held only by the scoreboard (SB_STATUS.WAITING, R167). -/
def State.sbWaiting (s : State) (b : Nat) : Nat :=
  let y := s.bay b
  (y.queues.filter (fun kv =>
    match kv.2 with
    | [] => false
    | c :: _ => c.waitOk && !(y.scoreboardOk kv.1 c.words) && (decide (4 ≤ kv.1) || y.readyOk c.words))).length

/-- House time moves on by a nanosecond and the trim's share of one (R323). -/
def Clock.tick (c : Clock) (die : Bool) : Clock :=
  if die then
    let f := c.frac + c.trim
    let step : Nat := if 500000000 ≤ f then 2 else if f ≤ -500000000 then 0 else 1
    let frac := if 500000000 ≤ f then f - 500000000 else if f ≤ -500000000 then f + 500000000 else f
    let thr := if c.thrPin || c.thrSupply then c.thrNs + 1 else c.thrNs
    { c with house := c.house + step, frac := frac, uptime := c.uptime + 1, thrNs := thr % 1000 }
  else { c with uptime := c.uptime + 1 }

end Sys2Proof.Machine
end

