-- ==== Sys2Proof/Machine/CurtainNet.lean ====
section
/-!
DEFINITION. Machine/CurtainNet.lean: the curtain network: registration, numbering at the root, application at the bay
nodes, and the registers that feed it (R183 to R191).
-/
namespace Sys2Proof.Machine

/-- Registers the event at position i: it goes to the root (R183). -/
def State.register (s : State) (i : Nat) (e : CrtPend) : State :=
  let s := { s with crt := { s.crt with waiting := listDrop s.crt.waiting i,
                                        toRoot := s.crt.toRoot ++ [{ e with time := s.clock.house }] } }
  match e.cp, e.ev with
  | some n, .flagSet _ _ => s.cpDelivered n
  | some n, .flagClr _ _ => s.cpDelivered n
  | _, _ => s

/-- EVENT_REGISTRATION (R183, R187): an event is registered at its bay node, in the order in which the node's engines
sent them. SETF and CLRF of a call sheet retire with it (Table 9.9). -/
def execEventRegistration (i : Nat) (s : State) : Out :=
  match s.crt.waiting[i]? with
  | some e => if (s.crt.waiting.take i).any (fun x => decide (x.node = e.node)) then idle s else .next (s.register i e)
  | none => idle s

/-- The cycle of the curtain network that an uptime lies in: 800 MHz, or 500 MHz while the reference is lost (R183). -/
def rootCycle (lost : Bool) (t : Nat) : Nat := if lost then t / 2 else t * 4 / 5

/-- A clear reaches the root in the cycle in which it has already numbered a set of that flag: it would have come first
(R184). -/
def CurtNet.clearLate (n : CurtNet) (cyc : Nat) (ev : CrtEvent) : Bool :=
  decide (n.rootCyc = cyc) && n.rootSets.any (fun x =>
    match ev with
    | .flagClr p k => decide (x = (p, k))
    | .clearAll p => decide (x.1 = p)
    | _ => false)

/-- The root notes the sets it numbers in its present cycle (R184). -/
def CurtNet.noteSet (n : CurtNet) (cyc : Nat) (ev : CrtEvent) : CurtNet :=
  let old := if n.rootCyc = cyc then n.rootSets else []
  { n with rootCyc := cyc, rootSets := match ev with | .flagSet p k => (p, k) :: old | _ => old }

/-- The root numbers an event that is no arrival. -/
def State.numberPlain (s : State) (ev : CrtEvent) (time : Nat) : State :=
  let q := s.crt.seq + 1
  { s with crt := { s.crt with seq := q, numbered := s.crt.numbered ++ [{ seq := q, ev := ev, release := none, time := time }] } }

/-- The context of an arriver at a disabled curtain faults with FLT_RANGE (R186): the record is the arriver's own. -/
def State.arriveFault (s : State) (p ctx cls idx : Nat) : State :=
  if cls = 2 then s.shFault idx fltRange 0
  else if cls = 6 then s.cpFault idx fltRange
  else
    let l := s.link p
    let book := l.step.elim 0xFFFFFFFF (fun (_ : StepClose) => l.stepBook)
    (s.setLink p { l with step := none }).sendFault fltRange p ctx cls 0xFF idx book 0 []

/-- The root numbers an arrival (R186, R191). -/
def State.numberArrival (s : State) (p n : Nat) (pay : Byte) (ctx cls idx time : Nat) : State :=
  let c := s.curtain p n
  let ev : CrtEvent := .arrive p n pay ctx cls idx
  let count := if c.held then (c.next.map Prod.snd).getD c.count else c.count
  if count = 0 then (s.numberPlain ev time).arriveFault p ctx cls idx
  else
    let g := sget 0 s.crt.given (curtKey p n) + (if c.held then 2 else 1)
    let s := { s with crt := { s.crt with joined := sset 0 s.crt.joined (joinKey p cls idx) g } }
    if c.held then (s.setCurtain p n { c with arrived := c.arrived + 1, accNext := c.accNext ||| pay }).numberPlain ev time
    else
      let c' := { c with arrived := c.arrived + 1, acc := c.acc ||| pay }
      if c'.arrived < c.count then (s.setCurtain p n c').numberPlain ev time
      else if c.chain then
        ((s.setCurtain p n { c' with held := true }).numberPlain ev time).chainArrive p n ctx c'.acc (s.curtainCast p n) |>.reclose p n
      else (s.setCurtain p n c').releaseCurtain p n c'.acc (s.crt.seq + 1) ev time

/-- The root numbers an event. -/
def State.numberEvent (s : State) (e : CrtPend) : State :=
  match e.ev with
  | .arrive p n pay ctx cls idx => s.numberArrival p n pay ctx cls idx e.time
  | ev => s.numberPlain ev e.time

/-- ROOT_NUMBERING (R183, R184, R186): event i of those on their way reaches the root, which gives it the next number.
Events of one node reach it in order; a clear that comes in one cycle with a set of its flag is numbered before it. -/
def execRootNumbering (i : Nat) (s : State) : Out :=
  let cyc := rootCycle s.clock.refLost s.clock.uptime
  match s.crt.toRoot[i]? with
  | some e =>
    if (s.crt.toRoot.take i).any (fun x => decide (x.node = e.node)) || s.crt.clearLate cyc e.ev then idle s
    else .next (State.numberEvent { s with crt := { s.crt with toRoot := listDrop s.crt.toRoot i }.noteSet cyc e.ev } e)
  | none => idle s

/-- Stagehands of a bay that wait for a flag, or for a release, go on one cycle after it (R151, R185, Table 5.3). -/
def State.wakeHands (s : State) (b : Nat) (go : Nat → Stagehand → Bool) : State :=
  let f := fun (l : Nat) (h : Stagehand) =>
    if handBay l = b ∧ h.running = true ∧ go l h = true then
      { h with wait := .none, issue := max h.issue ((s.bay b).clk.cyc + 1) }.nextPc
    else h
  { s with stagehands := smap Stagehand.idle f s.stagehands }

/-- Cue processors at a node that wait for a flag or a release retire their entry (Table 9.9). -/
def State.wakeCps (s : State) (node : Nat) (go : Nat → CueProc → Bool) : State :=
  (List.range 4).foldl (fun s n => if cpNode n = node ∧ go n (s.cp n) = true then s.cpRetire n else s) s

/-- A flag set is seen at a node. -/
def State.flagSeen (s : State) (b p k : Nat) : State :=
  let s := s.wakeHands b (fun _ h => decide (h.part = p) && decide (h.wait = .flag k))
  let s := s.wakeCps b (fun n y => decide (s.partOfCp n = p) && decide (y.wait = .flag k))
  let s := s.testHeads b
  if b = linkNode then s.testLinks p else s

/-- The flags of the four partitions at a node, changed. -/
def State.setFlagsAt (s : State) (b : Nat) (f : BitVec 256) : State :=
  { s with crt := { s.crt with flags := sset 0 s.crt.flags b f } }
def flagMask (p k : Nat) : BitVec 256 := BitVec.ofNat 256 (2 ^ (64 * p + k))
def partMask (p : Nat) : BitVec 256 := BitVec.ofNat 256 ((2 ^ 64 - 1) * 2 ^ (64 * p))

/-- An event takes effect on the flags of a node (R183, R184). -/
def State.applyFlags (s : State) (b : Nat) (ev : CrtEvent) : State :=
  let f := sget 0 s.crt.flags b
  match ev with
  | .flagSet p k => (s.setFlagsAt b (f ||| flagMask p k)).flagSeen b p k
  | .flagClr p k => s.setFlagsAt b (f &&& ~~~(flagMask p k))
  | .clearAll p => s.setFlagsAt b (f &&& ~~~(partMask p))
  | .arrive _ _ _ _ _ _ => s

/-- Generation an arriver joined, cleared once it is released. -/
def State.joinedOk (s : State) (key r : Nat) : Bool :=
  let j := sget 0 s.crt.joined key
  decide (0 < j) && decide (j ≤ r)

/-- A release takes effect at a node: the arrivers of that generation that wait there go on (R186). -/
def State.applyRelease1 (s : State) (b p n : Nat) (payload : Byte) : State :=
  let k := 64 * b + curtKey p n
  let r := sget 0 s.crt.releases k + 1
  let s := { s with crt := { s.crt with releases := sset 0 s.crt.releases k r } }
  let s := s.wakeHands b (fun l h => decide (h.part = p) && decide (h.wait = .curtain n) && s.joinedOk (joinKey p 2 l) r)
  let s := s.wakeCps b (fun m y => decide (s.partOfCp m = p) && decide (y.wait = .curtain n) && s.joinedOk (joinKey p 6 m) r)
  if b = linkNode then
    match (s.link p).step with
    | some st =>
      if st.curt = n ∧ st.arrived = true ∧ s.joinedOk (joinKey p 7 1) r = true then
        s.setLink p { s.link p with step := some { st with released := some payload } }
      else s
    | none => s
  else s

/-- Numbered events that every node has applied leave the list, and their time counts (CRT_LATMAX). -/
def State.pruneEvents (s : State) : State :=
  match s.crt.numbered with
  | e :: rest =>
    if (List.range 48).all (fun b => decide (0 < sget 0 s.crt.applied b)) then
      let s := { s with crt := { s.crt with numbered := rest,
                                            applied := smap 0 (fun _ n => n - 1) s.crt.applied } }
      s.maxFld 0x708004 15 0 (s.clock.house - e.time)
    else s
  | [] => s

/-- EVENT_APPLICATION (R183, R185): the node of a bay applies the next event in sequence order. -/
def execEventApplication (bay : Fin 48) (s : State) : Out :=
  let n := sget 0 s.crt.applied bay
  match s.crt.numbered[n]? with
  | some e =>
    let s := { s with crt := { s.crt with applied := sset 0 s.crt.applied bay (n + 1) } }
    let s := s.applyFlags bay e.ev
    let s := match e.release with | some (p, k, pay) => s.applyRelease1 bay p k pay | none => s
    .next s.pruneEvents
  | none => idle s

/-- Write of CRT_FLAGSET or CRT_FLAGCLR: each 1 enters the curtain network as an event of the root's node (R191). -/
def State.writeFlags (s : State) (p : Nat) (hi set : Bool) (v : Word) : State :=
  (List.range 32).foldl (fun s i =>
    if bit v i then
      let k := i + (if hi then 32 else 0)
      s.sendCrt 17 (if set then .flagSet p k else .flagClr p k)
    else s) s

/-- CRT_FLAGSET (R184, R191). -/
def execCrtFlagset (p : Fin 4) (hi : Bool) (v : Word) (s : State) : Out := whenOn s (s.writeFlags p hi true v)

/-- CRT_FLAGCLR (R184, R191). -/
def execCrtFlagclr (p : Fin 4) (hi : Bool) (v : Word) (s : State) : Out := whenOn s (s.writeFlags p hi false v)

/-- Write of CRT_CURTCFG (R191): at once while no arrival of the generation has been numbered, else from the next. -/
def State.writeCurtcfg (s : State) (p n : Nat) (v : Word) : State :=
  let c := s.curtain p n
  if c.arrived = 0 then s.setCurtain p n { c with chain := bit v 31, count := fld v 13 0, next := none }
  else s.setCurtain p n { c with next := some (bit v 31, fld v 13 0) }

/-- CRT_CURTCFG_WRITE (R191). -/
def execCrtCurtcfgWrite (p : Fin 4) (n : Fin 16) (v : Word) (s : State) : Out := whenOn s (s.writeCurtcfg p n v)

end Sys2Proof.Machine
end

