-- ==== Sys2Proof/Machine/CueProc.lean ====
section
/-!
DEFINITION. Machine/CueProc.lean: the cue processors: fetching, the entry kinds, delivery and its stalls, passes, scene
boundaries, and their registers (R181, R273 to R280, R289).
-/
namespace Sys2Proof.Machine

/-- A packet has come to its node with its last word (R181, R182). -/
def State.cueHere (s : State) (x : CueTransit) : Bool :=
  decide (x.node = x.pkt.target) && (decide (x.inp = 0) || decide (x.ready + x.pkt.words ≤ s.cueCyc + 1))

/-- The words of packets that wait between a node and its engines (Table 11.3). -/
def State.cueBacklog (s : State) (node : Nat) : Nat :=
  (s.cueArrived.filter (fun x => decide (x.target = node))).foldl (fun n x => n + x.words) 0

/-- CUE_PACKET_ARRIVAL (R181, R332): packet i of the cue network, at its node, goes to its engine when the crossing has
room; those of one input of the node go in their order. -/
def execCuePacketArrival (i : Nat) (s : State) : Out :=
  match s.cuePkts[i]? with
  | some x =>
    if s.cueHere x && !((s.cuePkts.take i).any (fun y => decide (y.node = x.node) && decide (y.inp = x.inp) &&
        decide (y.pkt.high = x.pkt.high) && s.cueHere y)) && decide (s.cueBacklog x.node + x.pkt.words ≤ 16) then
      .next { s with cuePkts := listDrop s.cuePkts i, cueArrived := s.cueArrived ++ [x.pkt] }
    else idle s
  | none => idle s

/-- A fetch of n bytes of the call sheet or of a batch: the bytes, or the reason why it fails (R273). -/
def State.cueRead (s : State) (p c a n : Nat) : State × Except Nat (List Byte) :=
  if !((s.ctx p c).hbmOk a n) || !(s.inHbm a n) then (s, .error fltRange)
  else if s.memFenced then (s, .error fltFenced)
  else
    match s.readMem a n with
    | (s', some bs) => (s', .ok bs)
    | (s', none) => (s', .error fltEccUncorr)

/-- The context whose entries a cue processor fetches. -/
def State.fetchCtx (s : State) (n : Nat) : Option Nat :=
  let p := s.partOfCp n
  match s.curCtx p with
  | some c =>
    let st := (s.ctx p c).st
    if decide (3 ≤ st ∧ st ≤ 5) && !(s.cp n).halted && decide (s.shape ≠ 0) && !(s.stopped p c) && !(s.partFenced p) then some c else none
  | none => none

/-- The ring index after an entry: entry 0 after an END, and after the ring's last (R278). -/
def nextIndex (size : Nat) (e : CsEntry) : Nat := if e.kind = 8 then 0 else (e.index + 1) % size

/-- ENTRY_FETCH (R277): the next entry is fetched, up to 512 ahead; a fetch that fails halts the cue processor (R273). -/
def execEntryFetch (cp : Fin 4) (s : State) : Out :=
  match s.fetchCtx cp with
  | none => idle s
  | some c =>
    let y := s.cp cp
    let size := s.ringSize cp c
    let a := s.ringBase cp c + 64 * y.fetchPos
    if size = 0 ∨ 512 < y.fetched.length then idle s
    else
      match s.cueRead (s.partOfCp cp) c a 64 with
      | (s', .ok bs) =>
        let e : CsEntry := { index := y.fetchPos, addr := a, bytes := bs }
        .next (s'.setCp cp { y with fetched := y.fetched ++ [e], fetchPos := nextIndex size e })
      | (s', .error r) => .next (s'.cpFetchFault cp r a)

/-- The entry that a cue processor may act on: the oldest, inside a pass, with nothing waited for. -/
def State.entryAt (s : State) (n : Nat) : Option (Nat × CsEntry) :=
  let y := s.cp n
  match s.cpCtx n, y.fetched.head? with
  | some c, some e =>
    if y.inPass && !y.halted && decide (y.wait = .none) && !y.registered then some (c, e) else none
  | _, _ => none

/-- The cue processor acts on its oldest entry when it has the kind; an unlisted kind halts it (R273, Table 9.9). -/
def entryDo (kind n : Nat) (go : Nat → CsEntry → State) (s : State) : Out :=
  match s.entryAt n with
  | none => idle s
  | some (c, e) =>
    if 8 < e.kind then .next (s.cpFault n fltOpcode) else if e.kind = kind then .next (go c e) else idle s

/-- NOP of a call sheet (Table 9.9). -/
def execCsNop (cp : Fin 4) (s : State) : Out := entryDo 0 cp (fun _ _ => s.cpRetire cp) s

/-- The physical bay of a target (R274). -/
def State.targetBay (s : State) (n : Nat) (e : CsEntry) : Option Nat :=
  if e.phys then some e.bayF else s.mapBay n e.bayF

/-- What is wrong with a target and the contract of its command, in the order of R274. -/
def State.targetBad (s : State) (n : Nat) (e : CsEntry) : Option Nat :=
  let bayBad :=
    match s.targetBay n e with
    | some b => !(decide (b < 48)) || !(s.bayActive b) || decide (s.partOfBay b ≠ s.partOfCp n)
    | none => true
  firstOf [
    (decide (3 < e.cls) || (decide (e.cls = 3) && decide (2 < e.idx)) || (decide (e.cls < 3) && bayBad), fltEngineAbsent),
    ((decide (e.cls = 1) && decide (e.que ≠ 0)) || (decide (e.cls = 3) && decide (2 < e.que)), fltQueueId),
    (decide (e.contract ≠ 1), fltContract)]

/-- A target queue: class, bay or 0, index or 0, queue, and partition. -/
structure CueTarget where
  cls : Nat
  bay : Nat
  index : Nat
  queue : Nat
  part : Nat
deriving DecidableEq, Repr

def State.targetOf (s : State) (n : Nat) (e : CsEntry) : CueTarget :=
  if e.cls = 3 then { cls := 3, bay := 0, index := e.idx, queue := e.que, part := s.partOfCp n }
  else { cls := e.cls, bay := (s.targetBay n e).getD 0, index := 0, queue := e.que, part := s.partOfCp n }

/-- Commands in a queue, and packets that have been given a slot and are under way to it (R71, R275). -/
def State.queueLoad (s : State) (t : CueTarget) : Nat :=
  let inQueue := if t.cls = 3 then ((s.link t.part).queue (linkQueue t.index t.queue)).length
    else ((s.bay t.bay).queue (bayQueue t.cls t.queue)).length
  let toIt := fun (x : CuePkt) =>
    match x with
    | .command c b i q _ p _ _ _ =>
      decide (c = t.cls) && decide (b = t.bay) && decide (i = t.index) && decide (q = t.queue) && decide (p = t.part)
    | _ => false
  inQueue + (s.cuePkts.filter (fun x => toIt x.pkt)).length + (s.cueArrived.filter toIt).length

/-- The house time and number of the cue processors that wait for a slot of a queue (R275). -/
def State.slotWaiters (s : State) (t : CueTarget) : List (Nat × Nat) :=
  (List.range 4).filterMap (fun n =>
    match (s.cp n).wait, (s.cp n).fetched.head? with
    | .slot since, some e => if s.targetOf n e = t then some (since, n) else none
    | _, _ => none)

/-- The packet that a CMD or BATCH entry delivers next, read now for a BATCH (Table 9.9). -/
def State.nextPacket (s : State) (n c : Nat) (e : CsEntry) : State × Except Nat (List Word) :=
  if e.kind = 1 then (s, .ok e.packet)
  else
    let a := e.batchAddr + 32 * (s.cp n).batchPos
    match s.cueRead (s.partOfCp n) c a 32 with
    | (s', .ok bs) => (s', .ok (slotWords bs))
    | (s', .error r) => (s', .error r)

/-- A packet leaves for its queue, in a slot that has been granted (R275, R276). -/
def State.sendPacket (s : State) (n c : Nat) (e : CsEntry) : State :=
  let t := s.targetOf n e
  match s.nextPacket n c e with
  | (s', .ok ws) =>
    let s' := s'.setCp n { s'.cp n with wait := .none, granted := true, registered := true }
    s'.sendCue (.command t.cls t.bay t.index t.queue ws t.part c e.bookoff n)
  | (s', .error r) => s'.cpFault n r

/-- CMD and BATCH once checked: the packet leaves, or the cue processor stalls for a slot (R276). -/
def State.deliver (s : State) (n c : Nat) (e : CsEntry) : State :=
  let t := s.targetOf n e
  if s.queueLoad t < 8 ∧ (s.slotWaiters t).isEmpty = true then s.sendPacket n c e
  else s.setCp n { s.cp n with wait := .slot s.clock.house }

/-- CMD (Table 9.9, R274). -/
def execCmd (cp : Fin 4) (s : State) : Out :=
  entryDo 1 cp (fun c e => match s.targetBad cp e with | some r => s.cpFault cp r | none => s.deliver cp c e) s

/-- BATCH (Table 9.9, R273, R274): one packet at a time, each from its slot; none at all when ARG is 0. -/
def execBatch (cp : Fin 4) (s : State) : Out :=
  entryDo 2 cp (fun c e =>
    let x := s.ctx (s.partOfCp cp) c
    if e.batchAddr % 32 ≠ 0 then s.cpFault cp fltAlign
    else if x.hbmOk e.batchAddr (32 * e.arg) = false ∧ 0 < e.arg then s.cpFault cp fltRange
    else
      match s.targetBad cp e with
      | some r => s.cpFault cp r
      | none => if e.arg = 0 then s.cpRetire cp else s.deliver cp c e) s

/-- QUEUE_SLOT_GRANT (R275, R276): the queue grants the slot in the order of the requests, and the packet is sent. -/
def execQueueSlotGrant (cp : Fin 4) (s : State) : Out :=
  let y := s.cp cp
  match s.cpCtx cp, y.fetched.head?, y.wait with
  | some c, some e, .slot since =>
    let t := s.targetOf cp e
    let earlier := (s.slotWaiters t).any (fun w => decide (w.1 < since) || (decide (w.1 = since) && decide (w.2 < cp)))
    if s.queueLoad t < 8 ∧ earlier = false ∧ y.halted = false then .next (s.sendPacket cp c e) else idle s
  | _, _, _ => idle s

/-- WAIT (Table 9.9, R185). -/
def execWait (cp : Fin 4) (s : State) : Out :=
  entryDo 3 cp (fun _ e =>
    if 63 < e.arg then s.cpFault cp fltRange
    else if s.flagAt (cpNode cp) (s.partOfCp cp) e.arg then s.cpRetire cp
    else s.setCp cp { s.cp cp with wait := .flag e.arg }) s

/-- SETF and CLRF: the event goes to the cue processor's node and the entry waits for its registration. -/
def State.cueFlag (s : State) (n : Nat) (e : CsEntry) (ev : Nat → Nat → CrtEvent) : State :=
  if 63 < e.arg then s.cpFault n fltRange
  else (s.setCp n { s.cp n with registered := true }).sendCrtOf (cpNode n) (ev (s.partOfCp n) e.arg) (some n)

/-- SETF of a call sheet (Table 9.9). -/
def execCsSetf (cp : Fin 4) (s : State) : Out := entryDo 4 cp (fun _ e => s.cueFlag cp e .flagSet) s

/-- CLRF (Table 9.9). -/
def execClrf (cp : Fin 4) (s : State) : Out := entryDo 5 cp (fun _ e => s.cueFlag cp e .flagClr) s

/-- CURT of a call sheet (Table 9.9, R186): arrives with payload 0 and waits for the release. -/
def execCsCurt (cp : Fin 4) (s : State) : Out :=
  entryDo 6 cp (fun c e =>
    if 15 < e.arg then s.cpFault cp fltRange
    else
      (s.setCp cp { s.cp cp with wait := .curtain e.arg }).sendCrt (cpNode cp)
        (.arrive (s.partOfCp cp) e.arg 0 c 6 cp)) s

/-- SCENE (Table 9.9): the cue processor has reached the boundary. -/
def execScene (cp : Fin 4) (s : State) : Out :=
  entryDo 7 cp (fun _ e =>
    if 4095 < e.arg then s.cpFault cp fltRange else s.setCp cp { s.cp cp with wait := .boundary (some e.arg) }) s

/-- END (Table 9.9): the boundary that ends a pass. -/
def execEndPass (cp : Fin 4) (s : State) : Out :=
  entryDo 8 cp (fun _ _ => s.setCp cp { s.cp cp with wait := .boundary none }) s

/-- PASS_START (R278): a cue processor with credit takes one and starts a pass. -/
def execPassStart (cp : Fin 4) (s : State) : Out :=
  let p := s.partOfCp cp
  let y := s.cp cp
  match s.cpCtx cp with
  | some c =>
    let x := s.ctx p c
    let k := x.creditOf cp
    if decide (x.st = 4 ∨ x.st = 5) && !y.inPass && !y.halted && !(s.isolatedOut p c) && decide (0 < k) then
      .next ((s.setCp cp { y with inPass := true }).setCtx p c { x with credit := sset 0 x.credit cp (k - 1), midPass := true })
    else idle s
  | none => idle s

/-- Partition of an event. -/
def evPart : CrtEvent → Nat
  | .flagSet p _ => p
  | .flagClr p _ => p
  | .clearAll p => p
  | .arrive p _ _ _ _ _ => p

/-- A packet is a command of a context. -/
def cmdOf (p c : Nat) : CuePkt → Bool
  | .command _ _ _ _ _ q d _ _ => decide (q = p) && decide (d = c)
  | _ => false

/-- A waiting command of a context. -/
def QCmd.isOf (x : QCmd) (p c : Nat) : Bool := decide (x.part = p) && decide (x.ctx = c)

/-- The link engines have nothing of a context that keeps a boundary open (R279). -/
def State.linkDone (s : State) (p c : Nat) (isEnd : Bool) : Bool :=
  let l := s.link p
  let stays := fun (x : QCmd) => !isEnd && decide (x.head.opcode = 0x30 ∨ x.head.opcode = 0x31)
  l.queues.all (fun kv => kv.2.all (fun x => !(decide (x.ctx = c)) || stays x)) &&
    (match l.step with | some st => decide (st.ctx ≠ c) | none => true) &&
    (!isEnd || (l.gathers.all (fun g => decide (g.ctx ≠ c)) &&
      l.buckets.all (fun b => !(decide (b.ctx = c) && b.accepted.isSome && !b.confirmed))))

/-- What R279 asks beside the cue processors: commands completed, stagehands halted, events numbered. -/
def State.boundaryQuiet (s : State) (p c : Nat) (isEnd : Bool) : Bool :=
  !(s.cuePkts.any (fun x => cmdOf p c x.pkt)) && !(s.cueArrived.any (cmdOf p c)) &&
    s.bays.all (fun kv => kv.2.queues.all (fun q => q.2.all (fun x => !(x.isOf p c))) &&
      kv.2.started.all (fun x => !(decide (x.part = p) && decide (x.ctx = c)))) &&
    s.linkDone p c isEnd &&
    s.stagehands.all (fun kv => !(kv.2.running && decide (kv.2.part = p))) &&
    s.crt.waiting.all (fun e => decide (evPart e.ev ≠ p)) && s.crt.toRoot.all (fun e => decide (evPart e.ev ≠ p))

/-- The boundary that a cue processor has reached: none, or a SCENE's number, or an END's none. -/
def CueProc.boundary (y : CueProc) : Option (Option Nat) := match y.wait with | .boundary x => some x | _ => none

/-- Every waiting STOP of a context is answered (R279). -/
def State.answerStops (s : State) (p c status : Nat) : State :=
  let l := (s.ctx p c).stops
  let s := s.setCtx p c { s.ctx p c with stops := [] }
  l.foldl (fun s x => s.reply x.1 0x25 status []) s

/-- A context that was stopping stops (R279): its cue processors drop what they have fetched (R277). -/
def State.stopNow (s : State) (p c : Nat) : State :=
  let s := s.setCtx p c { s.ctx p c with st := 2 }
  let s := if s.curCtx p = some c then
      (cpsOf s.shape p).foldl (fun s n =>
        s.setCp n { s.cp n with fetched := [], fetchPos := sget 0 (s.ctx p c).rdptr n }) s
    else s
  s.answerStops p c stOk

/-- The first intermission waiting begins its stop (R431, R434); what else waits for that context falls due with it
(R396). -/
def State.beginStop (s : State) : State :=
  match s.inter.reqs with
  | [] => s
  | r :: rest =>
    let mine := rest.filter (fun q => decide (q.part = r.part) && decide (q.ctx = r.ctx))
    let all := mine.foldl (fun (a : IReq) q => { a with hdrs := a.hdrs ++ q.hdrs, copyHost := a.copyHost || q.copyHost,
                                                        cause := min a.cause q.cause }) r
    let others := rest.filter (fun q => !(decide (q.part = r.part) && decide (q.ctx = r.ctx)))
    { s with inter := { s.inter with phase := 2, part := r.part, ctx := r.ctx, stopAt := s.clock.house,
                                     copyHost := all.copyHost, reqs := all :: others } }

/-- The intermission at the front of the queue is due for a context at a boundary it has completed (R431). -/
def State.interDue (s : State) (p c : Nat) (isEnd : Bool) : Bool :=
  decide (s.inter.phase = 0) &&
    (match s.inter.reqs with
     | r :: _ => decide (r.part = p) && decide (r.ctx = c) &&
         (isEnd || (s.ctx p c).dress || decide ((s.ctx p c).st = 2))
     | [] => false)

/-- The scheduled intermission of a training context at an END (R431). -/
def State.schedule (s : State) (p c : Nat) : State :=
  let n := (s.reg (aFlt 0x2024)).toNat
  if n ≠ 0 ∧ (s.ctx p c).dress = false ∧ (s.stepOf p c).toNat % n = 0 then
    s.askIntermission { part := p, ctx := c, cause := 1, copyHost := false, hdrs := [], expires := none }
  else s

/-- The partition switches at a completed boundary (R280, R220, R430). -/
def State.boundarySwitch (s : State) (p c : Nat) (isEnd : Bool) : State :=
  let x := s.ctx p c
  let y := s.part p
  let slice := 1000 * (s.reg (aCp (leadCp s.shape p) 0x0004)).toNat
  let leave := decide (x.st = 2) || (isEnd && !(s.hasCredit p c)) || s.isolatedOut p c ||
    (x.dress && y.parentRang) || (isEnd && (s.dressOf p c).isSome) || decide (y.since + slice ≤ s.clock.house)
  match if leave then s.nextCtx p c else none with
  | some d => s.switchTo p d
  | none => if s.isolatedOut p c then s.switchOut p c else s

/-- Every cue processor of a partition takes its entry of a boundary as done: SCENE goes on, END goes to entry 0. -/
def State.retireBoundary (s : State) (p c : Nat) (isEnd : Bool) : State :=
  (cpsOf s.shape p).foldl (fun s n =>
    let s := s.cpRetire n
    if isEnd then (s.setCp n { s.cp n with inPass := false }).setRdptr p c n 0 else s) s

/-- A boundary of a context completes (R278, R279). -/
def State.completeBoundary (s : State) (p c : Nat) (isEnd : Bool) : State :=
  let s := s.numberPlain (.clearAll p) s.clock.house
  let s := s.retireBoundary p c isEnd
  let x := s.ctx p c
  let x := { x with progress := x.progress + 1, passes := x.passes + (if isEnd then 1 else 0), midPass := !isEnd }
  let s := (s.setCtx p c x).setPart p { s.part p with endOfPass := isEnd }
  let s := (cpsOf s.shape p).foldl State.cpReport s
  let s := if isEnd then s.schedule p c else s
  let s := if x.st = 5 then s.stopNow p c else s.settleState p c
  if s.interDue p c isEnd then s.beginStop else s.boundarySwitch p c isEnd

/-- The lead cue processor faults the context whose sheets reach different boundaries (R279). -/
def State.boundaryFault (s : State) (p lead other : Nat) : State :=
  let s := s.setCp lead { s.cp lead with halted := true }
  match (s.cp other).fetched.head? with
  | some e => s.sendFault fltOpcode p ((s.curCtx p).getD 0) 6 0xFF lead e.bookoff e.addr
      [e.num 0 1, e.num 1 1, e.num 2 1, e.num 3 1]
  | none => s

/-- SCENE_BOUNDARY (R279): every cue processor of the partition stands at a boundary. -/
def execSceneBoundary (p : Fin 4) (s : State) : Out :=
  let cps := cpsOf s.shape p
  let lead := leadCp s.shape p
  match s.curCtx p, (s.cp lead).boundary with
  | some c, some k =>
    let live := decide ((s.ctx p c).st = 4 ∨ (s.ctx p c).st = 5) && !(s.stopped p c) && !(s.partFenced p) && !(s.cp lead).halted
    if live && cps.all (fun n => (s.cp n).boundary.isSome) then
      match cps.find? (fun n => decide ((s.cp n).boundary ≠ some k)) with
      | some other => .next (s.boundaryFault p lead other)
      | none => if s.boundaryQuiet p c k.isNone then .next (s.completeBoundary p c k.isNone) else idle s
    else idle s
  | _, _ => idle s

/-- A value a cue processor's register does not take (R289). -/
def cpWriteBad (off : Nat) (v : Word) : Bool :=
  if off < 0x1000 then false
  else
    let r := off % 0x40
    (decide (r = 0x0C) && !((seqFromTo 6 16).any (fun k => decide (v.toNat % 2 ^ 17 = 2 ^ k)))) ||
      (decide (r = 0x04) && decide (v.toNat % 64 ≠ 0))

/-- Write of a cue processor's register (R289). -/
def State.writeCp (s : State) (n off : Nat) (v : Word) : State :=
  match findRow cpRows off with
  | none => s
  | some r =>
    let c := (off - 0x1000) / 0x40
    let st := (s.ctx (s.partOfCp n) c).st
    if decide (0x1000 ≤ off) && decide (r.rw ≠ 0) && (decide (st = 4 ∨ st = 5) || cpWriteBad off v) then
      s.orReg (aCp n 0) 0x80000000
    else s.writeMasked (aCp n off) v

/-- CP_REGISTER_WRITE (R289). -/
def execCpRegisterWrite (cp : Fin 4) (off : Nat) (v : Word) (s : State) : Out :=
  if off % 4 = 0 then whenOn s (s.writeCp cp off v) else idle s

end Sys2Proof.Machine
end

