-- ==== Sys2Proof/Machine/Faults.lean ====
section
/-!
DEFINITION. Machine/Faults.lean: the fault-record block and what a fault does to its context (R287, R288, R419).
-/
namespace Sys2Proof.Machine

/-- The commands of a context that wait in engine queues are removed (R419, R425). -/
def State.dropQueued (s : State) (p c : Nat) : State :=
  let keep := fun (_ : Nat) (l : List QCmd) => l.filter (fun x => !(x.isOf p c))
  let s := { s with bays := smap Bay.reset (fun _ b => { b with queues := smap [] keep b.queues }) s.bays }
  let l := s.link p
  s.setLink p { l with queues := smap [] keep l.queues }

/-- Requests for an intermission of a context that has not begun are withdrawn (R431). -/
def State.dropIntermissions (s : State) (p c status : Nat) : State :=
  let running := if s.inter.phase = 0 then 0 else 1
  let hit := fun (r : IReq) => decide (r.part = p) && decide (r.ctx = c)
  let waiting := s.inter.reqs.drop running
  let s := { s with inter := { s.inter with reqs := s.inter.reqs.take running ++ waiting.filter (fun r => !(hit r)) } }
  (waiting.filter hit).foldl (fun s r => r.hdrs.foldl (fun s h => s.reply h 0x30 status []) s) s

/-- What the first fault of a context does to it (R419): queued commands go, stagehands stop, state 6, the event. A STOP
or INTERMISSION that waited for its boundary is answered as one in state 6 is. -/
def State.faultContext (s : State) (p c reason bay cls : Nat) (bookoff : Word) : State :=
  let s := s.dropQueued p c
  let s := (s.unflagSets p c).stopHands p c
  let x := s.ctx p c
  let s := if x.st = 0 then s else s.setCtx p c { x with st := 6 }
  let s := s.logPts 0x0060 (whereOf p c (bay % 64) cls) (packData [(1, reason), (4, bookoff.toNat)])
    (if reason = fltEccUncorr then 48 else 0)
  let s := (s.answerStops p c stOk).dropIntermissions p c stBusy
  if s.curCtx p = some c then s.trySwitch p else s

/-- The record of a fault packet (Table 9.13). -/
def State.recordOf (s : State) (reason part ctx cls bay index : Nat) (bookoff : Word) (time addr : Nat)
    (detail : List Nat) : FaultRec :=
  { reason := reason, part := part, ctx := ctx, cls := cls, bay := bay,
    lbay := if bay < 48 then s.logBay part bay else 0xFF, index := index, bookoff := bookoff, later := 0, time := time,
    addr := addr % 2 ^ 48, detail := detail }

/-- Two fault packets of one context at the block: the lower bay goes first (R287), and of two stagehands that faulted in
one cycle the lower linear id (R152). -/
def faultBefore (p c cls bay index time : Nat) : CuePkt → Bool
  | .fault _ q d k b i _ t _ _ =>
    decide (q = p) && decide (d = c) &&
      (if cls = 2 ∧ k = 2 ∧ t = time then decide (i < index) else decide (b < bay))
  | _ => false

/-- A fault notification to Yemir enters its crossing; while one is inside they merge, and the overrun flag is set (R334). -/
def State.notifyFault (s : State) : State :=
  if s.clock.faultEv then s.orReg (aClk 0x1C) 4 else { s with clock := { s.clock with faultEv := true } }

/-- FAULT_REPORT (R287): packet i of those that have arrived is a fault packet at the block: it fills the context's
record, or counts in LATER, and Yemir is notified. -/
def execFaultReport (i : Nat) (s : State) : Out :=
  match s.cueArrived[i]? with
  | some (.fault reason p c cls bay index bookoff time addr detail) =>
    if s.cueArrived.any (faultBefore p c cls bay index time) then idle s
    else
      let s := { s with cueArrived := listDrop s.cueArrived i }
      let s := (s.countSat (aFlt 0x100C) 1).notifyFault
      match s.faultRec p c with
      | some r => .next (s.setFaultRec p c (some { r with later := min 255 (r.later + 1) }))
      | none =>
        let s := s.setFaultRec p c (some (s.recordOf reason p c cls bay index bookoff time addr detail))
        .next (s.faultContext p c reason bay cls bookoff)
  | _ => idle s

/-- FLT_CLEAR (R288): the record is cleared; the context stays in state 6 (R419). -/
def execFltClear (rec : Fin 64) (s : State) : Out := whenOn s (s.setFaultRec (rec / 16) (rec % 16) none)

end Sys2Proof.Machine
end

