-- ==== Sys2Proof/Machine/Algorithms.lean ====
section
/-!
DEFINITION. Machine/Algorithms.lean: division, reciprocal, square roots, exponentials and logarithm of R124. The spec
bounds their relative error by 2^-18 and gives no bits: each result is the exact one moved by a free distance within
that bound, then rounded to A28 (entry 5).
-/
namespace Sys2Proof.Machine

/-- Fraction bits of the fixed-point references. -/
def refBits : Nat := 96

/-- floor(ln 2 * 2^96) and floor(log2 e * 2^96). -/
def ln2Ref : Nat := 54916777467707473351141471128
def log2eRef : Nat := 114302077158074026402637675936

/-- floor of the square root, bit by bit from bit 159 down. -/
def isqrt (n : Nat) : Nat :=
  (List.range 160).foldl (fun r k => let c := r + 2 ^ (159 - k); if c * c ≤ n then c else r) 0

/-- A magnitude scaled to 97 significant bits. -/
def norm97 (m : Nat) (e : Int) : Nat × Int :=
  let l := Nat.log2 m
  if l ≤ refBits then (m * 2 ^ (refBits - l), e - (refBits - l : Nat)) else (m / 2 ^ (l - refBits), e + (l - refBits : Nat))

/-- The exact magnitude moved by the algorithm's error, kept within 2^-18 of it. -/
def withError (op : Nat) (x y : BitVec 28) (m : Nat) (e : Int) : Nat × Int :=
  let (n, q) := norm97 m e
  let lim : Int := (2 ^ 78 : Nat)
  let d := max (-lim) (min lim (Config.algError op x y))
  (((n : Int) + d).toNat, q)

/-- x / y of two non-zero magnitudes. -/
def divMag (m : Nat) (e : Int) (m' : Nat) (e' : Int) : Nat × Int := (m * 2 ^ 200 / m', e - e' - 200)

/-- Square root of a non-zero magnitude. -/
def sqrtMag (m : Nat) (e : Int) : Nat × Int :=
  let (n, q) := norm97 m e
  if q % 2 = 0 then (isqrt (n * 2 ^ 200), q / 2 - 100) else (isqrt (n * 2 ^ 201), (q - 1) / 2 - 100)

/-- A value as a fixed-point integer of 96 fraction bits. -/
def toFixed (neg : Bool) (m : Nat) (e : Int) : Int :=
  let k := e + refBits
  let a : Nat := if 0 ≤ k then m * 2 ^ k.toNat else m / 2 ^ (-k).toNat
  if neg then -(a : Int) else (a : Int)

/-- 2^t for a fixed-point t, as a magnitude. -/
def exp2Fixed (t : Int) : Nat × Int :=
  let one : Nat := 2 ^ refBits
  let k := t / (one : Int)
  let f := (t % (one : Int)).toNat
  let y := f * ln2Ref / one
  let r := (List.range 40).foldl (fun (acc : Nat × Nat) i =>
    let term := acc.2 * y / one / (i + 1)
    (acc.1 + term, term)) (one, one)
  (r.1, k - refBits)

/-- log2 of a non-zero magnitude, fixed-point. -/
def log2Fixed (m : Nat) (e : Int) : Int :=
  let one : Nat := 2 ^ refBits
  let (n, q) := norm97 m e
  let z := (n - one) * one / (n + one)
  let z2 := z * z / one
  let r := (List.range 50).foldl (fun (acc : Nat × Nat) i => (acc.1 + acc.2 / (2 * i + 1), acc.2 * z2 / one)) (0, z)
  let ln := 2 * r.1
  (ln * log2eRef / one : Nat) + (q + refBits) * (one : Int)

/-- The A28 code of an operand, for the error's arguments. -/
def codeA28 (x : Num) : BitVec 28 := (toA28 x).1

/-- Reference magnitudes of the algorithms on finite non-zero operands; none where the special rows apply. -/
def expRef (x : Num) : Nat × Int :=
  match x with
  | .fin neg m e =>
    -- beyond 2^9 the result is outside every format: a magnitude that far out stands for it
    if magLt m e 512 0 then exp2Fixed (toFixed neg m e * (log2eRef : Int) / (2 ^ refBits : Nat))
    else if neg then (1, -600) else (1, 600)
  | _ => (1, 0)

def ex2Ref (x : Num) : Nat × Int :=
  match x with
  | .fin neg m e => if magLt m e 512 0 then exp2Fixed (toFixed neg m e) else if neg then (1, -600) else (1, 600)
  | _ => (1, 0)

/-- e^x, x finite; exactly 1 for a zero. -/
def expNum (x : Num) : Num :=
  if x.isZero then .fin false 1 0 else let r := expRef x; let w := withError 0 (codeA28 x) 0 r.1 r.2; .fin false w.1 w.2

/-- 2^x, x finite. An integer power is exact. -/
def ex2Num (x : Num) : Num :=
  if x.isZero then .fin false 1 0 else let r := ex2Ref x; let w := withError 1 (codeA28 x) 0 r.1 r.2; .fin false w.1 w.2

/-- 1/x, x finite and non-zero. -/
def rcpNum (x : Num) : Num :=
  match x with
  | .fin n m e => let r := divMag 1 0 m e; let w := withError 2 (codeA28 x) 0 r.1 r.2; .fin n w.1 w.2
  | y => y

/-- Square root, x finite and positive. -/
def sqrtNum (x : Num) : Num :=
  match x with
  | .fin _ m e => let r := sqrtMag m e; let w := withError 3 (codeA28 x) 0 r.1 r.2; .fin false w.1 w.2
  | y => y

/-- 1/sqrt(x), x finite and positive. -/
def rsqNum (x : Num) : Num :=
  match x with
  | .fin _ m e =>
    let q := sqrtMag m e
    let r := divMag 1 0 q.1 q.2
    let w := withError 4 (codeA28 x) 0 r.1 r.2
    .fin false w.1 w.2
  | y => y

/-- log2 x, x finite and positive; exactly 0 for 1. -/
def lg2Num (x : Num) : Num :=
  match x with
  | .fin _ m e =>
    let t := log2Fixed m e
    if t = 0 then .fin false 0 0
    else let w := withError 5 (codeA28 x) 0 t.natAbs (-(refBits : Int)); .fin (decide (t < 0)) w.1 w.2
  | y => y

/-- x / y, both finite and y non-zero. -/
def divNum (x y : Num) : Num :=
  match x, y with
  | .fin a m e, .fin b m' e' =>
    if m = 0 then .fin (xor a b) 0 0
    else let r := divMag m e m' e'; let w := withError 6 (codeA28 x) (codeA28 y) r.1 r.2; .fin (xor a b) w.1 w.2
  | _, _ => .nan

end Sys2Proof.Machine
end

