-- ==== Sys2Proof/Machine/RowEngine.lean ====
section
/-!
DEFINITION. Machine/RowEngine.lean: the row engine (R90 to R92, R124 to R126) and STN_DRAIN, which feeds it (R86).
-/
namespace Sys2Proof.Machine

/-- A value with the flags of the steps that made it. -/
abbrev Flagged := Num × StickyFlags

def pure28 (x : Num) : Flagged := (x, 0)

/-- One step of the row engine: rounded to A28 by RNE (R113, R125). Whether the intermediate steps of a row-engine command
set sticky flags is not said (R117 names the operand-case row of an operation); the model ORs in the flags of every step
(DESIGN CHOICE, entry 181). -/
def step28 (x : Num) (f : StickyFlags) : Flagged := let w := toA28 x; (a28 w.1, f ||| w.2)

/-- An algorithm's result as stored: INX unless the stored value is exact, UNF when the exact one is tiny (R115, R124). -/
def fResult (x : Num) (exact : Num → Bool) (tiny : Bool) (f : StickyFlags) : Flagged :=
  let w := toA28 x
  let y := a28 w.1
  if y.isInf then (y, f ||| w.2)
  else (y, f ||| (if exact y then 0 else if tiny then flagInx ||| flagUnf else flagInx))

def fAdd (p q : Flagged) : Flagged := let r := addNum p.1 q.1; step28 r.1 (p.2 ||| q.2 ||| r.2)
def fSub (p q : Flagged) : Flagged := fAdd p (q.1.neg, q.2)
def fMul (p q : Flagged) : Flagged := let r := mulNum p.1 q.1; step28 r.1 (p.2 ||| q.2 ||| r.2)

/-- Division (R124); a zero divisor has no stated result (entry 5). -/
def fDiv (p q : Flagged) : Flagged :=
  let f := p.2 ||| q.2
  match p.1, q.1 with
  | .nan, _ => (.nan, f ||| flagNf)
  | _, .nan => (.nan, f ||| flagNf)
  | .inf _, .inf _ => (.nan, f ||| flagInv ||| flagNf)
  | .inf a, .fin b m e => if m = 0 then (a28 (Config.openA28 6 (codeA28 (.inf a)) (codeA28 (.fin b m e))), f) else (.inf (xor a b), f ||| flagNf)
  | .fin a _ _, .inf b => (.fin (xor a b) 0 0, f)
  | .fin a m e, .fin b m' e' =>
    if m' = 0 then (a28 (Config.openA28 6 (codeA28 (.fin a m e)) (codeA28 (.fin b m' e'))), f)
    else
      fResult (divNum (.fin a m e) (.fin b m' e')) (fun y => eqNum (mulNum y (.fin b m' e')).1 (.fin a m e))
        (magLt m e m' (e' - 126)) f

/-- exp (R124). -/
def fExp (p : Flagged) : Flagged :=
  match p.1 with
  | .nan => (.nan, p.2 ||| flagNf)
  | .inf true => (.fin false 0 0, p.2)
  | .inf false => (.inf false, p.2 ||| flagNf)
  | x =>
    if x.isZero then (.fin false 1 0, p.2)
    else let r := expRef x; fResult (expNum x) (fun _ => false) (magLt r.1 r.2 1 (-126)) p.2

/-- 1 / sqrt of a non-zero value (R124); a negative one has no stated result (entry 5). -/
def fRsq (p : Flagged) : Flagged :=
  match p.1 with
  | .nan => (.nan, p.2 ||| flagNf)
  | .inf false => (.fin false 0 0, p.2)
  | .fin false m e =>
    fResult (rsqNum (.fin false m e))
      (fun y => match y with | .fin _ m' e' => eqNum (.fin false (m * m' * m') (e + e' + e')) (.fin false 1 0) | _ => false)
      false p.2
  | x => (a28 (Config.openA28 4 (codeA28 x) 0), p.2)

/-- A statistic rounded to BF16 before use (R125): its code, its value and its flags. -/
def fBf16 (p : Flagged) : BitVec 16 × Flagged := let w := toBf16 p.1; (w.1, (bf16 w.1, p.2 ||| w.2))

/-- A sum in address order: exact within one read, one A28 rounding per read (R124). The spec does not give the sign of the
zero that the running sum starts from; the model starts from +0, so a row of terms −0 sums to +0 (DESIGN CHOICE,
entry 182). -/
def sumReads (per : Nat) (terms : List Flagged) : Flagged :=
  (chunks per ((terms.length + per - 1) / per) terms).foldl (fun acc c =>
    let t := sumNum (c.map Prod.fst)
    fAdd acc (t.1, c.foldl (fun a r => a ||| r.2) t.2)) (pure28 (.fin false 0 0))

/-- An exact product, not rounded: a term of a sum. -/
def fTerm (p q : Flagged) : Flagged := let r := mulNum p.1 q.1; (r.1, p.2 ||| q.2 ||| r.2)

/-- What one row yields: outputs if the operation has any, the ledger pair if it writes one, flags. -/
structure RowResult where
  out : Option (List Num)
  ledger : Option (BitVec 16 × BitVec 16)
  flags : StickyFlags
deriving DecidableEq, Repr

/-- What a row-engine command is, for one row. -/
structure RowCmd where
  op : Nat
  mode : Nat
  len : Nat
  /-- elements in one read of 1,024 bits -/
  per : Nat
  param : BitVec 16
deriving DecidableEq, Repr

def bfNan : BitVec 16 := 0x7FC0
def bfInf : BitVec 16 := 0x7F80
def bfNegInf : BitVec 16 := 0xFF80

/-- n as a value. -/
def numNat (n : Nat) : Num := .fin false n 0

/-- γ and β of element i: 1 and 0 where there are none (R90). -/
def gammaAt (g : Option (List Num)) (i : Nat) : Num := (g.map (fun l => l.getD i .nan)).getD (.fin false 1 0)
def betaAt (g : Option (List Num)) (i : Nat) : Num := (g.map (fun l => l.getD i .nan)).getD (.fin false 0 0)

/-- OR of the flags of flagged values. -/
def flagsOf (l : List Flagged) : StickyFlags := l.foldl (fun a r => a ||| r.2) 0

/-- RE_NORM and RE_RMS on one row without special inputs (R125, Table 4.12's last row). -/
def normRow (k : RowCmd) (x : List Num) (gam bet : Option (List Num)) : RowResult :=
  let xs := x.map pure28
  let n := pure28 (numNat k.len)
  let s2 := sumReads k.per (xs.map (fun v => fTerm v v))
  let eps := pure28 (bf16 k.param)
  let rms := decide (k.op = 0x11)
  let mu := fBf16 (if rms then pure28 (.fin false 0 0) else fDiv (sumReads k.per xs) n)
  let ms := fDiv s2 n
  let v := if rms then ms else
    let d := fSub ms (fMul mu.2 mu.2)
    (maxNum (.fin false 0 0) d.1, d.2)
  let ve := fAdd v eps
  if ve.1.isZero then
    { out := some (x.map (fun _ => .nan)), ledger := some (if rms then (bfInf, 0) else (mu.1, bfInf)),
      flags := flagInv ||| flagNf }
  else
    let r := fBf16 (fRsq ve)
    let ys := (xs.zip (List.range x.length)).map (fun p =>
      let g := pure28 (gammaAt gam p.2)
      if rms then fMul (fMul p.1 r.2) g
      else fAdd (fMul (fMul (fSub p.1 mu.2) r.2) g) (pure28 (betaAt bet p.2)))
    { out := some (ys.map Prod.fst), ledger := some (if rms then (r.1, 0) else (mu.1, r.1)),
      flags := flagsOf ys ||| r.2.2 ||| mu.2.2 }

/-- The statistics of a soft-maximum row (R125, R126): m and l as the first pass finds them; none when every input is
−Inf. -/
def smaxStats (k : RowCmd) (x : List Num) : Option (Flagged × Flagged) :=
  let live := x.map (fun v => match v with | .inf true => none | w => some (fMul (pure28 (bf16 k.param)) (pure28 w)))
  (chunks k.per ((x.length + k.per - 1) / k.per) live).foldl (fun (acc : Option (Flagged × Flagged)) c =>
    let ts := c.filterMap id
    match ts with
    | [] => acc
    | t :: rest =>
      let top := rest.foldl (fun (a : Flagged) b => (maxNum a.1 b.1, a.2 ||| b.2)) t
      let m := match acc with | some a => (maxNum a.1.1 top.1, a.1.2 ||| top.2) | none => top
      let base := match acc with
        | some a => if ltNum a.1.1 m.1 then fMul a.2 (fExp (fSub a.1 m)) else a.2
        | none => pure28 (.fin false 0 0)
      let es := ts.map (fun v => fExp (fSub v m))
      let t := sumNum (es.map Prod.fst)
      some (m, fAdd base (t.1, flagsOf es ||| t.2))) none

/-- The pair that modes 0 and 2 write, as values (R125). -/
def smaxPair (k : RowCmd) (x : List Num) : (BitVec 16 × BitVec 16) × StickyFlags :=
  match smaxStats k x with
  | none => ((bfNegInf, 0), 0)
  | some (m, l) =>
    let mh := fBf16 m
    let lh := fBf16 (fMul l (fExp (fSub m mh.2)))
    ((mh.1, lh.1), mh.2.2 ||| lh.2.2)

/-- Outputs of modes 0 and 3 from the rounded statistics (R125, Table 4.12). -/
def smaxOut (k : RowCmd) (x : List Num) (m l : BitVec 16) : List Flagged :=
  x.map (fun v => match v with
    | .inf true => pure28 (.fin false 0 0)
    | w =>
      if m = bfNegInf ∧ l = 0 then pure28 (.fin false 0 0)
      else fDiv (fExp (fSub (fMul (pure28 (bf16 k.param)) (pure28 w)) (pure28 (bf16 m)))) (pure28 (bf16 l)))

/-- The merge of mode 1 (R125, R126). -/
def smaxMerge (a b : BitVec 16 × BitVec 16) : (BitVec 16 × BitVec 16) × StickyFlags :=
  if b = (bfNegInf, 0) then (a, 0)
  else if a = (bfNegInf, 0) then (b, 0)
  else
    let ma := pure28 (bf16 a.1)
    let mb := pure28 (bf16 b.1)
    let m := pure28 (maxNum ma.1 mb.1)
    let l := fAdd (fMul (pure28 (bf16 a.2)) (fExp (fSub ma m))) (fMul (pure28 (bf16 b.2)) (fExp (fSub mb m)))
    let mh := fBf16 m
    let lh := fBf16 l
    ((mh.1, lh.1), mh.2.2 ||| lh.2.2)

/-- RE_SMAX on one row, without NaN or +Inf inputs. led: the entry LEDGER0 + i as it stands. -/
def smaxRow (k : RowCmd) (x : List Num) (led : BitVec 16 × BitVec 16) : RowResult :=
  let st := smaxPair k x
  match k.mode with
  | 0 =>
    let ys := smaxOut k x st.1.1 st.1.2
    { out := some (ys.map Prod.fst), ledger := some st.1, flags := st.2 ||| flagsOf ys }
  | 1 => let r := smaxMerge led st.1; { out := none, ledger := some r.1, flags := st.2 ||| r.2 }
  | 2 => { out := none, ledger := some st.1, flags := st.2 }
  | _ => let ys := smaxOut k x led.1 led.2; { out := some (ys.map Prod.fst), ledger := none, flags := flagsOf ys }

/-- RE_NORM_BWD and RE_RMS_BWD on one row (R125): dy, x, and the entry (μ, r) or (r, 0). -/
def normBwdRow (k : RowCmd) (dy x : List Num) (gam : Option (List Num)) (led : BitVec 16 × BitVec 16) : RowResult :=
  let rms := decide (k.op = 0x14)
  let r := pure28 (bf16 (if rms then led.1 else led.2))
  let mu := pure28 (bf16 led.1)
  let n := pure28 (numNat k.len)
  let xh := x.map (fun v => if rms then fMul (pure28 v) r else fMul (fSub (pure28 v) mu) r)
  let g := (dy.zip (List.range dy.length)).map (fun p => fMul (pure28 (gammaAt gam p.2)) (pure28 p.1))
  let mg := fDiv (sumReads k.per g) n
  let mgx := fDiv (sumReads k.per ((g.zip xh).map (fun p => fTerm p.1 p.2))) n
  let ys := (g.zip xh).map (fun p =>
    let t := if rms then p.1 else fSub p.1 mg
    fMul r (fSub t (fMul p.2 mgx)))
  { out := some (ys.map Prod.fst), ledger := none, flags := flagsOf ys }

/-- Σ X Y of one row (R124). -/
def rowDot (k : RowCmd) (x y : List Num) : Flagged :=
  sumReads k.per ((x.zip y).map (fun p => fTerm (pure28 p.1) (pure28 p.2)))

/-- RE_SMAX_BWD on one row: dx = y (dy − D), D the row's own sum in mode 0, the ledger's in mode 1. -/
def smaxBwdRow (k : RowCmd) (dy y : List Num) (led1 : BitVec 16 × BitVec 16) : RowResult :=
  let d := if k.mode = 1 then pure28 (bf16 led1.1) else rowDot k dy y
  let ys := (dy.zip y).map (fun p => fMul (pure28 p.2) (fSub (pure28 p.1) d))
  { out := some (ys.map Prod.fst), ledger := none, flags := flagsOf ys ||| d.2 }

/-- The operation writes the ledger (Table 3.14). -/
def reWritesLedger (op mode : Nat) : Bool :=
  decide (op = 0x10 ∨ op = 0x11 ∨ op = 0x16) || (decide (op = 0x12) && decide (mode ≠ 3))

/-- The operation has outputs (Table 3.14). -/
def reHasOutput (op mode : Nat) : Bool := !(decide (op = 0x16) || (decide (op = 0x12) && decide (mode = 1 ∨ mode = 2)))

/-- The operation reads Y (Table 3.14). -/
def reHasY (op : Nat) : Bool := decide (op = 0x13 ∨ op = 0x14 ∨ op = 0x15 ∨ op = 0x16)

/-- The operation takes γ and β (R125). -/
def reHasG (op : Nat) : Bool := decide (op = 0x10 ∨ op = 0x11 ∨ op = 0x13 ∨ op = 0x14)

/-- A row whose result is NaN throughout (Table 4.12). -/
def nanRow (k : RowCmd) (n : Nat) (f : StickyFlags) : RowResult :=
  { out := if reHasOutput k.op k.mode then some (List.replicate n .nan) else none,
    ledger := if reWritesLedger k.op k.mode then some (bfNan, bfNan) else none, flags := f }

/-- One row of a row-engine command: the first row of Table 4.12 that matches, else the operation. The table does not say
whether its Inf rows hold for the backward operations, nor whether a ledger entry is an input of the row: the model takes
the normalisation row for RE_NORM_BWD and RE_RMS_BWD too, the soft-maximum row for RE_SMAX alone, and no ledger entry as an
input (DESIGN CHOICE, entry 183). -/
def reRow (k : RowCmd) (x y : List Num) (gam bet : Option (List Num)) (led led1 : BitVec 16 × BitVec 16) : RowResult :=
  if (x ++ y ++ gam.getD [] ++ bet.getD []).any Num.isNan then nanRow k x.length flagNf
  else if reHasG k.op && (x ++ y).any Num.isInf then nanRow k x.length (flagInv ||| flagNf)
  else if decide (k.op = 0x12) && x.any (fun v => decide (v = .inf false)) then nanRow k x.length (flagInv ||| flagNf)
  else if k.op = 0x10 ∨ k.op = 0x11 then normRow k x gam bet
  else if k.op = 0x12 then smaxRow k x led
  else if k.op = 0x13 ∨ k.op = 0x14 then normBwdRow k x y gam led
  else if k.op = 0x15 then smaxBwdRow k x y led1
  else
    let t := fBf16 (rowDot k x y)
    { out := none, ledger := some (t.1, 0), flags := t.2.2 }

/-- Bytes of a row of n elements as the engine reads or writes it: data, then its scales (R90). -/
def reRowBytes (fmt n : Nat) : Nat := elemBytes fmt n + (if isMx fmt then (n + 31) / 32 else 0)

/-- The values of a row. -/
def reValues (fmt n : Nat) (bs : List Byte) : List Num :=
  let codes := elemCodes fmt bs n
  let scs := bs.drop (elemBytes fmt n)
  (codes.zip (List.range n)).map (fun p =>
    if isMx fmt then scaled (scs.getD (p.2 / 32) 127) (elemValue fmt p.1) else elemValue fmt p.1)

/-- An output row narrowed to FMT_OUT (R125, Table 4.8): its bytes and flags. -/
def reOutput (fmt rnd : Nat) (vals : List Num) : List Byte × StickyFlags :=
  if isMx fmt then
    match elemFmt fmt with
    | some f =>
      let rs := (chunks 32 ((vals.length + 31) / 32) vals).map (narrowBlock f (fun _ => rndOf rnd 0))
      (packBytes fmt (rs.map (fun r => r.2.1)).flatten ++ rs.map (fun r => r.1), rs.foldl (fun a r => a ||| r.2.2) 0)
    | none => ([], 0)
  else
    let rs := vals.map (fmtBF16.narrow false (rndOf rnd 0))
    (packBytes 8 (rs.map Prod.fst), orFlags rs)

def reCmd (ws : List Word) : RowCmd :=
  { op := (cmdHead (cword ws 0)).opcode, mode := reMode ws, len := reLen ws,
    per := if fld (cword ws 3) 15 12 = 8 then 64 else 128, param := BitVec.ofNat 16 (fld (cword ws 6) 31 16) }

/-- A ledger entry as its pair (R91). -/
def ledgerPair (y : Bay) (e : Nat) : BitVec 16 × BitVec 16 :=
  let w := sget 0 y.ledger e
  (w.setWidth 16, (w >>> 16).setWidth 16)

/-- Row i with X given: read Y, compute, write the output and the ledger. -/
def State.reDoRow (s : State) (b : Nat) (c : Started) (gam bet : Option (List Num)) (i : Nat) (x : List Num) :
    State × Option (Nat × Nat) :=
  let k := reCmd c.words
  let w3 := cword c.words 3
  let fin := fld w3 15 12
  let fout := fld w3 11 8
  let ry := if reHasY k.op then s.slotRead c.part c.ctx b (c.slots.getD 1 AgSlot.init) i (reRowBytes fin k.len) 64 else (s, .ok [])
  match ry with
  | (s1, .error e) => (s1, some e)
  | (s1, .ok yb) =>
    let y := if reHasY k.op then reValues fin k.len yb else []
    let bay := s1.bay b
    let r := reRow k x y gam bet (ledgerPair bay (reLedger0 c.words + i)) (ledgerPair bay (reLedger1 c.words + i))
    let (outB, fo) := match r.out with
      | some o => reOutput fout (fld w3 7 6) o
      | none => ([], 0)
    match (if r.out.isSome then s1.slotWrite c.part c.ctx b (c.slots.getD 3 AgSlot.init) i 64 outB else (s1, none)) with
    | (s2, some e) => (s2, some e)
    | (s2, none) =>
      let bay := s2.bay b
      let bay := match r.ledger with
        | some (p, q) =>
          { bay with ledger := sset 0 bay.ledger (reLedger0 c.words + i) ((q.setWidth 32 <<< 16) ||| p.setWidth 32) }
        | none => bay
      ((s2.setBay b bay).stnFlags b (r.flags ||| fo), none)

/-- Rows i, i + 1, … with X from the scratchpad. -/
def State.reRun (s : State) (b : Nat) (c : Started) (gam bet : Option (List Num)) (i : Nat) : Nat → State × Option (Nat × Nat)
  | 0 => (s, none)
  | n + 1 =>
    let fin := fld (cword c.words 3) 15 12
    match s.slotRead c.part c.ctx b (c.slots.getD 0 AgSlot.init) i (reRowBytes fin (reLen c.words)) 64 with
    | (s1, .error e) => (s1, some e)
    | (s1, .ok xb) =>
      match s1.reDoRow b c gam bet i (reValues fin (reLen c.words) xb) with
      | (s2, some e) => (s2, some e)
      | (s2, none) => s2.reRun b c gam bet (i + 1) n

/-- γ and β of a command, read once (R90, R92): none when the G slot produces no address. -/
def State.reParams (s : State) (b : Nat) (c : Started) : State × Except (Nat × Nat) (Option (List Num) × Option (List Num)) :=
  let op := c.op
  let g := c.slots.getD 2 AgSlot.init
  let n := reLen c.words
  if !(reHasG op) || g.total = 0 then (s, .ok (none, none))
  else
    match s.slotRead c.part c.ctx b g 0 (2 * n) 64 with
    | (s1, .error e) => (s1, .error e)
    | (s1, .ok gb) =>
      if op = 0x10 then
        match s1.slotRead c.part c.ctx b g 1 (2 * n) 64 with
        | (s2, .error e) => (s2, .error e)
        | (s2, .ok bb) => (s2, .ok (some (reValues 8 n gb), some (reValues 8 n bb)))
      else (s1, .ok (some (reValues 8 n gb), none))

/-- Cycles of a row-engine command with so many rows from the scratchpad (R92): P for the parameter buffer whenever the G
slot produces addresses. -/
def reCycles (ws : List Word) (gTotal rows : Nat) : Nat :=
  let k := reCmd ws
  let w := if fld (cword ws 3) 15 12 = 8 then 16 else 8
  let reads := match k.op with
    | 0x12 => if k.mode = 0 then 2 else 1
    | 0x13 => 4
    | 0x14 => 4
    | 0x15 => if k.mode = 0 then 4 else 2
    | _ => 2
  (if gTotal = 0 then 0 else (2 * k.len * 16 + 1023) / 1024) + rows * reads * ((k.len * w + 1023) / 1024) + 20

/-- The row engine takes the values that a drain's row has brought by cycle t (R86): a drained row of 128 or 256 elements
and a row of LEN elements need not have one length, and the model takes the drained values as one stream, cut every LEN
elements (DESIGN CHOICE, entry 173). A command's last output comes 20 cycles after its last input (R101). -/
def State.reDrained (s : State) (b t : Nat) : Nat → State
  | 0 => s
  | fuel + 1 =>
    let y := s.bay b
    match y.started.find? (fun c => c.isRe && bit (cword c.words 3) 5) with
    | none => s
    | some c =>
      let n := reLen c.words
      if c.left = 0 ∨ n = 0 ∨ y.reIn.length < n then s
      else
        match (s.setBay b { y with reIn := y.reIn.drop n }).reDoRow b c y.reGamma y.reBeta c.done (y.reIn.take n) with
        | (s2, some (r, a)) => s2.cmdFault b c r a
        | (s2, none) =>
          (s2.modStarted b c.id (fun x =>
            { x with left := x.left - 1, done := x.done + 1, earliest := max x.earliest (t + 20) })).reDrained b t fuel

/-- Pass rows i, i + 1, … of a drain to the row engine, in order; row i goes at cycle t, the next d cycles on (R49). -/
def State.drainToRe (s : State) (b : Nat) (c : Started) (gscale i t d : Nat) : Nat → State
  | 0 => s
  | k + 1 =>
    let fmt := fld (cword c.words 3) 23 20
    let rs := s.drainRowOf b c gscale i
    let vals := (rs.map (fun r => (r.1.zip (List.range r.1.length)).map (fun p => drainValue fmt gscale r.2.1 p.2 p.1))).flatten
    let y := s.bay b
    (((s.setBay b { y with reIn := y.reIn ++ vals }).stnFlags b (rs.foldl (fun a r => a ||| r.2.2) 0)).reDrained b t 256).drainToRe
      b c gscale (i + 1) (t + d) d k

/-- Start of a row-engine command (R90, R92): γ and β are read into the parameter buffer; with SRC = 0 its rows are
computed, with SRC = 1 they wait for a drain. -/
def reStart (op : Nat) (b q : Nat) (s : State) : Out :=
  stnStart op b q (fun c rest s =>
    let w3 := cword c.words 3
    let slots := (s.bay b).copySlots [fld w3 31 28, fld w3 27 24, fld w3 23 20, fld w3 19 16]
    let rows := if reLen c.words = 0 then 0 else reRows c.words
    let src := bit w3 5
    let g := (slots.getD 2 AgSlot.init).total
    let (s1, st) := s.beginCmd b q c rest (reCycles c.words g (if src then 0 else rows)) (if src then rows else 0) slots []
    if rows = 0 then s1
    else
      match s1.reParams b st with
      | (s2, .error (r, a)) => s2.cmdFault b st r a
      | (s2, .ok (gam, bet)) =>
        let s2 := s2.setBay b { s2.bay b with reGamma := gam, reBeta := bet }
        if src then s2
        else
          match s2.reRun b st gam bet 0 rows with
          | (s3, some (r, a)) => s3.cmdFault b st r a
          | (s3, none) => s3) s

/-- RE_NORM (Table 3.14): layer normalisation. -/
def execReNorm (bay : Fin 48) (q : Fin 4) (s : State) : Out := reStart 0x10 bay q s

/-- RE_RMS (Table 3.14): RMS normalisation. -/
def execReRms (bay : Fin 48) (q : Fin 4) (s : State) : Out := reStart 0x11 bay q s

/-- RE_SMAX (Table 3.14): soft-maximum. -/
def execReSmax (bay : Fin 48) (q : Fin 4) (s : State) : Out := reStart 0x12 bay q s

/-- RE_NORM_BWD (Table 3.14): layer-normalisation input gradient. -/
def execReNormBwd (bay : Fin 48) (q : Fin 4) (s : State) : Out := reStart 0x13 bay q s

/-- RE_RMS_BWD (Table 3.14): RMS-normalisation input gradient. -/
def execReRmsBwd (bay : Fin 48) (q : Fin 4) (s : State) : Out := reStart 0x14 bay q s

/-- RE_SMAX_BWD (Table 3.14): soft-maximum input gradient. -/
def execReSmaxBwd (bay : Fin 48) (q : Fin 4) (s : State) : Out := reStart 0x15 bay q s

/-- RE_ROWDOT (Table 3.14): per-row dot product into the ledger. -/
def execReRowdot (bay : Fin 48) (q : Fin 4) (s : State) : Out := reStart 0x16 bay q s

/-- STN_DRAIN (R86, R87): rounded rows to the scratchpad, or in order to the row engine. -/
def execStnDrain (bay : Fin 48) (q : Fin 4) (s : State) : Out :=
  stnStart 0x07 bay q (fun c rest s =>
    let w3 := cword c.words 3
    let w4 := cword c.words 4
    let n := fld w4 9 0
    let slots := (s.bay bay).copySlots [fld w3 31 28, fld w3 27 24]
    let g := s.drainScale c.part c.ctx (fld w4 31 24)
    let d := drainCycles (fld w3 23 20)
    let (s1, st) := s.beginCmd bay q c rest (6 + d * (n - 1)) 0 slots []
    if bit w3 16 then s1.drainToRe bay st g 0 ((s.bay bay).clk.cyc + 6) d n
    else
      match s1.drainOut bay st g (slots.getD 0 AgSlot.init) (slots.getD 1 AgSlot.init) 0 n with
      | (s2, none) => s2
      | (s2, some (r, a)) => s2.cmdFault bay st r a) s

end Sys2Proof.Machine
end

