-- ==== Sys2Proof/Machine/WingAlgo.lean ====
section
/-!
DEFINITION. Machine/WingAlgo.lean: the arithmetic of the wing engines in A28: the operators, the built-in algorithms of
R255 and the microprograms of R256.
-/
namespace Sys2Proof.Machine

/-- One rounding of a × b + c (Table 5.5). -/
def fFma (a b c : Flagged) : Flagged :=
  let r := fmaNum a.1 b.1 c.1
  step28 r.1 (a.2 ||| b.2 ||| c.2 ||| r.2)

def fNan (f : StickyFlags) (more : StickyFlags) : Flagged := (.nan, f ||| more ||| flagNf)

/-- MAX and MIN (Table 5.6). -/
def fMax (a b : Flagged) : Flagged := step28 (maxNum a.1 b.1) (a.2 ||| b.2)
def fMin (a b : Flagged) : Flagged := step28 (minNum a.1 b.1) (a.2 ||| b.2)

/-- ABS and NEG (Table 8.8). -/
def fAbs (a : Flagged) : Flagged := step28 (if a.1.isNeg then a.1.neg else a.1) a.2
def fNeg (a : Flagged) : Flagged := step28 a.1.neg a.2

/-- SGN (Table 8.8). -/
def fSgn (a : Flagged) : Flagged :=
  match a.1 with
  | .nan => fNan a.2 0
  | .inf n => (.fin n 1 0, a.2)
  | .fin n m e => if m = 0 then (.fin n m e, a.2) else (.fin n 1 0, a.2)

/-- RCP (Table 5.7). -/
def fRcp (a : Flagged) : Flagged :=
  match a.1 with
  | .nan => fNan a.2 0
  | .inf n => (.fin n 0 0, a.2)
  | .fin n m e =>
    if m = 0 then (.inf n, a.2 ||| flagNf)
    else
      fResult (rcpNum (.fin n m e))
        (fun y => match y with | .fin _ m' e' => eqNum (mulNum (.fin false m e) (.fin false m' e')).1 (.fin false 1 0) | _ => false)
        (magLt 1 126 m e) a.2

/-- RSQ (Table 5.7). -/
def fRsqrt (a : Flagged) : Flagged :=
  match a.1 with
  | .nan => fNan a.2 0
  | .inf false => (.fin false 0 0, a.2)
  | .inf true => fNan a.2 flagInv
  | .fin n m e =>
    if m = 0 then (.inf n, a.2 ||| flagNf)
    else if n then fNan a.2 flagInv
    else
      fResult (rsqNum (.fin false m e))
        (fun y => match y with | .fin _ m' e' => eqNum (.fin false (m * m' * m') (e + e' + e')) (.fin false 1 0) | _ => false)
        false a.2

/-- SQRT (Table 8.9). -/
def fSqrt (a : Flagged) : Flagged :=
  match a.1 with
  | .nan => fNan a.2 0
  | .inf false => (.inf false, a.2 ||| flagNf)
  | .inf true => fNan a.2 flagInv
  | .fin n m e =>
    if m = 0 then (.fin n m e, a.2)
    else if n then fNan a.2 flagInv
    else
      fResult (sqrtNum (.fin false m e))
        (fun y => match y with | .fin _ m' e' => eqNum (.fin false (m' * m') (e' + e')) (.fin false m e) | _ => false) false a.2

/-- The integer a value equals, if it is one of moderate size. -/
def intOf (n : Bool) (m : Nat) (e : Int) : Option Int :=
  let q := quantize m e 0
  if q.2.1 = 0 then some (if n then -(q.1 : Int) else (q.1 : Int)) else none

/-- EX2 (Table 8.9). -/
def fEx2 (a : Flagged) : Flagged :=
  match a.1 with
  | .nan => fNan a.2 0
  | .inf false => (.inf false, a.2 ||| flagNf)
  | .inf true => (.fin false 0 0, a.2)
  | .fin n m e =>
    if m = 0 then (.fin false 1 0, a.2)
    else
      let r := ex2Ref (.fin n m e)
      fResult (ex2Num (.fin n m e))
        (fun y => match intOf n m e, y with | some k, .fin _ m' e' => decide (k.natAbs < 512) && eqNum (.fin false 1 k) (.fin false m' e') | _, _ => false)
        (magLt r.1 r.2 1 (-126)) a.2

/-- LG2 (Table 8.9). -/
def fLg2 (a : Flagged) : Flagged :=
  match a.1 with
  | .nan => fNan a.2 0
  | .inf false => (.inf false, a.2 ||| flagNf)
  | .inf true => fNan a.2 flagInv
  | .fin n m e =>
    if m = 0 then (.inf true, a.2 ||| flagNf)
    else if n then fNan a.2 flagInv
    else
      let k := floorLog2 m e
      let pow := eqNum (.fin false 1 k) (.fin false m e)
      fResult (lg2Num (.fin false m e)) (fun y => pow && eqNum y (.fin (decide (k < 0)) k.natAbs 0)) false a.2

def one28 : Flagged := pure28 (.fin false 1 0)

/-- What an algorithm gives: w, m, v and the flags of all its operations. -/
structure WingOut where
  w : Flagged
  m : Flagged
  v : Flagged

/-- The built-in algorithms (R255): 0 adaptive, 1 momentum, 2 sign-momentum. -/
def builtin (algo : Nat) (w m v g : Flagged) (p : Nat → Flagged) (t : Flagged) : WingOut :=
  if algo = 0 then
    let m' := fFma (p 1) (fSub g m) m
    let v' := fFma (p 2) (fSub (fMul g g) v) v
    let b1 := fSub one28 (fEx2 (fMul t (fLg2 (fSub one28 (p 1)))))
    let b2 := fSub one28 (fEx2 (fMul t (fLg2 (fSub one28 (p 2)))))
    let u := fMul (fMul m' (fRcp b1)) (fRcp (fAdd (fSqrt (fMul v' (fRcp b2))) (p 3)))
    { w := fSub w (fMul (p 0) (fFma (p 4) w u)), m := m', v := v' }
  else if algo = 1 then
    let m' := fFma (p 1) m g
    { w := fSub w (fMul (p 0) (fFma (p 4) w m')), m := m', v := v }
  else
    let u := fSgn (fFma (p 1) (fSub g m) m)
    let m' := fFma (p 2) (fSub g m) m
    { w := fSub w (fMul (p 0) (fFma (p 4) w u)), m := m', v := v }

/-- The opcodes of Table 8.8. -/
def wingListed (op : Nat) : Bool := decide (1 ≤ op ∧ op ≤ 0x0F) || decide (op = 0x3F)

/-- What is wrong with a microprogram (R256): the index of an unlisted word before its END, or of its last word when it
has no END. -/
def progBad : List Word → Nat → Option Nat
  | [], i => some (i - 1)
  | w :: ws, i =>
    let op := fld w 31 26
    if op = 0x3F then none else if wingListed op then progBad ws (i + 1) else some i

/-- One word of a microprogram on its registers. -/
def wingWord (regs : List Flagged) (w : Word) : List Flagged :=
  let r := fun (k : Nat) => regs.getD k (pure28 (.fin false 0 0))
  let d := fld w 25 22
  let a := r (fld w 21 18)
  let b := r (fld w 17 14)
  let c := r (fld w 13 10)
  let out : Flagged :=
    match fld w 31 26 with
    | 0x01 => fAdd a b
    | 0x02 => fSub a b
    | 0x03 => fMul a b
    | 0x04 => fFma a b c
    | 0x05 => fMax a b
    | 0x06 => fMin a b
    | 0x07 => fAbs a
    | 0x08 => fNeg a
    | 0x09 => fSgn a
    | 0x0A => fRcp a
    | 0x0B => fRsqrt a
    | 0x0C => fSqrt a
    | 0x0D => fEx2 a
    | 0x0E => fLg2 a
    | _ => pure28 (bf16 (BitVec.ofNat 16 (fld w 15 0)))
  listSet regs d out

/-- A microprogram run to its END, with the flags of every operation (R256). -/
def wingProg (regs : List Flagged) (f : StickyFlags) : List Word → List Flagged × StickyFlags
  | [] => (regs, f)
  | w :: ws =>
    if fld w 31 26 = 0x3F then (regs, f)
    else
      let regs' := wingWord regs w
      wingProg regs' (f ||| (regs'.getD (fld w 25 22) one28).2) ws

/-- ALGO 3 (R256): the registers on entry, and what END writes; the flags of reading w and of forming ĝ count whatever the
program does with them (R110, R253). -/
def microprogram (ws : List Word) (w m v g : Flagged) (p : Nat → Flagged) (t : Flagged) : WingOut × StickyFlags :=
  let z := pure28 (.fin false 0 0)
  let r := wingProg ([w, m, v, g] ++ (List.range 8).map p ++ [t, z, z, z]) (w.2 ||| g.2) ws
  ({ w := r.1.getD 0 z, m := r.1.getD 1 z, v := r.1.getD 2 z }, r.2)

end Sys2Proof.Machine
end

