-- ==== Sys2Proof/Machine/ExchCore.lean ====
section
/-!
DEFINITION. Machine/ExchCore.lean: what the exchange of gradients rests on: the exchange record, tensor and optimizer
descriptors, shards, cast-list members and the way to them, bucket headers (R205 to R213, R222 to R236, R251, R252).
-/
namespace Sys2Proof.Machine

/-- Send bytes to member i of a cast list: VL3 of a chain port, or a class of the Ethernet port (R234, R236, R259). -/
def State.sendMember (s : State) (g i cls : Nat) (bs : List Byte) : State :=
  let l := s.cast g
  let d := l.members.getD i 0
  if l.ethernet then s.ethSend cls d 0 bs else s.chainSend (s.chain.portTo d) 3 d false bs

/-- A packet of class 5 that has just been queued for a peer takes one more chunk when its own are the chunks before it under the
same header, and it holds fewer than 4 (R361). -/
def OutMsg.joins (m : OutMsg) (peer now : Nat) (bs : List Byte) : Bool :=
  let n := (m.payload.length - 32) / 2048
  decide (m.kind = 0) && decide (m.cls = 5) && decide (m.peer = peer) && decide (m.ready = now) && decide (32 + 2048 * n = m.payload.length) &&
    decide (0 < n) && decide (n < 4) && decide (bs.length = 2080) && decide (bs.take 28 = m.payload.take 28) &&
    decide (leNat ((bs.drop 28).take 4) = leNat ((m.payload.drop 28).take 4) + n)

/-- A chunk of a bucket on the Ethernet port: up to 4 consecutive ones share a packet (R361). -/
def State.ethChunk (s : State) (peer : Nat) (bs : List Byte) : State :=
  match s.eth.egress.getLast? with
  | some m =>
    if m.joins peer s.clock.house bs then
      { s with eth := { s.eth with egress := s.eth.egress.dropLast ++ [{ m with payload := m.payload ++ bs.drop 32 }] } }
    else s.ethSend 5 peer 0 bs
  | none => s.ethSend 5 peer 0 bs

/-- Send bytes on to the next member of a ring (R234): on an intact loop the CW ring runs east and the CCW ring west, so that
the hop between members C − 1 and 0 uses the closing cable; elsewhere by the route to the member. -/
def State.sendRing (s : State) (g i : Nat) (cw : Bool) (bs : List Byte) : State :=
  let l := s.cast g
  let d := l.members.getD i 0
  if l.ethernet then s.ethChunk d bs
  else s.chainSend (if s.chain.isLoop && s.chain.broken.isNone then cw else s.chain.portTo d) 3 d false bs

/-- The exchange record of a context (R222). -/
def State.xaddr (s : State) (p c : Nat) : Option Nat := ((s.ctx p c).book).bind Book.xrec
def State.xget (s : State) (p c off n : Nat) : Nat := (s.xrecField p c off n).getD 0
def State.xput (s : State) (p c off n v : Nat) : State :=
  match s.xaddr p c with
  | some a => s.putMemNat (a + off) n v
  | none => s

/-- Add to a 32-bit counter of the exchange record. -/
def State.xcount (s : State) (p c off n : Nat) : State := s.xput p c off 4 ((s.xget p c off 4 + n) % 2 ^ 32)

/-- Check 7 of R228: the context is bound to the list's current epoch. A dress run has no record and no binding. -/
def State.epochOk (s : State) (p c g : Nat) : Bool :=
  match s.xaddr p c with
  | some a => decide (leNat (s.bytes (a + 0x100 + 4 * g) 4) = (s.cast g).epoch.toNat)
  | none => true

/-- A tensor descriptor (Table 7.3). -/
structure TDesc where
  addr : Nat
  tensor : Nat
  fmt : Nat
  sharded : Bool
  frozen : Bool
  rows : Nat
  cols : Nat
  wcBase : Nat
  stateBase : Nat
  shards : Nat
deriving DecidableEq, Repr

def tdescOf (addr : Nat) (bs : List Byte) : TDesc :=
  let f := fun off n => leNat ((bs.drop off).take n)
  { addr := addr, tensor := f 0 2, fmt := f 2 1 % 16, sharded := (f 3 1).testBit 1, frozen := (f 3 1).testBit 0,
    rows := f 4 4, cols := f 8 4, wcBase := f 12 6, stateBase := f 18 6, shards := f 24 1 }

/-- The tensor table of a context's book. -/
def State.tensors (s : State) (p c : Nat) : List TDesc :=
  match (s.ctx p c).book with
  | some b =>
    match b.tensors with
    | some a => (List.range b.ntensors).map (fun i => tdescOf (a + 32 * i) (s.bytes (a + 32 * i) 32))
    | none => []
  | none => []

def State.tensor (s : State) (p c id : Nat) : Option TDesc := (s.tensors p c).find? (fun d => decide (d.tensor = id))

/-- An optimizer descriptor (Table 8.7). -/
structure ODesc where
  addr : Nat
  algo : Nat
  live : Nat
  tensor : Nat
  prog : Nat
  params : List (BitVec 16)
  stageBase : Nat
  halfStride : Nat
  nshard : Nat
deriving DecidableEq, Repr

def odescOf (addr : Nat) (bs : List Byte) : ODesc :=
  let f := fun off n => leNat ((bs.drop off).take n)
  { addr := addr, algo := f 0 1, live := f 1 1 % 2, tensor := f 2 2, prog := f 4 1,
    params := (List.range 8).map (fun i => BitVec.ofNat 16 (f (8 + 2 * i) 2)), stageBase := f 24 6,
    halfStride := f 30 6, nshard := f 36 4 }

/-- Descriptor n of a context; none past DESC_COUNT (Table 8.1). -/
def State.odesc (s : State) (p c n : Nat) : Option ODesc :=
  if n < s.xget p c 0x01C 4 then
    let a := s.xget p c 0x020 8 + 64 * n
    some (odescOf a (s.bytes a 64))
  else none

def State.odescs (s : State) (p c : Nat) : List ODesc := (List.range (min 4096 (s.xget p c 0x01C 4))).filterMap (s.odesc p c)

/-- First square row, and the one past the last, of shard j of n of a tensor with the given rows (R224). -/
def shardRows (rows n j : Nat) : Nat × Nat := (j * (rows / 32) / max 1 n, (j + 1) * (rows / 32) / max 1 n)

/-- Rows of this module's shard: NSHARD says it for a trained tensor; else the largest shard (R224). -/
def State.rowsHere (s : State) (p c : Nat) (d : TDesc) : Nat :=
  match (s.odescs p c).find? (fun o => decide (o.tensor = d.tensor)) with
  | some o => o.nshard / max 1 d.cols
  | none => (d.rows / 32 + max 1 d.shards - 1) / max 1 d.shards * 32

/-- Bytes of the elements of n rows of a working copy, and of its scale plane (R59, R225). -/
def wcData (fmt n cols : Nat) : Nat := if fmt = 8 then 2 * n * cols else if fmt = 4 then n * cols / 2 else n * cols
def wcPlane (fmt n cols : Nat) : Nat := if fmt = 8 then 0 else n / 32 * (cols / 32)
def wcBytes (fmt n cols : Nat) : Nat := wcData fmt n cols + wcPlane fmt n cols

/-- The working copies of a context: base and bytes (R207). -/
def State.workingCopies (s : State) (p c : Nat) : List (Nat × Nat) :=
  (s.tensors p c).map (fun d => (d.wcBase, wcBytes d.fmt (s.rowsHere p c d) d.cols))

/-- Two address ranges overlap. -/
def rangesMeet (a n b m : Nat) : Bool := decide (0 < n) && decide (0 < m) && decide (a < b + m) && decide (b < a + n)

/-- A range is read-only for an engine that is not a wing engine (R207); to a dress run its parent's copies are too. -/
def State.readOnly (s : State) (p c a n : Nat) : Bool :=
  let x := s.ctx p c
  (s.workingCopies p c).any (fun w => rangesMeet a n w.1 w.2) ||
    (x.dress && (s.workingCopies p x.parent).any (fun w => rangesMeet a n w.1 w.2))

/-- An engine of a context may read a range of HBM: its quota, or for a dress run its parent's working copies (R218). -/
def State.hbmReadOk (s : State) (p c a n : Nat) : Bool :=
  let x := s.ctx p c
  x.hbmOk a n || (x.dress && (s.workingCopies p x.parent).any (fun w => decide (w.1 ≤ a) && decide (a + n ≤ w.1 + w.2)))

/-- A range of the scratchpad window lies in a context's quota, in bays of its partition (R13, R74). -/
def State.spWindowOk (s : State) (p c a n : Nat) : Bool :=
  decide (spBase ≤ a) && decide (a + n ≤ spBase + 6144 * 0x20000) &&
    (if n = 0 then true
     else (seqFromTo ((a - spBase) / 0x20000) ((a + n - 1 - spBase) / 0x20000)).all (fun l =>
       let lo := max a (spBase + l * 0x20000)
       let hi := min (a + n) (spBase + (l + 1) * 0x20000)
       s.bayActive (handBay l) && decide (s.partOfBay (handBay l) = p) &&
         (s.ctx p c).spOk (spBayOff lo).2 (hi - lo)))

/-- Read a range of the data space: the bytes, or none when a word or a block is uncorrectable. -/
def State.dsRead (s : State) (a n : Nat) : State × Option (List Byte) :=
  if spBase ≤ a then
    match s.checkWords (wordsOf a n) with
    | (s', true) => (s', some (s.bytes a n))
    | (s', false) => (s', none)
  else s.readMem a n

/-- Write a range of the data space; false when a word written in part is uncorrectable. -/
def State.dsWrite (s : State) (a : Nat) (v : List Byte) : State × Bool :=
  if spBase ≤ a then
    match s.checkWords (partialWords a v.length) with
    | (s', true) => ((s'.freshWords (wordsOf a v.length)).putBytes a v, true)
    | (s', false) => (s', false)
  else (s.writeMem a v, true)

/-- The G16 values of little-endian bytes, and back. -/
def g16Of : Nat → List Byte → List (BitVec 16)
  | 0, _ => []
  | n + 1, bs => BitVec.ofNat 16 (leNat (bs.take 2)) :: g16Of n (bs.drop 2)
def g16Bytes (l : List (BitVec 16)) : List Byte := (l.map (fun v => toLE 2 v.toNat)).flatten

/-- The 32 bytes of a bucket header (Table 8.3). -/
def hdrBytes (h : BucketHdr) : List Byte :=
  toLE 2 h.tag.toNat ++ [h.cast] ++
    toLE 1 ((if h.nf then 128 else 0) + (if h.recomp then 64 else 0) + (if h.check then 32 else 0) + h.level.toNat) ++
    toLE 4 h.step.toNat ++ toLE 4 h.epoch.toNat ++ [h.scale, 0] ++ toLE 2 h.ncontrib.toNat ++ toLE 8 h.contrib.toNat ++
    toLE 4 h.count ++ toLE 4 h.chunk

/-- The G16 NaN. -/
def nanG16 : BitVec 16 := BitVec.ofNat 16 fmtG16.nan

/-- A stored value under its bucket scale: a scale of 0xFF makes every element NaN (R109). -/
def underScale (g : Byte) (v : BitVec 16) : BitVec 16 := if g = 0xFF then nanG16 else v

/-- An element of a bucket under scale g that is a NaN or an infinity. -/
def g16Bad (g : Byte) (v : BitVec 16) : Bool := let x := fmtG16.decode (underScale g v).toNat; x.isNan || x.isInf

/-- A value under scale a brought under scale b (R109, R233, Table 4.8). -/
def rescaleG16 (a b : Byte) (v : BitVec 16) : BitVec 16 :=
  if a = 0xFF ∨ b = 0xFF then nanG16
  else if a = b then v
  else BitVec.ofNat 16 (fmtG16.rne ((fmtG16.decode v.toNat).scale ((a.toNat : Int) - (b.toNat : Int)))).1

/-- Chunk k of 1,024 values, counted from the first of a list (R226). -/
def chunkAt (vals : List (BitVec 16)) (k : Nat) : List (BitVec 16) := (vals.drop (1024 * k)).take 1024

/-- Chunk k of the bucket with a tag is sampled in a step (R247). -/
def sampled (tag : Nat) (step : Word) (k : Nat) : Bool :=
  decide ((crg 0 (BitVec.ofNat 32 tag) step k).2.1.toNat % 4096 = 0)

/-- Agreement of two elements (R248). -/
def g16Agree (a b : BitVec 16) : Bool :=
  match fmtG16.decode a.toNat, fmtG16.decode b.toNat with
  | .nan, .nan => true
  | .inf x, .inf y => decide (x = y)
  | .fin n m e, .fin n' m' e' =>
    let big := if magLt m e m' e' then b else a
    let ef := big.toNat / 512 % 64
    let ulp : Int := if ef = 0 then -39 else (ef : Int) - 40
    match addFin n m e (!n') m' e' with
    | .fin _ dm de => !(magLt 2 ulp dm de)
    | _ => true
  | _, _ => false

end Sys2Proof.Machine
end

