-- ==== Sys2Proof/Machine/Ethernet.lean ====
section
/-!
DEFINITION. Machine/Ethernet.lean: the Ethernet port and the Poelalin transport, house time over the port, cluster
curtains (R342 to R346, R359 to R365).
-/
namespace Sys2Proof.Machine

/-- A frame or packet is discarded and counted (ETH_DROP). -/
def State.ethDrop (s : State) : State := s.countSat (aEth 0x38) 1

/-- The port is up. -/
def State.ethUp (s : State) : Bool := s.ymr.dieOn && s.eth.link

/-- ETH_CFG. -/
def State.ethCfg (s : State) : Word := s.reg (aEth 0x04)

/-- The VLAN id that frames carry (Table 12.1). -/
def State.ethVid (s : State) : Nat := if bit s.ethCfg 13 then fld s.ethCfg 11 0 else 0

/-- A frame uses only features of Table 12.1 (R342): the port's VLAN, IPv6 or the IPv4 in use, whole packets of at most 9,216
bytes, UDP from and to port 48120 with a good checksum and the priority of its class, or another protocol of the table. -/
def State.frameOk (s : State) (f : FrameInfo) : Bool :=
  decide (f.vid = s.ethVid) &&
    (decide (f.ipVersion = 6) || (decide (f.ipVersion = 4) && !(decide (s.reg (aEth 0x18) = 0)))) &&
    decide (f.ipBytes ≤ 9216) && !f.fragment && f.checksumOk &&
    (match f.proto with
     | .udp a b => decide (a = 48120) && decide (b = 48120) && decide (f.prio = (f.bytes.getD 1 0).toNat)
     | .other => false
     | _ => true)

/-- A neighbour that has been heard is known (R363). -/
def State.learn (s : State) (a : Nat) : State :=
  if s.eth.neighbours.contains a then s else { s with eth := { s.eth with neighbours := s.eth.neighbours ++ [a] } }

/-- An answer of another protocol of Table 12.1 waits for egress, in the place of class 6 (entry 196). -/
def State.answer (s : State) (peer : Nat) (bs : List Byte) : State :=
  let m : OutMsg := { kind := 3, cls := 6, peer := peer, conn := 0, psn := 0, payload := bs, ready := s.clock.house }
  { s with eth := { s.eth with egress := s.eth.egress ++ [m] } }

/-- What a frame of another protocol does (Table 12.1): a question for one of the module's addresses is answered with its MAC
address, an echo with its own bytes; a router gives the SLAAC address; senders become neighbours. -/
def State.takeControl (s : State) (f : FrameInfo) : State :=
  match f.proto with
  | .solicit a => if s.ownAddrs.contains a then (s.learn f.src).answer f.src (toLE 16 a ++ toLE 6 s.fuse.mac.toNat) else s.learn f.src
  | .advert => s.learn f.src
  | .router p =>
    let s := s.learn f.src
    { s with eth := { s.eth with slaac := some (BitVec.ofNat 128 (p.toNat * 2 ^ 64 + linkLocal s.fuse.mac.toNat % 2 ^ 64)) } }
  | .echo => if s.ownAddrs.contains f.dst then s.answer f.src f.bytes else s
  | _ => s

/-- FRAME_RECEIVE (R342, R349 step 1): a frame with an unsupported feature is discarded and counted. A UDP frame that is
accepted goes on as a transport packet; one not addressed to the port is none of its own. -/
def execFrameReceive (f : FrameInfo) (s : State) : Out :=
  if !s.ethUp || !f.forUs then idle s
  else if s.frameOk f then .next (s.takeControl f)
  else .next s.ethDrop

/-- Receive window of a class (Table 12.2); a class that is none of them has none. -/
def classWindow (cls : Nat) : Nat := if cls = 7 then 64 else if cls = 6 then 32 else if cls = 5 ∨ cls = 3 then 1024 else 0

/-- Position of a connection (R344). -/
def Eth.find (e : Eth) (peer cls conn : Nat) : Option Nat :=
  (List.range e.conns.length).find? (fun i =>
    match e.conns[i]? with
    | some c => decide (c.peer = peer) && decide (c.cls = cls) && decide (c.conn = conn)
    | none => false)

/-- A connection as it is opened. Until the first acknowledgement the window is the class's own (entry 28). -/
def Conn.fresh (peer cls conn : Nat) (opener : Bool) (key : Nat) : Conn :=
  { peer := peer, cls := cls, conn := conn, opener := opener, key := key, rxNext := 0, rxBuf := [], rxUnacked := 0, rxSince := 0,
    txNext := 0, txUnacked := [], txLimit := classWindow cls, xseq := 0 }

/-- A connection is opened; one of classes 3, 5 and 7 agrees its keys first, both modules signing (R346). The exchange itself
has no layout in the spec and its outcome is a free value (entry 191). -/
def State.addConn (s : State) (peer cls conn : Nat) (opener : Bool) : State :=
  let add := fun (s : State) (key : Nat) => { s with eth := { s.eth with conns := s.eth.conns ++ [Conn.fresh peer cls conn opener key] } }
  if cls = 6 then add s 0
  else
    let s := s.takeIndex.1
    add { s with free := s.free + 1 } (Config.freeValue 512 s.free).toNat

/-- The key of the direction from this module (R346). -/
def Conn.outKey (c : Conn) : Nat := if c.opener then c.key % 2 ^ 256 else c.key / 2 ^ 256

def State.setConn (s : State) (i : Nat) (c : Conn) : State := { s with eth := { s.eth with conns := listSet s.eth.conns i c } }

/-- A frame waits for egress (R345). -/
def State.queueFrame (s : State) (kind : Nat) (c : Conn) (psn : Nat) (bs : List Byte) : State :=
  let m : OutMsg :=
    { kind := kind, cls := c.cls, peer := c.peer, conn := c.conn, psn := psn, payload := bs, ready := s.clock.house }
  { s with eth := { s.eth with egress := s.eth.egress ++ [m] } }

/-- A connection goes, with what was queued on it. -/
def State.dropConn (s : State) (i : Nat) (c : Conn) : State :=
  let mine := fun (m : OutMsg) =>
    decide (m.kind ≠ 3) && decide (m.peer = c.peer) && decide (m.cls = c.cls) && (decide (m.kind = 0) || decide (m.conn = c.conn))
  { s with eth := { s.eth with conns := listDrop s.eth.conns i, egress := s.eth.egress.filter (fun m => !(mine m)) } }

/-- A connection is down (R344): its queued packets go, and the event is logged. -/
def State.connDown (s : State) (i : Nat) (c : Conn) : State :=
  (s.dropConn i c).logEvent 0x0048 whereModule (packData [(4, c.peer), (1, c.cls), (3, c.conn)])

/-- Packet psn of connection i is sent again, unless it has been sent 16 times (R344). -/
def State.resend (s : State) (i psn : Nat) : State :=
  match s.eth.conns[i]? with
  | some c =>
    match c.txUnacked.find? (fun t => decide (t.psn = psn)) with
    | some t =>
      if 16 ≤ t.tries then s.connDown i c
      else
        let upd := fun (x : TxPkt) => if x.psn = psn then { x with sent := s.clock.house, tries := x.tries + 1 } else x
        ((s.setConn i { c with txUnacked := c.txUnacked.map upd }).queueFrame 1 c psn t.payload).countSat (aEth 0x34) 1
    | none => s
  | none => s

/-- The acknowledgement of connection i goes out (R344): what it tells is told as it leaves. -/
def State.sendAck (s : State) (i : Nat) : State :=
  match s.eth.conns[i]? with
  | some c => (s.setConn i { c with rxUnacked := 0 }).queueFrame 2 c 0 []
  | none => s

/-- Payloads in PSN order from the receive buffer to the engines (R344). -/
def Conn.deliver : Nat → Conn → List (List Byte) → Conn × List (List Byte)
  | 0, c, out => (c, out)
  | fuel + 1, c, out =>
    match c.rxBuf.find? (fun x => decide (x.1 = c.rxNext)) with
    | some x =>
      Conn.deliver fuel { c with rxNext := c.rxNext + 1, rxBuf := c.rxBuf.filter (fun y => decide (y.1 ≠ x.1)) } (out ++ [x.2])
    | none => (c, out)

/-- What an acknowledgement does at the sender (R344): packets it names are done, its window opens, and a packet missing
before one that was received is sent again. -/
def State.takeAck (s : State) (i : Nat) (t : TransPkt) : State :=
  match s.eth.conns[i]? with
  | some c =>
    let sacked := fun (n : Nat) => decide (t.ackPsn < n) && t.sack.getLsbD (n - t.ackPsn - 1)
    let left := c.txUnacked.filter (fun x => decide (t.ackPsn ≤ x.psn) && !(sacked x.psn))
    let lost := left.filter (fun x => c.txUnacked.any (fun y => decide (x.psn < y.psn) && sacked y.psn))
    let s := s.setConn i { c with txUnacked := left, txLimit := max c.txLimit (t.ackPsn + t.window) }
    lost.foldl (fun s x => match s.eth.find c.peer c.cls c.conn with | some k => s.resend k x.psn | none => s) s
  | none => s

/-- Packets that wait in the receive buffer of a class. -/
def Eth.buffered (e : Eth) (cls : Nat) : Nat := (e.conns.filter (fun c => decide (c.cls = cls))).foldl (fun n c => n + c.rxBuf.length) 0

/-- A frame is put on the wire with the VLAN id in force (R366). -/
def State.putFrame (s : State) (peer prio : Nat) (b : FrameBody) : State :=
  { s with eth := { s.eth with wire := s.eth.wire ++ [{ peer := peer, prio := prio, vid := s.ethVid, body := b }] } }

/-- PFC pauses class 3 or 5 as its receive buffer fills, and lets it go on once it does not (R345). -/
def State.pfcClass (s : State) (cls : Nat) : State :=
  let full := decide (Config.rxCapacity cls ≤ s.eth.buffered cls)
  if full = (if cls = 3 then s.eth.pausing3 else s.eth.pausing5) then s
  else
    State.putFrame { s with eth := if cls = 3 then { s.eth with pausing3 := full } else { s.eth with pausing5 := full } } 0 cls
      (.pfc cls full)

/-- What a data packet does at the receiver (R344): new and inside the window it is kept, what is in order is
delivered; every sixteenth is acknowledged at once. -/
def State.takeData (s : State) (i : Nat) (t : TransPkt) : State :=
  match s.eth.conns[i]? with
  | some c =>
    let dup := decide (t.psn < c.rxNext) || c.rxBuf.any (fun x => decide (x.1 = t.psn))
    let far := decide (c.rxNext + classWindow c.cls ≤ t.psn)
    let c := if dup || far then c else { c with rxBuf := c.rxBuf ++ [(t.psn, t.payload)] }
    let (c, out) := c.deliver c.rxBuf.length []
    let c := { c with rxSince := if c.rxUnacked = 0 then s.clock.house else c.rxSince, rxUnacked := c.rxUnacked + 1 }
    let s := s.setConn i c
    let s := { s with eth := { s.eth with delivered := s.eth.delivered ++ out.map (fun p => (c.cls, c.peer, p)) } }
    let s := if 16 ≤ c.rxUnacked then s.sendAck i else s
    if c.cls = 3 ∨ c.cls = 5 then s.pfcClass c.cls else s
  | none => s

/-- TRANSPORT_PACKET (R343, R344): a packet of a known connection, or one that opens a connection, while fewer than 256
are held. -/
def execTransportPacket (t : TransPkt) (s : State) : Out :=
  if !s.ethUp then idle s
  else if t.version ≠ 1 ∨ classWindow t.cls = 0 ∨ (t.cls ≠ 6 ∧ t.tagOk = false) then .next s.ethDrop
  else
    let go := fun (s : State) (i : Nat) =>
      let n := s.eth.conns.length
      let s := if t.ack then s.takeAck i t else s
      if t.data ∧ s.eth.conns.length = n then s.takeData i t else s
    match s.eth.find t.peer t.cls t.conn with
    | some i => .next (go s i)
    | none =>
      if t.opening ∧ t.psn = 0 ∧ s.eth.conns.length < 256 ∧ (t.cls = 6 ∨ (s.ymrUp && s.canSign) = true) then
        let s := s.addConn t.peer t.cls t.conn false
        .next (go s (s.eth.conns.length - 1))
      else .next s.ethDrop

/-- ACK_TIMER (R344): 2 µs after an unacknowledged packet arrived, connection i acknowledges. -/
def execAckTimer (i : Nat) (s : State) : Out :=
  match s.eth.conns[i]? with
  | some c => if 0 < c.rxUnacked ∧ c.rxSince + 2000 ≤ s.clock.house then .next (s.sendAck i) else idle s
  | none => idle s

/-- RETRANSMIT_TIMER (R344): packet psn of connection i has gone 20 µs (class 7) or 100 µs without an
acknowledgement. -/
def execRetransmitTimer (i : Nat) (psn : Nat) (s : State) : Out :=
  match s.eth.conns[i]? with
  | some c =>
    match c.txUnacked.find? (fun t => decide (t.psn = psn)) with
    | some t => if t.sent + (if c.cls = 7 then 20000 else 100000) ≤ s.clock.house then .next (s.resend i psn) else idle s
    | none => idle s
  | none => idle s

/-- The connection a new payload goes on: one to the peer whose counts do not wrap yet (R346), else a new one. -/
def Eth.connFor (e : Eth) (peer cls conn : Nat) : Option Nat :=
  (List.range e.conns.length).find? (fun i =>
    match e.conns[i]? with
    | some c => decide (c.peer = peer) && decide (c.cls = cls) && decide (conn ≤ c.conn) &&
        decide (c.txNext + 1 < 2 ^ 32) && decide (c.xseq + 1 < 2 ^ 32)
    | none => false)

/-- Connection numbers to a peer that are taken. -/
def Eth.nextConn (e : Eth) (peer cls conn : Nat) : Nat :=
  e.conns.foldl (fun n c => if c.peer = peer ∧ c.cls = cls ∧ n ≤ c.conn then c.conn + 1 else n) conn

/-- A frame may be sent now: its class is not paused, and a new payload is inside its connection's window. -/
def Eth.canSend (e : Eth) (m : OutMsg) : Bool :=
  !(decide (m.cls = 3) && e.paused3) && !(decide (m.cls = 5) && e.paused5) &&
    (decide (m.kind ≠ 0) ||
      (match (e.connFor m.peer m.cls m.conn).bind (fun i => e.conns[i]?) with
       | some c => decide (c.txNext < c.txLimit)
       | none => decide (e.conns.length < 256)))

/-- The next frame in class order 7, 6, 5, 3, oldest first (R345). -/
def Eth.pick (e : Eth) : Option Nat :=
  [7, 6, 5, 3].findSome? (fun cls =>
    (List.range e.egress.length).find? (fun i =>
      match e.egress[i]? with
      | some m => decide (m.cls = cls) && e.canSend m
      | none => false))

/-- A connection for a new payload exists: it is opened when it does not (R344). -/
def State.openConn (s : State) (m : OutMsg) : State :=
  match s.eth.connFor m.peer m.cls m.conn with
  | some _ => s
  | none => s.addConn m.peer m.cls (s.eth.nextConn m.peer m.cls m.conn) true

/-- The key exchange that a new connection of classes 3, 5 and 7 needs can be signed (R346, R403). -/
def State.canOpen (s : State) (cls : Nat) : Bool := decide (cls = 6) || (s.ymrUp && s.canSign)

/-- The packet that a frame of a connection carries (Table 12.3): one with no payload names the next PSN and acknowledges. -/
def Conn.packet (c : Conn) (m : OutMsg) : TransPkt :=
  let ack := decide (m.kind = 2)
  let psn := if m.kind = 1 then m.psn else c.txNext
  let sack := c.rxBuf.foldl (fun (v : BitVec 64) x => v ||| BitVec.ofNat 64 (2 ^ (x.1 - c.rxNext - 1))) 0
  { peer := c.peer, cls := c.cls, conn := c.conn, data := !ack, ack := ack, opening := c.opener && !ack && decide (psn = 0),
    psn := psn, ackPsn := if ack then c.rxNext else 0, sack := if ack then sack else 0, window := if ack then classWindow c.cls else 0,
    xseq := if c.cls = 6 then 0 else c.xseq, tagOk := true, version := 1, payload := m.payload }

/-- The bytes of a packet (Table 12.3, R343, R346): header, payload, and for classes 3, 5 and 7 encrypted with the tag. -/
def transHeader (t : TransPkt) : List Byte :=
  [t.version] ++ toLE 1 t.cls ++ toLE 1 (b2n t.data + 2 * b2n t.ack + 4 * b2n t.opening) ++ [0] ++ toLE 4 t.conn ++ toLE 4 t.psn ++
    toLE 4 t.ackPsn ++ toLE 8 t.sack.toNat ++ toLE 2 t.window ++ toLE 2 t.payload.length ++ toLE 4 t.xseq
def transBytes (key : Nat) (t : TransPkt) : List Byte :=
  let nonce := t.conn + 2 ^ 32 * t.xseq
  if t.cls = 6 then transHeader t ++ t.payload
  else transHeader t ++ fitTo t.payload.length (Config.gcmBytes key nonce 0 t.payload) ++ toLE 16 (Config.gcmTag key nonce (transHeader t) t.payload).toNat

/-- A connection is closed before its counts wrap (R346): what it has not had acknowledged waits again, to go on a connection
under fresh keys. -/
def State.closeConn (s : State) (i : Nat) (c : Conn) : State :=
  let again := c.txUnacked.map (fun (x : TxPkt) =>
    ({ kind := 0, cls := c.cls, peer := c.peer, conn := 0, psn := 0, payload := x.payload, ready := s.clock.house } : OutMsg))
  let stale := fun (m : OutMsg) => (decide (m.kind = 1) || decide (m.kind = 2)) && decide (m.peer = c.peer) && decide (m.cls = c.cls) && decide (m.conn = c.conn)
  { s with eth := { s.eth with conns := listDrop s.eth.conns i, egress := again ++ s.eth.egress.filter (fun m => !(stale m)) } }

/-- A frame goes on the wire; every transmission of classes 3, 5 and 7 takes the connection's next XSEQ (R346). -/
def State.transmit (s : State) (m : OutMsg) : State :=
  if m.kind = 3 then s.putFrame m.peer m.cls (.control m.payload)
  else
    let s := if m.kind = 0 then s.openConn m else s
    match (if m.kind = 0 then s.eth.connFor m.peer m.cls m.conn else s.eth.find m.peer m.cls m.conn) with
    | some i =>
      match s.eth.conns[i]? with
      | some c =>
        if c.cls ≠ 6 ∧ 2 ^ 32 ≤ c.xseq + 1 then s.closeConn i c
        else
          let sent : TxPkt := { psn := c.txNext, payload := m.payload, sent := s.clock.house, tries := 1 }
          let c' := { c with xseq := if c.cls = 6 then 0 else c.xseq + 1 }
          let c' := if m.kind = 0 then { c' with txNext := c.txNext + 1, txUnacked := c.txUnacked ++ [sent] } else c'
          (s.setConn i c').putFrame c.peer c.cls (.packet c.outKey (c.packet m))
      | none => s
    | none => s

/-- EGRESS_FRAME (R345): at a frame boundary the port takes the next frame; ETH_CURTMAX keeps the longest wait of
class 7. -/
def execEgressFrame (s : State) : Out :=
  if s.ethUp then
    match s.eth.pick with
    | some i =>
      match s.eth.egress[i]? with
      | some m =>
        if m.kind = 0 ∧ s.eth.connFor m.peer m.cls m.conn = none ∧ s.canOpen m.cls = false then idle s
        else
        let s := { s with eth := { s.eth with egress := listDrop s.eth.egress i } }
        let s := if m.cls = 7 then s.maxFld (aEth 0x48) 15 0 (min 0xFFFF (s.clock.house - m.ready)) else s
        .next (s.transmit m)
      | none => idle s
    | none => idle s
  else idle s

/-- PFC_FRAME (R345): priorities 3 and 5 pause; any other is ignored and counted. -/
def execPfcFrame (prio : Fin 8) (pause : Bool) (s : State) : Out :=
  if !s.ethUp then idle s
  else if prio.val = 3 then .next { s with eth := { s.eth with paused3 := pause } }
  else if prio.val = 5 then .next { s with eth := { s.eth with paused5 := pause } }
  else .next (s.countSat (aEth 0x44) 1)

/-- ETH_LINK_DOWN (R362): 10 ms without a valid signal. Connections and what waits on them stay. -/
def execEthLinkDown (s : State) : Out := .next { s.ptpEnd with eth := { s.ptpEnd.eth with link := false } }

/-- ETH_LINK_TRAINED (R342, R362): at 1.6 Tb/s, or at 800 Gb/s when ETH_CFG.FALLBACK allows; the port stays down after
loss of reference. -/
def execEthLinkTrained (full : Bool) (s : State) : Out :=
  if s.ymr.dieOn && !s.clock.refLost && (full || bit s.ethCfg 15) then
    .next { s with eth := { s.eth with link := true, slow := !full } }
  else idle s

/-- A context of the die is in state 4 or 5 (R323). -/
def State.dieRuns (s : State) : Bool := s.ctxs.any (fun kv => decide (kv.2.st = 4 ∨ kv.2.st = 5))

/-- House time is stepped by an offset it is ahead by (R323). -/
def State.stepHouse (s : State) (offset : Int) : State :=
  { s with clock := { s.clock with house := ((s.clock.house : Int) - offset).toNat, frac := 0, trim := 0 } }

/-- The rate is trimmed by 50 ppm against an offset, in units of 2 ppb, or left alone (R323, R360). -/
def State.trimHouse (s : State) (offset : Int) (done : Nat) : State :=
  let t : Int := if offset.natAbs < done then 0 else if 0 < offset then -25000 else 25000
  { s with clock := { s.clock with trim := t } }

/-- Dataset a stands before b (R359): the lower in the first of the standard's criteria in which they differ (PRESUMED,
entry 197). -/
def ptpBefore (a b : PtpData) : Bool :=
  let key := fun (d : PtpData) =>
    [d.priority1, d.clockClass, d.accuracy, d.variance, d.priority2, d.identity, d.stepsRemoved, d.source]
  let diff := ((key a).zip (key b)).find? (fun q => decide (q.1 ≠ q.2))
  diff.elim true (fun q => decide (q.1 < q.2))

/-- A timestamp of the port: house time, with an error of at most 8 ns (R359) that is a free value (entry 197). -/
def State.portStamp (s : State) : State × Int :=
  ({ s with free := s.free + 1 }, (s.clock.house : Int) + ((Config.freeValue 8 s.free).toNat % 17 : Nat) - 8)

/-- The path delay that a delay request and its response give (R359): half of what the two ways take together. -/
def Eth.pathDelay (e : Eth) (response : Option Nat) : Int :=
  match e.ptpSync, e.ptpReq, response with
  | some (t1, t2), some t3, some t4 => ((t2 - t1) + ((t4 : Int) - t3)) / 2
  | _, _, _ => e.ptpDelay

/-- House time is corrected by an offset it is ahead by (R323, R360): the chain master alone. -/
def State.discipline (s : State) (offset : Int) : State :=
  if !s.chain.head then s
  else if 1000 < offset.natAbs ∧ s.dieRuns = false then { s.stepHouse offset with eth := { s.eth with ptpSync := none } }
  else s.trimHouse offset 10

/-- SYNC_MESSAGE (R359, R360): a Sync in the port's domain from a transmitter that stands before the present one, or is it, gives
an offset, which is shown and corrected; the port asks for the path delay again. -/
def execSyncMessage (m : SyncMsg) (s : State) : Out :=
  let e := s.eth
  let known := decide (e.ptpMaster = some m.data)
  if s.ethUp && bit s.ethCfg 14 && decide (m.domain.toNat = fld (s.reg (aEth 0x08)) 7 0) &&
      (known || e.ptpMaster.elim true (fun d => ptpBefore m.data d)) then
    let delay := if known then e.pathDelay m.response else 0
    let (s, t2) := s.portStamp
    let offset : Int := t2 - m.sent - delay
    let good := if offset.natAbs < 100 then min 16 (e.ptpGood + 1) else 0
    let s := { s with eth := { s.eth with ptpOffset := offset, ptpGood := good, ptpMaster := some m.data, ptpDelay := delay,
                                          ptpSync := some ((m.sent : Int), t2) } }
    let s := s.discipline offset
    let (s, t3) := s.portStamp
    .next (State.answer { s with eth := { s.eth with ptpReq := some t3 } } m.data.source [])
  else idle s

/-- CLUSTER_ARRIVE (R364, R365: a message of another KIND is none of this row's, and one of no KIND of Table 12.7 is discarded): the cluster root, member 0 of the list, counts the arrival of a chain. -/
def execClusterArrive (m : CurtMsg) (s : State) : Out :=
  if s.ethUp && decide (m.kind = 1) && (s.cast m.cast).ethernet && s.ownAddrs.contains ((s.cast m.cast).members.getD 0 0) then
    .next ((s.clusterCount m).reclose m.part m.curtain)
  else idle s

/-- CLUSTER_RELEASE (R364): the chain root releases its chain; a stale epoch is discarded (R232). -/
def execClusterRelease (m : CurtMsg) (s : State) : Out :=
  if s.ethUp && decide (m.kind = 2) && (s.cast m.cast).ethernet then
    .next ((s.clusterReleased m).reclose m.part m.curtain)
  else idle s

/-- Write of ETH_CFG (Table 12.8). -/
def State.writeEthCfg (s : State) (v : Word) : State :=
  if bit v 13 && decide (fld v 11 0 = 0 ∨ fld v 11 0 = 0xFFF) then s.orReg (aEth 0) 1
  else State.setReg (if bit s.ethCfg 14 && !bit v 14 then s.ptpEnd else s) (aEth 0x04) (v &&& 0xEFFF)

/-- ETH_CFG_WRITE (R366). -/
def execEthCfgWrite (v : Word) (s : State) : Out := whenOn s (s.writeEthCfg v)

end Sys2Proof.Machine
end

