-- ==== Sys2Proof/Machine/Revolve.lean ====
section
/-!
DEFINITION. Machine/Revolve.lean: beats on the ring: injection, tapping, forwarding, carry mode, and ramps
(R38 to R55, R82 to R85, R95, R96).
-/
namespace Sys2Proof.Machine

def dirBit : Dir → Nat
  | .cw => 0
  | .ccw => 1

/-- Queue of beats that arrive at a station in a direction on an input: 0 ring, 1 crossover, 2 splice. -/
def revKey (st : Nat) (d : Dir) (inp : Nat) : Nat := 8 * st + 4 * dirBit d + inp
def State.revQ (s : State) (st : Nat) (d : Dir) (inp : Nat) : List Beat := sget [] s.revolve (revKey st d inp)
def State.setRevQ (s : State) (st : Nat) (d : Dir) (inp : Nat) (l : List Beat) : State :=
  { s with revolve := sset [] s.revolve (revKey st d inp) l }

/-- Link settings of a station in a direction: the output and the input selected (Table 2.10). -/
def State.outSel (s : State) (st : Nat) (d : Dir) : Nat :=
  let w := s.reg (aBay (bayOfStation st) 0x0004)
  match d with | .cw => fld w 11 10 | .ccw => fld w 15 14
def State.inSel (s : State) (st : Nat) (d : Dir) : Nat :=
  let w := s.reg (aBay (bayOfStation st) 0x0004)
  match d with | .cw => fld w 9 8 | .ccw => fld w 13 12

/-- Crossover links: CW from station, CW to station (Table 2.2). -/
def crossovers : List (Nat × Nat) := [(5, 18), (22, 47), (27, 40), (46, 23), (17, 6), (39, 28), (12, 33), (32, 13)]

/-- The station that a crossover output leads to. -/
def crossTo (st : Nat) : Dir → Option Nat
  | .cw => (crossovers.find? (fun p => decide (p.1 = st))).map Prod.snd
  | .ccw => (crossovers.find? (fun p => decide (p.2 = st))).map Prod.fst

/-- The next station of the ring in a direction (R38). -/
def ringNext (st : Nat) : Dir → Nat
  | .cw => (st + 1) % 48
  | .ccw => (st + 47) % 48

/-- Whether the two bays of a hop lie across a seam: the queue then holds 64 beats (R39). -/
def hopDepth (a b : Nat) : Nat :=
  let x := bayOfStation a
  let y := bayOfStation b
  if decide (x % 12 < 6) != decide (y % 12 < 6) || decide (x / 12 < 2) != decide (y / 12 < 2) then 64 else 16

/-- Where a beat that leaves a station in a direction goes. -/
inductive Hop where
  /-- to a station's input queue, of that depth -/
  | station (st inp depth : Nat)
  /-- onto the splice to a chain port -/
  | splice (e : Bool)
  | off
deriving DecidableEq, Repr

/-- The output selected (R42, R66). -/
def State.hop (s : State) (st : Nat) (d : Dir) : Hop :=
  match s.outSel st d with
  | 0 => .station (ringNext st d) 0 (hopDepth st (ringNext st d))
  | 1 => (match crossTo st d with | some t => .station t 1 (hopDepth st t) | none => .off)
  | 2 => .splice (decide (st = 33 ∨ st = 34))
  | _ => .off

/-- The loop of a partition is opened to the splices of a company revolve (R64, R66). Only register writes of STN_LINKCFG
open them: the spec gives the loader the loops of Table 2.3 alone (entry 174). -/
def State.spliced (s : State) : Bool :=
  [33, 34, 46, 47].any (fun st => decide (s.outSel st .cw = 2) || decide (s.outSel st .ccw = 2))

/-- The two segments of an opened ring, in CW order (R64). -/
def segmentA : List Nat := 47 :: seqFromTo 0 33
def segmentB : List Nat := seqFromTo 34 46

/-- The stations of a company of C modules in CW order, from station 47 of module 0: module and station (R65). -/
def companyOrder (C : Nat) : List (Nat × Nat) :=
  (List.range C).flatMap (fun m => segmentA.map (fun st => (m, st))) ++
    (List.range C).reverse.flatMap (fun m => segmentB.map (fun st => (m, st)))

/-- A station of a module of the company takes part (R46, R65): this module's as its own state says; the other modules' are
free values, since nothing on this module tells them (entry 40). -/
def State.companyTakesPart (s : State) (x : Nat × Nat) : Bool :=
  if x.1 = s.chain.addr.getD 0 then s.participating (bayOfStation x.2) else Config.companyTakesPart x.1 x.2

/-- The company's participating stations, in CW order: the one at place j is logical company station j (R65). -/
def State.companyStations (s : State) : List (Nat × Nat) := (companyOrder s.chain.count).filter s.companyTakesPart

/-- The logical company station of a station of this module (R65). -/
def State.companyStation (s : State) (st : Nat) : Option Nat :=
  s.companyStations.findIdx? (fun x => decide (x = (s.chain.addr.getD 0, st)))

/-- Participating stations of a loop: this module's, or in a company every module's, at most 3,072 in all (R46, R65). -/
def State.loopCount (s : State) (p : Nat) : Nat := if s.spliced then s.companyStations.length else s.participants p

/-- Beats of a direction that wait on the way to a splice's chain port. -/
def State.spliceWaiting (s : State) (e : Bool) : Nat :=
  let x := s.port e
  let queued := (x.txQueue.filter (fun f => decide (f.vl = 2))).foldl (fun n f => n + f.part.length) 0
  x.recCw.beats.length + x.recCcw.beats.length + (queued + 139) / 140

/-- The queue to a splice's chain port holds 64 beats (Table 11.3). -/
def State.spliceRoom (s : State) (e : Bool) (n : Nat) : Bool := decide (s.spliceWaiting e + n ≤ 64)

/-- Room for n beats on the output (R42, R46). -/
def State.room (s : State) (st : Nat) (d : Dir) (n : Nat) : Bool :=
  match s.hop st d with
  | .station t inp depth => decide ((s.revQ t d inp).length + n ≤ depth)
  | .splice e => s.spliceRoom e n
  | .off => false

/-- The control word of a beat (Table 2.5). -/
def Beat.control (b : Beat) : Word :=
  BitVec.ofNat 32 (b.remain.toNat * 2 ^ 20 + b.row.toNat * 2 ^ 11 + (if b.bank then 2 ^ 10 else 0) +
    (if b.phase then 2 ^ 9 else 0) + b.kind.toNat * 2 ^ 7 + b.beat.toNat * 2 ^ 5 + b.ctx.toNat * 2 + 1)

/-- A beat as 140 bytes of a splice (R376). -/
def Beat.bytes (b : Beat) : List Byte := toLE 128 b.data.toNat ++ toLE 8 b.scales.toNat ++ toLE 4 b.control.toNat

/-- A beat from 140 bytes. -/
def Beat.ofBytes (bs : List Byte) : Beat :=
  let w : Word := BitVec.ofNat 32 (leNat (bs.drop 136))
  { data := BitVec.ofNat 1024 (leNat (bs.take 128)), scales := BitVec.ofNat 64 (leNat ((bs.drop 128).take 8)),
    remain := BitVec.ofNat 12 (fld w 31 20), row := BitVec.ofNat 9 (fld w 19 11), bank := bit w 10, phase := bit w 9,
    kind := BitVec.ofNat 2 (fld w 8 7), beat := BitVec.ofNat 2 (fld w 6 5), ctx := BitVec.ofNat 4 (fld w 4 1) }

/-- A station's STN_QMAX field of a direction's output queue (true) or input queue (false) is raised to an occupancy (R68). -/
def State.raiseQmax (s : State) (b : Nat) (d : Dir) (out : Bool) (n : Nat) : State :=
  let lo := (match d with | .cw => 0 | .ccw => 16) + (if out then 8 else 0)
  s.maxFld (aBay b 0x0030) (lo + 7) lo n

/-- The open record of a direction (R376). -/
def ChainPort.record (x : ChainPort) : Dir → SpliceRec
  | .cw => x.recCw
  | .ccw => x.recCcw
def ChainPort.setRecord (x : ChainPort) (d : Dir) (r : SpliceRec) : ChainPort :=
  match d with | .cw => { x with recCw := r } | .ccw => { x with recCcw := r }

/-- A record closes and leaves on VL2 for the neighbour: its beats back to back after a byte that names their direction
(R376, entry 14). -/
def State.closeRecord (s : State) (e : Bool) (d : Dir) : State :=
  let x := s.port e
  let dest := match s.chain.addr with | some a => if e then a + 1 else a - 1 | none => 0
  (s.setPort e (x.setRecord d SpliceRec.empty)).chainSend e 2 dest true
    (BitVec.ofNat 8 (dirBit d) :: ((x.record d).beats.map Beat.bytes).flatten)

/-- A beat joins the record of its splice, which closes with its sixteenth (R376). -/
def State.spliceOut (s : State) (e : Bool) (d : Dir) (cyc : Nat) (b : Beat) : State :=
  let x := s.port e
  let r : SpliceRec := { beats := (x.record d).beats ++ [b], at_ := cyc }
  let s := s.setPort e (x.setRecord d r)
  if 16 ≤ r.beats.length then s.closeRecord e d else s

/-- The stations that a splice joins (R66, R376): beats leave by a port from one, and enter at another. -/
def spliceFrom (e : Bool) (d : Dir) : Nat :=
  match e, d with
  | true, .cw => 33
  | true, .ccw => 34
  | false, .cw => 46
  | false, .ccw => 47
def spliceTo (e : Bool) (d : Dir) : Nat :=
  match e, d with
  | false, .cw => 47
  | false, .ccw => 46
  | true, .cw => 34
  | true, .ccw => 33

/-- Beats of the VL2 buffer enter the queues of their stations while these have room, each direction in order; the buffer they
leave returns its credits (R67, R371, Table 11.3). -/
def State.spliceGo (e : Bool) : List (Dir × Beat × Nat) → List (Dir × Beat × Nat) → State → State
  | [], kept, s => s.setPort e { s.port e with splices := kept }
  | (d, b, n) :: l, kept, s =>
    let st := spliceTo e d
    let q := s.revQ st d 2
    if (kept.any (fun k => decide (k.1 = d))) = true ∨ 64 ≤ q.length then State.spliceGo e l (kept ++ [(d, b, n)]) s
    else
      State.spliceGo e l kept
        (((s.setRevQ st d 2 (q ++ [b])).raiseQmax (bayOfStation st) d false (q.length + 1)).returnCredits e 2 n)
def State.spliceDrain (s : State) (e : Bool) : State := State.spliceGo e (s.port e).splices [] s

/-- A beat leaves a station: a hop's queue is the output queue of the station before it and the input queue of the one
after (R39, entry 62); on a splice it joins a record. -/
def State.forward (s : State) (st : Nat) (d : Dir) (b : Beat) : State :=
  match s.hop st d with
  | .station t inp _ =>
    let q := s.revQ t d inp ++ [b]
    ((s.setRevQ t d inp q).raiseQmax (bayOfStation t) d false q.length).raiseQmax (bayOfStation st) d true q.length
  | .splice e =>
    let n := s.spliceWaiting e + 1
    (s.spliceOut e d (s.bay (bayOfStation st)).clk.cyc b).raiseQmax (bayOfStation st) d true n
  | .off => s

/-- Counters of a station hold while frozen (Table 2.10). -/
def State.stnCount (s : State) (b off n : Nat) : State :=
  if bit (s.reg (aBay b 0x0034)) 0 then s else s.countWrap (aBay b off) n

/-- A tapped beat of a pass row is counted (STN_TAP): the model counts each beat, so a BF16 row twice, and no carried row
(DESIGN CHOICE, entry 175). -/
def State.countTap (s : State) (b : Nat) : State :=
  if bit (s.reg (aBay b 0x0034)) 0 then s
  else let y := s.bay b; s.setBay b { y with tapCount := (y.tapCount + 1) % 2 ^ 64 }

/-- A started STN_MMA matches a pass row (R83): rows left, phase, bank, direction, context. -/
def Started.mmaMatches (c : Started) (r : Beat) (d : Dir) : Bool :=
  let w3 := cword c.words 3
  c.isStation && decide (c.op = 0x05) && decide (0 < c.left) && decide (c.ctx = r.ctx.toNat) &&
    (decide (fld w3 16 13 = 8) || decide (fld w3 18 18 = r.phase.toNat)) && decide (fld w3 17 17 = r.bank.toNat) &&
    (match d with | .cw => bit w3 19 | .ccw => bit w3 20)

/-- One array multiplies a row by its tile into its accumulator row (R50, R83, R119, R120). -/
def State.mmaRow (s : State) (b : Nat) (c : Started) (r : Beat) (a : Nat) : State :=
  let w3 := cword c.words 3
  let fmt := fld w3 16 13
  let bank := fld w3 17 17
  let row := r.row.toNat
  let y := s.bay b
  -- a BF16 row is two beats: the PHASE 0 beat meets buffer 0, the PHASE 1 beat buffer 1
  let t := y.tile a r.phase.toNat
  let fresh := bit w3 21 && !(decide (fmt = 8) && r.phase)
  let res := multiplyRow t (rowBlocks fmt r.data r.scales) (fun n => if fresh then a28NegZero else y.accAt a bank row n)
  let y := y.setAccRow a bank row (res.map Prod.fst)
  let y := { y with flags := res.foldl (fun f p => f ||| p.2) y.flags }
  (s.setBay b y).stnCount b (if a = 0 then 0x0020 else 0x0024) 1

/-- An array can accept a row in the present cycle: its ramp's duty and the rows it has taken leave room (R52, R95). -/
def Bay.admits (y : Bay) (a : Nat) : Bool := decide (0 < (y.ramp a).credit)

/-- A row takes n cycles of an array. -/
def Bay.spend (y : Bay) (a n : Nat) : Bay :=
  if n = 0 then y else y.setRamp a { y.ramp a with credit := (y.ramp a).credit - (n : Int) }

/-- Cycles of an array that a beat of a pass row takes (Table 2.6). -/
def Started.beatCycles (c : Started) : Nat := if fld (cword c.words 3) 16 13 = 8 then 2 else 1

/-- The command's count after a beat of row n: a BF16 row counts with its PHASE 1 beat, once its PHASE 0 beat has been
accepted (R44, R83). After the last row the command completes nine cycles on (Table 3.18). -/
def Started.countBeat (c : Started) (r : Beat) (now : Nat) : Started :=
  let n := r.row.toNat
  let counted : Started := { c with left := c.left - 1, done := c.done + 1, earliest := now + 9 }
  if fld (cword c.words 3) 16 13 = 8 then
    if r.phase then (if c.half.contains n then { counted with half := c.half.erase n } else c)
    else { c with half := c.half ++ [n] }
  else counted

/-- A matching STN_MMA takes a row: every array it names multiplies it, and the row counts. -/
def State.mmaTake (s : State) (b : Nat) (r : Beat) (c : Started) : State :=
  let s := (arraysOf c.head.arrays).foldl (fun s a =>
    let s := s.mmaRow b c r a
    s.setBay b ((s.bay b).spend a c.beatCycles)) s
  s.modStarted b c.id (fun x => x.countBeat r (s.bay b).clk.cyc)

/-- The tap register of a station in a direction. -/
def Bay.tap (y : Bay) : Dir → Option Beat
  | .cw => y.tapCw
  | .ccw => y.tapCcw
def otherDir : Dir → Dir
  | .cw => .ccw
  | .ccw => .cw

/-- Command c of a row in direction d goes before command e of the row that waits in the other direction (R99): it
became ready earlier, or in the same cycle, or is the same, and d is CW. -/
def tapBefore (d : Dir) (c e : Started) : Bool :=
  decide (c.id ≠ e.id ∧ c.readyCyc < e.readyCyc) || (decide (c.id = e.id ∨ c.readyCyc = e.readyCyc) && decide (d = .cw))

/-- Two commands use one array. -/
def sameArray (c e : Started) : Bool := [0, 1].any (fun a => c.onArray a && e.onArray a)

/-- A row in direction d waits for the row that waits in the other direction's tap register and can go on: some array
that both need takes that one first, and none takes this one first (R52, R99). -/
def State.tapYields (s : State) (st : Nat) (d : Dir) (ms : List Started) : Bool :=
  let y := s.bay (bayOfStation st)
  match y.tap (otherDir d) with
  | none => false
  | some r =>
    let os := y.started.filter (fun c => c.mmaMatches r (otherDir d))
    let pairs := (ms.map (fun c => (os.filter (sameArray c)).map (fun e => (c, e)))).flatten
    decide (r.kind = 0) && (decide (r.remain - 1 = 0) || s.room st (otherDir d) 1) &&
      pairs.any (fun p => tapBefore (otherDir d) p.2 p.1) && !(pairs.any (fun p => tapBefore d p.1 p.2))

/-- A participating station taps a row whose REMAIN still counts this station: every matching STN_MMA takes it, then it
is forwarded with REMAIN one less, or retired at 0 (R47, R48). None: it waits in the tap register, for an STN_MMA, for a
cycle in which every array can accept it (R83, R95), for room, or for the row of the other direction (R99). -/
def State.tapRow (s : State) (st : Nat) (d : Dir) (r : Beat) : Option State :=
  let b := bayOfStation st
  let ms := (s.bay b).started.filter (fun c => c.mmaMatches r d)
  let remain := r.remain - 1
  if ms.isEmpty || s.tapYields st d ms || !(ms.all (fun c => (arraysOf c.head.arrays).all (s.bay b).admits)) then none
  else if remain ≠ 0 && !(s.room st d 1) then none
  else
    let s := ms.foldl (fun s c => s.mmaTake b r c) (s.countTap b)
    some (if remain = 0 then s else s.forward st d { r with remain := remain })

/-- Write the tap register of a station in a direction. -/
def State.setTap (s : State) (b : Nat) (d : Dir) (v : Option Beat) : State :=
  let y := s.bay b
  s.setBay b (match d with | .cw => { y with tapCw := v } | .ccw => { y with tapCcw := v })

/-- Bytes of one input segment of a carry tile, and of its scales (R54, R85). -/
def carrySeg (fmt : Nat) : Nat × Nat := (128, beatScales fmt)

/-- The local A28 row of a station for carried row r (R54, R85). The spec does not say from which zero the station's own sum
starts; the model starts it from −0, as STN_MMA with ZERO = 1 does (R120; DESIGN CHOICE, entry 176). -/
def State.carryLocal (s : State) (b : Nat) (c : Started) (row : Nat) :
    State × Except (Nat × Nat) (List (BitVec 28) × StickyFlags) :=
  let w3 := cword c.words 3
  let fmt := fld w3 23 20
  let n := fld (cword c.words 4) 11 10 + 1
  let i := row - fld w3 14 6
  let ds := c.slots.getD 0 AgSlot.init
  let ss := c.slots.getD 1 AgSlot.init
  let one := fun (acc : State × Except (Nat × Nat) (List (BitVec 28) × StickyFlags)) (j : Nat) =>
    match acc with
    | (s, .error e) => (s, .error e)
    | (s, .ok (l, f)) =>
      let off := ds.level01 j i
      let soff := ss.level01 j i
      let sl := beatScales fmt
      let q := (s.ctx c.part c.ctx)
      if !(q.spOk off 128) then (s, .error (fltRange, spAddr b off))
      else if off % 64 ≠ 0 then (s, .error (fltAlign, spAddr b off))
      else if sl ≠ 0 && !(q.spOk soff sl) then (s, .error (fltRange, spAddr b soff))
      else if sl ≠ 0 && decide (soff % sl ≠ 0) then (s, .error (fltAlign, spAddr b soff))
      else
        match (s.useBanks b 20 off 128).spRead b off 128 with
        | (s1, none) => (s1, .error (fltEccUncorr, spAddr b off))
        | (s1, some v) =>
          match (if sl = 0 then (s1, some []) else s1.spRead b soff sl) with
          | (s2, none) => (s2, .error (fltEccUncorr, spAddr b soff))
          | (s2, some sc) =>
            let p := carryTiles.getD j (0, 0)
            let t := (s2.bay b).tile p.1 p.2
            let res := multiplyRow t (rowBlocks fmt (BitVec.ofNat 1024 (leNat v)) (BitVec.ofNat 64 (leNat sc)))
              (fun k => l.getD k a28NegZero)
            (s2, .ok (res.map Prod.fst, res.foldl (fun g r => g ||| r.2) f))
  (List.range n).foldl one (s, .ok (List.replicate 128 a28NegZero, 0))

/-- The four carry beats of a row (R53). -/
def carryBeats (r : Beat) (vals : List (BitVec 28)) (remain : BitVec 12) : List Beat :=
  (List.range 4).map (fun k =>
    { r with data := BitVec.ofNat 1024 (packNat 32 (((vals.drop (32 * k)).take 32).map BitVec.toNat)), scales := 0,
             remain := remain, kind := 1, beat := BitVec.ofNat 2 k })

/-- The 128 values of four carry beats. -/
def carryValues (bs : List Beat) : List (BitVec 28) :=
  (bs.map (fun b => (List.range 32).map (fun i => BitVec.ofNat 28 (b.data.toNat >>> (32 * i))))).flatten

/-- A station adds its share to a carried row: one RNE rounding per value (R54, Table 4.7). -/
def addCarry (vals loc : List (BitVec 28)) : List (BitVec 28 × StickyFlags) :=
  (vals.zip loc).map (fun p => addA28 p.1 (a28 p.2))

/-- A started STN_CARRY handles a carried row (R85). -/
def Started.carryMatches (c : Started) (row ctx : Nat) (d : Dir) : Bool :=
  let w3 := cword c.words 3
  c.isStation && decide (c.op = 0x06) && decide (0 < c.left) && decide (c.ctx = ctx) &&
    (match d with | .cw => bit w3 18 | .ccw => bit w3 19) &&
    decide (fld w3 14 6 ≤ row) && decide (row < fld w3 14 6 + fld (cword c.words 4) 9 0)

/-- Cycles of array a that a carried row takes: one for each of its tiles on the array (R54, R55). -/
def Started.carryCycles (c : Started) (a : Nat) : Nat :=
  ((carryTiles.take (fld (cword c.words 4) 11 10 + 1)).filter (fun p => decide (p.1 = a))).length

/-- Both arrays can take a carried row in the present cycle, as far as it uses them (R95). -/
def Bay.admitsCarry (y : Bay) (c : Started) : Bool := [0, 1].all (fun a => decide (c.carryCycles a = 0) || y.admits a)

/-- A carried row leaves a station with its share added, or is deposited in bank BANK of array A when REMAIN becomes 0
(R54, R85). -/
def State.carryGo (s : State) (st : Nat) (d : Dir) (c : Started) (r : Beat) (vals : List (BitVec 28)) (remain : BitVec 12) :
    State :=
  let b := bayOfStation st
  match s.carryLocal b c r.row.toNat with
  | (s1, .error (reason, a)) => s1.cmdFault b c reason a
  | (s1, .ok (loc, f)) =>
    let res := addCarry vals loc
    let out := res.map Prod.fst
    let s2 := s1.stnFlags b (res.foldl (fun g p => g ||| p.2) f)
    let s2 := s2.setBay b (((s2.bay b).spend 0 (c.carryCycles 0)).spend 1 (c.carryCycles 1))
    let now := (s2.bay b).clk.cyc
    let s3 := s2.modStarted b c.id (fun x => { x with left := x.left - 1, done := x.done + 1, earliest := now + 3 })
    if remain = 0 then
      let y := s3.bay b
      s3.setBay b (y.setAccRow 0 (fld (cword c.words 3) 15 15) r.row.toNat out)
    else (carryBeats r out remain).foldl (fun s x => s.forward st d x) s3

/-- The direction of the next row that an injecting command sends: row i of it (R82, R85). -/
def injectDir (sel i : Nat) : Dir := if sel = 1 then .cw else if sel = 2 then .ccw else if i % 2 = 0 then .cw else .ccw


/-- A beat's data as a feeder reads it: MXFP6 elements lose the upper two bits of their bytes (R45, R75). -/
def beatData (fmt : Nat) (data : List Byte) : BitVec 1024 :=
  BitVec.ofNat 1024 (leNat (if fmt = 2 ∨ fmt = 3 then data.map (· &&& 0x3F) else data))

/-- A pass-row beat of STN_INJECT row i, beat k of the row (R82); REMAIN still counts this station. -/
def injectBeat (c : Started) (n i k : Nat) (data scales : List Byte) : Beat :=
  let w3 := cword c.words 3
  let bf := decide (fld w3 23 20 = 8)
  { data := beatData (fld w3 23 20) data, scales := BitVec.ofNat 64 (leNat scales), remain := BitVec.ofNat 12 n,
    row := BitVec.ofNat 9 (fld w3 15 7 + i), bank := bit w3 16, phase := if bf then decide (k = 1) else bit w3 17,
    kind := 0, beat := 0, ctx := BitVec.ofNat 4 c.ctx }

/-- Read and send the beats of one injected row: each is tapped here, or waits in the tap register. -/
def State.injectRow (s : State) (st : Nat) (d : Dir) (c : Started) : State :=
  let b := bayOfStation st
  let w3 := cword c.words 3
  let fmt := fld w3 23 20
  let n := s.loopCount c.part
  let per := if fmt = 8 then 2 else 1
  let sl := beatScales fmt
  let beat := c.done
  let i := beat / per
  match s.slotRead c.part c.ctx b (c.slots.getD 0 AgSlot.init) beat 128 64 with
  | (s1, .error (r, a)) => s1.cmdFault b c r a
  | (s1, .ok data) =>
    match (if sl = 0 then (s1, .ok []) else s1.slotRead c.part c.ctx b (c.slots.getD 1 AgSlot.init) beat sl sl) with
    | (s2, .error (r, a)) => s2.cmdFault b c r a
    | (s2, .ok sc) =>
      let r := injectBeat c n i (beat % per) data sc
      let now := (s2.bay b).clk.cyc
      let last := decide (beat % per + 1 = per)
      let s3 := s2.modStarted b c.id (fun x =>
        { x with done := x.done + 1, left := if last then x.left - 1 else x.left, earliest := now + 1 })
      let s3 := s3.useBanks b 20 (((c.slots.getD 0 AgSlot.init).addr 24 beat).getD 0) 128
      match s3.tapRow st d r with
      | some s4 => s4
      | none => s3.setTap b d (some r)

/-- The command whose row a station injects next in a direction: its oldest that has one (R46, R82, R85). -/
def Bay.injector (y : Bay) (d : Dir) : Option Started :=
  y.started.find? (fun c =>
    let w3 := cword c.words 3
    let i := if decide (fld w3 23 20 = 8) && decide (c.op = 0x04) then c.done / 2 else c.done
    c.isStation && decide (0 < c.left) &&
      (decide (c.op = 0x04) || (decide (c.op = 0x06) && bit w3 17)) && decide (injectDir (fld w3 19 18) i = d))

/-- A station may inject n beats in a direction now: its clock runs, no beat has arrived to be forwarded, and the output
has room (R42, R46). -/
def State.mayInject (s : State) (st : Nat) (d : Dir) (n : Nat) : Bool :=
  let y := s.bay (bayOfStation st)
  !y.clk.stopped && (s.revQ st d (s.inSel st d)).isEmpty && (y.tap d).isNone && s.room st d n

/-- The values an origin starts a carried row from (R85): a row of bank BANK of array A, or zero, whose sign the spec leaves
open and the model takes as + (DESIGN CHOICE, entry 176). -/
def Bay.carryStart (y : Bay) (c : Started) (row : Nat) : List (BitVec 28) :=
  let w3 := cword c.words 3
  if bit w3 16 then (List.range 128).map (y.accAt 0 (fld w3 15 15) row) else List.replicate 128 (0 : BitVec 28)

/-- ROW_INJECTION (R46, R82, R85): the station sends the next row of its oldest command that has one for this
direction. A beat of STN_INJECT needs a feeder port (R98) and its banks (R159); a BF16 row is two events, one per beat. -/
def execRowInjection (st : Fin 48) (dir : Dir) (s : State) : Out :=
  let y := s.bay (bayOfStation st)
  match y.injector dir with
  | none => idle s
  | some c =>
    if decide (c.op = 0x06) then
      if s.mayInject st dir 4 && y.admitsCarry c then
        let w3 := cword c.words 3
        let row := fld w3 14 6 + c.done
        let r : Beat := { data := 0, scales := 0, remain := 0, row := BitVec.ofNat 9 row, bank := bit w3 15, phase := false,
                          kind := 1, beat := 0, ctx := BitVec.ofNat 4 c.ctx }
        .next (s.carryGo st dir c r (y.carryStart c row) (BitVec.ofNat 12 (s.loopCount c.part - 1)))
      else idle s
    else if s.mayInject st dir 1 && [0, 1].any y.portFree &&
        y.banksFree 20 (((c.slots.getD 0 AgSlot.init).addr 24 c.done).getD 0) 128 then .next (s.injectRow st dir c)
    else idle s

/-- The part of a beat's ECC outcome that both arrivals share (R44): a correction is counted in STN_HOPCE, which FREEZE does
not hold in the model, no more than STN_QMAX (DESIGN CHOICE, entry 177); an uncorrectable beat is discarded and a context
faulted. -/
def State.beatEcc (s : State) (b : Nat) (d : Dir) (r : Beat) (ecc : Ecc) : State × Bool :=
  let p := s.partOfBay b
  match ecc with
  | .clean => (s, true)
  | .corrected => (s.countSat (aBay b 0x0014) 1, true)
  | .badData => (s.sendFault fltEccUncorr p r.ctx.toNat 0 b (stationOfBay b) 0xFFFFFFFF 0 [dirBit d], false)
  | .badHeader => (s.sendFault fltEccUncorr p (s.bay b).ctx 0 b (stationOfBay b) 0xFFFFFFFF 0 [dirBit d], false)

/-- A station has taken a beat from its input from a splice: the next one of the VL2 buffer follows (R67). -/
def State.spliceNext (s : State) (st sel : Nat) : State := if sel = 2 then s.spliceDrain (decide (st = 33 ∨ st = 34)) else s

/-- A beat of a kind has come to a station (R42, R44): what waits in the tap register goes first, then the front of the
selected input; one that cannot go on yet waits in the tap register. A stopped bay takes nothing (R333). -/
def State.beatArrives (s : State) (st : Nat) (d : Dir) (ecc : Ecc) (kind : BitVec 2) (take : State → Beat → Option State) : Out :=
  let b := bayOfStation st
  if (s.bay b).clk.stopped then idle s
  else
    match (s.bay b).tap d with
    | some r =>
      if r.kind ≠ kind then idle s
      else
        match take s r with
        | some t => .next (t.setTap b d none)
        | none => idle s
    | none =>
      match s.revQ st d (s.inSel st d) with
      | [] => idle s
      | r :: rest =>
        if r.kind ≠ kind then idle s
        else
          match ((s.setRevQ st d (s.inSel st d) rest).spliceNext st (s.inSel st d)).beatEcc b d r ecc with
          | (s1, false) => .next s1
          | (s1, true) =>
            match take s1 r with
            | some t => .next t
            | none => .next (s1.setTap b d (some r))

/-- A pass row at a station: tapped, or passed on unchanged by a pass-through station (R47, R60). -/
def State.takePass (st : Nat) (d : Dir) (s : State) (r : Beat) : Option State :=
  if s.participating (bayOfStation st) then s.tapRow st d r
  else if s.room st d 1 then some (s.forward st d r) else none

/-- PASS_ROW_ARRIVAL (R44, R47, R60): the row is tapped and goes on; a pass-through station forwards it unchanged. -/
def execPassRowArrival (st : Fin 48) (dir : Dir) (ecc : Ecc) (s : State) : Out :=
  s.beatArrives st dir ecc 0 (State.takePass st dir)

/-- Carry beats gathered so far in a direction. -/
def Bay.carryIn (y : Bay) : Dir → List Beat
  | .cw => y.carryCw
  | .ccw => y.carryCcw
def State.setCarryIn (s : State) (b : Nat) (d : Dir) (l : List Beat) : State :=
  let y := s.bay b
  s.setBay b (match d with | .cw => { y with carryCw := l } | .ccw => { y with carryCcw := l })

/-- The beats of one carried row (R53). -/
def sameRow (r : Beat) (l : List Beat) : List Beat := l.filter (fun x => decide (x.row = r.row ∧ x.ctx = r.ctx))

/-- A carry beat at a participating station (R53, R54, R85): with the fourth beat of its row the station adds its share and
sends the row on, or deposits it; a row that has lost a beat is never complete, and no command handles it (R44). None: its
last beat waits for an STN_CARRY, a cycle of the arrays, or room. -/
def State.carryBeat (s : State) (st : Nat) (d : Dir) (r : Beat) : Option State :=
  let b := bayOfStation st
  let y := s.bay b
  let all := y.carryIn d ++ [r]
  let row := sameRow r all
  if row.map (fun x => x.beat.toNat) ≠ [0, 1, 2, 3] then some (s.setCarryIn b d all)
  else
    match y.started.find? (fun c => c.carryMatches r.row.toNat r.ctx.toNat d) with
    | none => none
    | some c =>
      let remain := r.remain - 1
      if (remain ≠ 0 && !(s.room st d 4)) || !(y.admitsCarry c) then none
      else
        let kept := all.filter (fun x => !(decide (x.row = r.row ∧ x.ctx = r.ctx)))
        some ((s.setCarryIn b d kept).carryGo st d c r (carryValues row) remain)

/-- A carry beat at a station: its part in a carried row, or passed on unchanged by a pass-through station (R60). -/
def State.takeCarry (st : Nat) (d : Dir) (s : State) (r : Beat) : Option State :=
  if s.participating (bayOfStation st) then s.carryBeat st d r
  else if s.room st d 1 then some (s.forward st d r) else none

/-- CARRY_BEAT_ARRIVAL (R53, R54, R85). Carried rows count neither in STN_TAP nor in STN_BUSY (DESIGN CHOICE, entry 175). -/
def execCarryBeatArrival (st : Fin 48) (dir : Dir) (ecc : Ecc) (s : State) : Out :=
  s.beatArrives st dir ecc 1 (State.takeCarry st dir)

/-- Rows a full ramp admits (Table 3.16). -/
def rampRows (code : Nat) : Nat := if code = 0 then 9 else if code = 1 then 18 else 36

/-- Cycles of one ramp step (Table 3.16). -/
def rampStepCycles (code : Nat) : Nat := if code = 0 then 2 else if code = 1 then 4 else 8

/-- The command in progress on an array. -/
def Bay.inProgress (y : Bay) (a : Nat) : List Started :=
  y.started.filter (fun c => c.isStation && decide (c.op = 0x05 ∨ c.op = 0x06) && c.onArray a && decide (0 < c.left))

/-- A further STN_MMA or STN_CARRY for an array has been released to a queue (R96). -/
def Bay.released (y : Bay) (a : Nat) : Bool :=
  y.queues.any (fun kv => decide (kv.1 < 4) && kv.2.any (fun c =>
    decide (c.head.opcode = 0x05 ∨ c.head.opcode = 0x06) && (arraysOf c.head.arrays).contains a))

/-- The condition under which an array's ramp goes down (R96). -/
def Bay.rampFalls (y : Bay) (a : Nat) : Bool :=
  !(y.released a) && (y.inProgress a).all (fun c => decide (c.left ≤ rampRows (y.ramp a).code))

/-- Cycles pass for an array (R95): the duty accumulator, which is not cleared between steps, gains the step's number in each
cycle, and admits a row where it overflows. -/
def Ramp.cycles (r : Ramp) (n : Nat) : Ramp :=
  let total := r.acc + n * r.step
  { r with acc := total % 8, credit := min r.credit 0 + ((total / 8 : Nat) : Int) }

/-- The step after this one, up or down (R95, R96). A ramp down past step 1 ends in the ramped-down state; while its command
still has rows left the array stays at step 1 (entry 52). -/
def Ramp.next (r : Ramp) (now : Nat) (rowsLeft : Bool) : Ramp :=
  if r.rising then { r with step := r.step + 1, since := now }
  else if r.step = 1 then (if rowsLeft then r else { Ramp.down with acc := r.acc })
  else { r with step := r.step - 1, since := now }

/-- RAMP_STEP (R95, R96): an array whose step has lasted its T ÷ 8 cycles takes the next step, up or down. -/
def execRampStep (arr : Fin 96) (s : State) : Out :=
  let b := bayOfStation (arr / 2)
  let a := arr.val % 2
  let y := s.bay b
  let r := y.ramp a
  if r.step = 0 || decide (y.clk.cyc < r.since + rampStepCycles r.code) || (r.rising && decide (r.step = 8)) then idle s
  else .next (s.setBay b (y.setRamp a (r.next y.clk.cyc !(y.inProgress a).isEmpty)))

/-- RAMP_DOWN_START (R96): the condition for a ramp down holds, and the ramp falls from the step it has reached. -/
def execRampDownStart (arr : Fin 96) (s : State) : Out :=
  let b := bayOfStation (arr / 2)
  let a := arr.val % 2
  let y := s.bay b
  let r := y.ramp a
  if r.step ≠ 0 && r.rising && y.rampFalls a then
    .next (s.setBay b (y.setRamp a { r with rising := false, since := y.clk.cyc }))
  else idle s

end Sys2Proof.Machine
end

