-- ==== Sys2Proof/Machine/Chains.lean ====
section
/-!
DEFINITION. Machine/Chains.lean: the chain links: flits, replay, credits, delivery and forwarding; curtain slices; house
time over the chain; enumeration (R366 to R385).
-/
namespace Sys2Proof.Machine

/-- Port as the number of its side: true E. -/
def isE : Port → Bool
  | .w => false
  | .e => true

/-- A port carries traffic. -/
def State.portUp (s : State) (e : Bool) : Bool := s.ymr.dieOn && (s.port e).up

/-- The link goes down (R369, R370): what is not acknowledged stays with its sender. -/
def State.portDown (s : State) (e : Bool) : State :=
  let x := s.port e
  if x.up then (s.setPort e { x with up := false, downSince := s.clock.house, resends := 0 }).countSat (aChn e 0x24) 1 else s

/-- Flits that an ACK covers: those before the SEQ it names, when it names one that is out or the next (R369). -/
def ackedBy (l : List TxFlit) (next ack : Nat) : Nat :=
  if ack = next then l.length else (l.findIdx? (fun f => decide (f.seq = ack))).getD 0

/-- Flits of the replication in progress that the link has taken are progress (R435). -/
def State.replicaMoves (s : State) (gone : List TxFlit) : State :=
  if s.inter.phase = 4 ∧ gone.any (fun f => decide (f.vl = 3) && decide (s.buddy = some f.dest)) = true then
    { s with inter := { s.inter with progressAt := s.clock.house } }
  else s

/-- ACK and credits of an arriving flit. A NAK releases nothing: what it asks for is still to come (entry 192). -/
def State.takeFlitAck (s : State) (e : Bool) (f : ChainFlit) : State :=
  let x := s.port e
  let n := if f.nak then 0 else ackedBy x.txUnacked x.txSeq f.ack
  let x := { x with txUnacked := x.txUnacked.drop n, resends := if 0 < n then 0 else x.resends }
  let x := if f.cvl = 0 then x else x.setCredits f.cvl (x.credits f.cvl + f.credits)
  ((s.replicaMoves ((s.port e).txUnacked.take n)).setPort e x).chainPump e

/-- Flits go out again, each counted (R369). -/
def State.resendAll (s : State) (e : Bool) (l : List TxFlit) : State :=
  let x := s.port e
  (s.setPort e { x with line := x.line ++ l.map (fun f => .data (x.outKey e) f x.ackNum) }).countSat (aChn e 0x08) l.length

/-- The sender resends every flit from a SEQ on; after 16 consecutive failed resends of one flit the link is down (R369). -/
def State.resendFrom (s : State) (e : Bool) (seq : Nat) : State :=
  let x := s.port e
  let l := x.txUnacked.drop (ackedBy x.txUnacked x.txSeq seq)
  let n := if x.resendSeq = seq then x.resends else 0
  if l.isEmpty then s
  else if 16 ≤ n then s.portDown e
  else (s.setPort e { x with resends := n + 1, resendSeq := seq }).resendAll e l

/-- Bytes cut into beats of 140 (R376). -/
def beatsOf : Nat → List Byte → List Beat
  | 0, _ => []
  | fuel + 1, bs => if bs.length < 140 then [] else Beat.ofBytes (bs.take 140) :: beatsOf fuel (bs.drop 140)

/-- A splice record reaches the VL2 buffer, and its beats their station's queue as it has room (R66, R67, R376). The last beat
of the record frees its n flits. -/
def State.spliceIn (s : State) (e : Bool) (n : Nat) (bs : List Byte) : State :=
  let d : Dir := if leNat (bs.take 1) = 0 then .cw else .ccw
  let l := beatsOf (bs.length / 140 + 1) (bs.drop 1)
  let x := s.port e
  let new := (l.zip (List.range l.length)).map (fun q => (d, q.1, if q.2 + 1 = l.length then n else 0))
  (s.setPort e { x with splices := x.splices ++ new }).spliceDrain e

/-- A whole message of n flits with a good tag is delivered (R375): a splice record to its station, a reply to a request that
this module has forwarded to its sender (R349), the rest to Yemir or the link engine. -/
def State.deliverMsg (s : State) (e : Bool) (f : ChainFlit) (n : Nat) (bs : List Byte) : State :=
  if f.vl = 2 then s.spliceIn e n bs
  else
    let s := s.returnCredits e f.vl n
    match (if f.vl = 1 ∧ f.islocal = false then s.relayedReply bs else none) with
    | some s => s
    | none =>
      let x := s.port e
      s.setPort e { x with delivered := x.delivered ++ [(f.vl, f.src, bs)] }

/-- Flits of one message: lane and source. -/
def msgKey (f : ChainFlit) : Nat := 64 * f.vl + f.src

/-- The bytes of the message that a flit ends. -/
def ChainPort.message (x : ChainPort) (f : ChainFlit) : List ChainFlit := x.rxMsg.filter (fun g => decide (msgKey g = msgKey f))

/-- The last flit of a message has come: with a good tag the message is delivered, or has been passed on whole; a bad one is
counted and answered with NAK to the message's first flit, and the third of one message takes the link down (R375). What has
come of other messages since then is not taken twice. -/
def State.endMessage (s : State) (e : Bool) (f : ChainFlit) (mine : Bool) : State :=
  let x := s.port e
  let msg := x.message f
  let rest := x.rxMsg.filter (fun g => decide (msgKey g ≠ msgKey f))
  if f.tagOk then
    let done := if rest.isEmpty then [] else x.rxDone ++ msg.map ChainFlit.seq
    let s := s.setPort e { x with rxMsg := rest, rxDone := done, tagFails := sset 0 x.tagFails (msgKey f) 0,
                                  msgRx := sset 0 x.msgRx f.vl (sget 0 x.msgRx f.vl + 1) }
    State.ackFlit (if mine then s.deliverMsg e f msg.length (msg.map ChainFlit.plain).flatten else s) e
  else
    let first := (msg.head?).elim f.seq ChainFlit.seq
    let since := (x.rxMsg.dropWhile (fun g => decide (g.seq ≠ first))).filter (fun g => decide (msgKey g ≠ msgKey f))
    let n := sget 0 x.tagFails (msgKey f) + 1
    let s := (s.setPort e { x with rxMsg := rest, rxDone := x.rxDone ++ since.map ChainFlit.seq, rxSeq := first,
                                   tagFails := sset 0 x.tagFails (msgKey f) (if 3 ≤ n then 0 else n) }).countSat (aChn e 0x10) 1
    if 3 ≤ n then s.portDown e else s.sendCtl e true first 0 0

/-- A flit for another module goes on at the other port, on its lane, as it comes, the last once its message's tag has been
verified (R382): it takes its place in a message of the outbound link, under whose keys it leaves. -/
def State.relayFlit (s : State) (e : Bool) (f : ChainFlit) : State :=
  let x := s.port e
  let y := s.port (!e)
  let r : Relay := if f.som then { count := sget 0 y.msgTx f.vl, off := 0 } else sget { count := 0, off := 0 } x.relays (msgKey f)
  let whole := if f.eom then ((x.message f).map ChainFlit.plain).flatten else []
  let g : TxFlit :=
    { seq := 0, vl := f.vl, som := f.som, eom := f.eom, islocal := false, dest := f.dest, src := f.src, part := f.plain,
      count := r.count, off := r.off, whole := whole, relay := true }
  let s := s.setPort e { x with relays := sset { count := 0, off := 0 } x.relays (msgKey f) { r with off := r.off + f.plain.length } }
  let y := s.port (!e)
  let s := s.setPort (!e) { y with txQueue := y.txQueue ++ [g],
                                   msgTx := if f.som then sset 0 y.msgTx f.vl (r.count + 1) else y.msgTx }
  (s.countWrap (aChn e 0x1C) 1).chainPump (!e)

/-- A flit for this module: it names this module's address, or is for the neighbour only. -/
def State.flitMine (s : State) (f : ChainFlit) : Bool := f.islocal || decide (s.chain.addr = some f.dest)

/-- A new message on a lane from a source: what had come of one before it is dropped, and its buffer is free. -/
def State.dropPartial (s : State) (e : Bool) (f : ChainFlit) : State :=
  let x := s.port e
  let old := x.message f
  if f.som = true ∧ old.isEmpty = false then
    let s := s.setPort e { x with rxMsg := x.rxMsg.filter (fun g => decide (msgKey g ≠ msgKey f)) }
    if s.flitMine f then s.returnCredits e f.vl old.length else s
  else s

/-- A flit with the SEQ expected is taken (R369, R375, R382); one of a message that has been dealt with is not taken again. -/
def State.takeFlit (s : State) (e : Bool) (f : ChainFlit) : State :=
  let x := s.port e
  let s := s.setPort e { x with rxSeq := (x.rxSeq + 1) % 4096 }
  if x.rxDone.contains f.seq then State.ackFlit (s.setPort e { s.port e with rxDone := x.rxDone.filter (fun n => decide (n ≠ f.seq)) }) e
  else
    let s := s.dropPartial e f
    let x := s.port e
    let s := s.setPort e { x with rxMsg := x.rxMsg ++ [f] }
    let s := if s.flitMine f || (f.eom && !f.tagOk) then s else s.relayFlit e f
    if f.eom then s.endMessage e f (s.flitMine f) else s.ackFlit e

/-- CHAIN_FLIT_RECEIVE (R368, R369, R371, R375, R382): a flit whose CRC fails, or whose SEQ is not the one expected, is
discarded and answered with NAK. -/
def execChainFlitReceive (port : Port) (x : FlitIn) (s : State) : Out :=
  let e := isE port
  let f := flitOf x.raw x.plain x.tagOk
  if !(s.portUp e) then idle s
  else if !(crcHolds x.raw) then .next ((s.countSat (aChn e 0x0C) 1).sendCtl e true (s.port e).rxSeq 0 0)
  else if f.len ≠ 0 ∧ f.seq ≠ (s.port e).rxSeq then .next (s.sendCtl e true (s.port e).rxSeq 0 0)
  else
    let s := s.takeFlitAck e f
    let s := if f.nak then s.resendFrom e f.ack else s
    .next (if f.len = 0 then s else s.takeFlit e f)

/-- FLIT_NAK (R369): the neighbour asks for every flit from a SEQ on. -/
def execFlitNak (port : Port) (seq : Nat) (s : State) : Out :=
  if s.portUp (isE port) then .next (s.resendFrom (isE port) seq) else idle s

/-- CHAIN_LINK_DOWN (R369, R370). -/
def execChainLinkDown (port : Port) (s : State) : Out := .next (s.portDown (isE port))

/-- The LOCAL messages of VL1 that enumerate a chain and tell of a lost link (R374, R377, R378), by the number the model gives
them; the spec gives them no layout (entry 195). -/
inductive LinkMsg where
  | enumerate | enumEnd | enumDone | enumFail | linkLost
deriving DecidableEq, Repr

def LinkMsg.code : LinkMsg → Nat
  | .enumerate => 1
  | .enumEnd => 2
  | .enumDone => 3
  | .enumFail => 4
  | .linkLost => 5

def linkBytes (m : LinkMsg) (n : Nat) (b : Bool) : List Byte := toLE 1 m.code ++ toLE 1 n ++ toLE 1 (b2n b)

/-- A link message leaves on a port that is up (R374, R377). -/
def State.sendLink (s : State) (e : Bool) (m : LinkMsg) (n : Nat) (b : Bool) : State :=
  if (s.port e).up then s.chainSend e 1 0 true (linkBytes m n b) else s

/-- A neighbour whose link trains again is given its address (R379), and with it the length of the chain (entry 29). -/
def State.offerAddress (s : State) (e : Bool) : State :=
  match s.chain.addr with
  | some a =>
    let n := max 1 s.chain.count
    if s.chain.enumSt ≠ 2 then s
    else if e then (s.sendLink true .enumerate (if s.chain.isLoop then (a + 1) % n else a + 1) true).sendLink true .enumDone n s.chain.isLoop
    else if a = 0 then s
    else (s.sendLink false .enumerate (a - 1) true).sendLink false .enumDone n s.chain.isLoop
  | none => s

/-- CHAIN_LINK_TRAINED (R367, R370, R375): the keys are agreed, and traffic resumes at the first unacknowledged flit; a link that
was lost starts afresh. It does not train while the reference is lost (R329). -/
def execChainLinkTrained (port : Port) (s : State) : Out :=
  let e := isE port
  let x := s.port e
  if x.up || !s.ymr.dieOn || s.clock.refLost || !s.ymrUp || !s.canSign then idle s
  else
    let again := x.trainedOnce
    let x := if x.lost then
        { ChainPort.idle with txQueue := x.txQueue, splices := x.splices.map (fun y => (y.1, y.2.1, 0)), recCw := x.recCw,
                              recCcw := x.recCcw, line := x.line, delivered := x.delivered }
      else x
    -- what has come of a message without its end comes again, under the new keys
    let s := s.setPort e { x with up := true, lost := false, trainedOnce := true, resends := 0, tagFails := [], rxSeq := x.ackNum, rxMsg := [] }
    let s := s.agreeKeys e
    let s := (s.resendAll e x.txUnacked).chainPump e
    .next (if again then s.offerAddress e else s)

/-- ARRIVEs and RELEASEs sent on a link that is lost, without acknowledgement, go out again on the new route (R374). -/
def State.rerouteSlices (s : State) (e : Bool) (l : List (CurtSlice × Nat × Nat)) : State :=
  l.foldl (fun s c =>
    if c.1.kind = 1 then s.sendSlice s.chain.headPort c.1
    else if c.1.kind = 2 ∧ (s.port (!e)).up = true then s.sendSlice (!e) c.1 else s) s

/-- A loop has lost the link between modules b and b + 1 (R384). -/
def State.breakLoop (s : State) (b : Nat) : State :=
  if s.chain.isLoop then { s with chain := { s.chain with isLoop := false, broken := some b } } else s

/-- CHAIN_LINK_LOST (R370, R374, R384): a link down for 1 s. Queued and unacknowledged flits go, but for the beats of a company
revolve, which are held (Table 13.6). -/
def execChainLinkLost (port : Port) (s : State) : Out :=
  let e := isE port
  let x := s.port e
  if x.up || x.lost || !x.trainedOnce || !s.ymr.dieOn || decide (s.clock.house < x.downSince + 1000000000) then idle s
  else
    let out := x.curtOut
    let s := s.setPort e { x with lost := true, txQueue := (x.txUnacked ++ x.txQueue).filter (fun f => decide (f.vl = 2)), txUnacked := [],
                                   rxMsg := [], rxDone := [], relays := [], curtOut := [] }
    let s := s.logEvent 0x0053 whereModule (if e then 1 else 0)
    let wasLoop := s.chain.isLoop
    match s.chain.addr with
    | some a =>
      let n := max 1 s.chain.count
      let b := if e then a else (a + n - 1) % n
      let s := s.breakLoop b
      let s := if wasLoop then s.sendLink (!e) .linkLost b false else s
      .next (s.rerouteSlices e out)
    | none => .next s

/-- LINK_LOST (R374): from the message on, the routes are those of the broken loop; it goes on to the far end. -/
def execLinkLost (port : Port) (b : Nat) (s : State) : Out :=
  if s.portUp (isE port) then .next ((s.breakLoop b).sendLink (!isE port) .linkLost b false) else idle s

/-- CHN_CURTMAX keeps the longest time of a hop (R372). The time is measured between two modules and the model has no
line between them: it is a free value (entry 41). -/
def State.timeHop (s : State) (e : Bool) : State :=
  State.maxFld { s with free := s.free + 1 } (aChn e 0x14) 15 0 (Config.freeValue 16 s.free).toNat

/-- What every curtain slice does to its link (R373): its tag is checked, its CACK confirms slices, its CSEQ is taken once and
in order and falls due to be acknowledged. True: the slice is to be applied. -/
def State.takeSlice (s : State) (e : Bool) (c : CurtSlice) : State × Bool :=
  if !c.tagOk then (s.countSat (aChn e 0x10) 1, false)
  else
    let x := s.port e
    let x := match x.curtOut.findIdx? (fun y => decide (y.1.cseq = c.cack)) with
      | some k => { x with curtOut := x.curtOut.drop (k + 1) }
      | none => x
    if c.kind = 3 then (s.setPort e x, false)
    else if c.cseq = (x.sliceRx + 1) % 65536 then ((s.setPort e { x with sliceRx := x.sliceRx + 1, ackDue := true }).timeHop e, true)
    else (s.setPort e { x with ackDue := true }, false)

/-- A slice arrives whose KIND is this row's, or none of Table 13.4 and so discarded once its link has dealt with it. It is
acknowledged by the next slice that goes back, or by one of KIND 3. -/
def onSlice (port : Port) (kind : Nat) (c : CurtSlice) (go : State → State) (s : State) : Out :=
  let e := isE port
  if s.portUp e && (decide (c.kind = kind) || !([1, 2, 3, 4, 5].contains c.kind)) then
    match s.takeSlice e c with
    | (s', true) => .next (State.ackSlice (if c.kind = kind then go s' else s') e)
    | (s', false) => .next (s'.ackSlice e)
  else idle s

/-- CHAIN_ARRIVE (R374, R381): the head counts it, any other module, and the head of a chain that has failed (R378), sends it on toward the head. -/
def execChainArrive (port : Port) (c : CurtSlice) (s : State) : Out :=
  onSlice port 1 c (fun s => if s.chain.head && s.chain.addr.isSome then (s.headCount c).reclose c.part c.curtain else s.sendSlice s.chain.headPort c) s

/-- CHAIN_RELEASE (R374, R381): a member applies it, and it goes on away from the head. -/
def execChainRelease (port : Port) (c : CurtSlice) (s : State) : Out :=
  onSlice port 2 c (fun s => if s.chain.head then s else ((s.forwardRelease (isE port) c).applyRelease c).reclose c.part c.curtain) s

/-- CURTAIN_ACK (R373). -/
def execCurtainAck (port : Port) (c : CurtSlice) (s : State) : Out := onSlice port 3 c id s

/-- CURTAIN_SLICE_RESEND (R373): a slice unacknowledged for 500 ns is sent again with its CSEQ. -/
def execCurtainSliceResend (port : Port) (cseq : Nat) (s : State) : Out :=
  let e := isE port
  let x := s.port e
  let due := fun (y : CurtSlice × Nat × Nat) => decide (y.1.cseq = cseq) && decide (y.2.2 + 500 ≤ s.clock.house)
  match (if s.portUp e then x.curtOut.find? due else none) with
  | some y =>
    let c := { y.1 with cack := x.sliceRx % 65536 }
    let out := x.curtOut.map (fun z => if due z then (c, z.2.1, s.clock.house) else z)
    .next (s.setPort e ({ x with curtOut := out, ackDue := false }.putSlice e c y.2.1))
  | none => idle s

/-- A TIME or TIME_REPLY slice with house time (Table 13.4). -/
def State.timeSlice (s : State) (kind : Nat) : CurtSlice :=
  { kind := kind, curtain := 0, payload := 0, part := 0, step := BitVec.ofNat 32 (s.clock.house / 2 ^ 32),
    epoch := BitVec.ofNat 32 s.clock.house, cast := 0, members := 0, uplink := none, src := s.chain.addr.getD 0, cseq := 0,
    cack := 0, tagOk := true }

/-- TIME_EXCHANGE_TIMER (R380): every 10 µs the downstream module sends TIME to the upstream one. -/
def execTimeExchangeTimer (port : Port) (s : State) : Out :=
  let e := isE port
  let x := s.port e
  if s.portUp e && s.chain.addr.isSome && !s.chain.head && decide (s.chain.headPort = e) && decide (x.timeSent + 10000 ≤ s.clock.house) then
    let s := s.setPort e { x with timeSent := s.clock.house }
    .next (s.sendSlice e (s.timeSlice 4))
  else idle s

/-- TIME (R380): the upstream module answers at once, so its turnaround is zero (entry 30). -/
def execTimeMsg (port : Port) (c : CurtSlice) (s : State) : Out :=
  onSlice port 4 c (fun s => s.sendSlice (isE port) (s.timeSlice 5)) s

/-- TIME_REPLY (R380): the follower's offset is shown and corrected: a trim while a context of the die runs, else a
step. -/
def execTimeReply (port : Port) (c : CurtSlice) (s : State) : Out :=
  let e := isE port
  onSlice port 5 c (fun s =>
    let x := s.port e
    let there := c.step.toNat * 2 ^ 32 + c.epoch.toNat
    let off : Int := (s.clock.house : Int) - ((there + (s.clock.house - x.timeSent) / 2 : Nat) : Int)
    let good := if off.natAbs < 20 then min 16 (x.timeGood + 1) else 0
    let s := s.setPort e { x with timeOffset := off, timeGood := good, timeRecv := s.clock.house }
    if s.chain.head || decide (s.chain.headPort ≠ e) then s
    else if s.dieRuns then s.trimHouse off 1 else s.stepHouse off) s

/-- Enumeration fails (R378): no address, and ENUM_FAIL both ways. -/
def State.enumFailed (s : State) : State :=
  let s := { s with chain := { s.chain with addr := none, enumSt := 3, isLoop := false, count := 0, broken := none } }
  (s.sendLink false .enumFail 0 false).sendLink true .enumFail 0 false

/-- ENUM_START (R377): the head, once its E link has trained or 1 s has passed without one; with no cabled port it is a
chain of one. -/
def execEnumStart (s : State) : Out :=
  let c := s.chain
  if decide (s.power = .ready) && c.head && decide (c.enumSt = 0) && s.ymr.dieOn && (c.e.up || decide (c.enumAt + 1000000000 ≤ s.clock.house)) then
    if c.e.up then
      .next (State.sendLink { s with chain := { c with addr := some 0, enumSt := 1, enumAt := s.clock.house } } true .enumerate 1 false)
    else if c.w.up then .next { s with chain := { c with addr := some 0, enumSt := 1, enumAt := s.clock.house } }
    else .next { s with chain := { c with addr := some 0, enumSt := 2, count := 1, isLoop := false } }
  else idle s

/-- The head knows its chain: ENUM_DONE goes east (R377). -/
def State.enumClosed (s : State) (n : Nat) (isLoop : Bool) : State :=
  State.sendLink { s with chain := { s.chain with count := n, isLoop := isLoop, broken := none, enumSt := 2 } } true .enumDone n isLoop

/-- ENUM (R377 to R379). A module that has come back takes the address its E neighbour offers only while its W link is down. A head that has its own ENUM out closes a loop when ENUM reaches its W port (entry 31). -/
def execEnum (port : Port) (a : Nat) (rejoin : Bool) (s : State) : Out :=
  let c := s.chain
  if !(s.portUp (isE port)) then idle s
  else if rejoin then
    if c.addr.isNone ∧ c.head = false ∧ a < 64 ∧ (isE port = false ∨ c.w.up = false) then .next { s with chain := { c with addr := some a, enumSt := 2 } } else idle s
  else if c.head then
    if c.enumSt = 1 ∧ isE port = false ∧ c.e.up = true then .next (s.enumClosed a true)
    else .next (s.logEvent 0x0050 whereModule (if isE port then 1 else 0)).enumFailed
  else if isE port then idle s
  else if a = 63 ∧ c.e.up = true then .next (s.logEvent 0x0051 whereModule 0).enumFailed
  else
    let s := { s with chain := { c with addr := some a, enumSt := 1, broken := none } }
    .next (if c.e.up then s.sendLink true .enumerate (a + 1) false else s.sendLink false .enumEnd (a + 1) false)

/-- ENUM_END (R377): it travels west to the head, which ends the enumeration of a line. -/
def execEnumEnd (count : Nat) (s : State) : Out :=
  if !(s.portUp true) then idle s
  else if s.chain.head then (if s.chain.enumSt = 1 then .next (s.enumClosed count false) else idle s)
  else .next (s.sendLink false .enumEnd count false)

/-- ENUM_DONE (R377): it travels east and ends enumeration everywhere. -/
def execEnumDone (count : Nat) (isLoop : Bool) (s : State) : Out :=
  if s.chain.head || !s.ymr.dieOn || s.chain.addr.isNone then idle s
  else
    .next (State.sendLink { s with chain := { s.chain with count := count, isLoop := isLoop, broken := none, enumSt := 2 } } true .enumDone count isLoop)

/-- ENUM_FAIL (R378): no module of the chain keeps an address; the message goes on. -/
def execEnumFail (port : Port) (s : State) : Out :=
  if s.portUp (isE port) then
    .next (State.sendLink { s with chain := { s.chain with addr := none, enumSt := 3, isLoop := false, count := 0, broken := none } } (!isE port) .enumFail 0 false)
  else idle s

/-- ENUM_TIMEOUT (R378): no ENUM within 60 s of ready; or a head whose W port has a link, 5 s after its ENUM. -/
def execEnumTimeout (s : State) : Out :=
  let c := s.chain
  if c.head then
    if c.enumSt = 1 ∧ c.w.up = true ∧ c.enumAt + 5000000000 ≤ s.clock.house then
      .next (s.logEvent 0x0052 whereModule 0).enumFailed
    else idle s
  else if decide (s.power = .ready) && decide (c.enumSt = 0) && decide (c.enumAt + 60000000000 ≤ s.clock.house) then
    .next { s with chain := { c with enumSt := 3, addr := none } }
  else idle s

/-- Write of CHN_CFG: a weight of 0 is ignored (R385). -/
def State.writeChnCfg (s : State) (e : Bool) (v : Word) : State :=
  let w := s.reg (aChn e 0x04)
  let w := if fld v 7 4 = 0 then w else setFld w 7 4 (fld v 7 4)
  s.setReg (aChn e 0x04) (if fld v 3 0 = 0 then w else setFld w 3 0 (fld v 3 0))

/-- CHN_CFG_WRITE (R385). -/
def execChnCfgWrite (port : Port) (v : Word) (s : State) : Out := whenOn s (s.writeChnCfg (isE port) v)

end Sys2Proof.Machine
end

