-- ==== Sys2Proof/Machine/Dispatcher.lean ====
section
/-!
DEFINITION. Machine/Dispatcher.lean: the stagehand dispatcher of a bay (R147 to R150) and BAY_SHFLAGS (R156).
-/
namespace Sys2Proof.Machine

/-- The stagehands of a bay that a row and a column mask name (R147). -/
def handSet (bay rows cols : Nat) : List Nat :=
  ((List.range 128).filter (fun l => rows.testBit (l / 8) && cols.testBit (l % 8))).map (handOf bay)

/-- The set of a dispatcher command: the masks stand in word 4, of SH_STOP in word 3 (Table 5.9). -/
def dispSet (bay : Nat) (ws : List Word) : List Nat :=
  let w := if (cmdHead (cword ws 0)).opcode = 0x22 then cword ws 3 else cword ws 4
  handSet bay (fld w 31 16) (fld w 15 8)

/-- Every stagehand of a list has halted. -/
def State.allHalted (s : State) (l : List Nat) : Bool := l.all (fun x => !(s.hand x).running)

/-- Words written to entries of the instruction store from an index upward (R148). -/
def writeIstore (st : Sparse Word) (k : Nat) : List Word → Sparse Word
  | [] => st
  | w :: ws => writeIstore (sset 0 st k w) (k + 1) ws

/-- The words of a byte string, four bytes each. -/
def instrWords : Nat → List Byte → List Word
  | 0, _ => []
  | n + 1, bs => BitVec.ofNat 32 (leNat (bs.take 4)) :: instrWords n (bs.drop 4)

/-- Copy instructions line by line, 64 B a line, into the stores of a set (R148); a line that cannot be corrected
writes nothing and ends the load (R163). -/
def State.shLoadLines (s : State) (b base dest : Nat) (set : List Nat) : Nat → Nat → State × Option Nat
  | 0, _ => (s, none)
  | fuel + 1, left =>
    if left = 0 then (s, none)
    else
      let n := min 16 left
      match s.spRead b base (4 * n) with
      | (s', none) => (s', some (spAddr b base))
      | (s', some bs) =>
        let ws := instrWords n bs
        let s'' := set.foldl (fun s l => s.setHand l { s.hand l with istore := writeIstore (s.hand l).istore dest ws }) s'
        s''.shLoadLines b (base + 64) (dest + n) set fuel (left - n)

/-- SH_LOAD (R148): ready when its set has halted. -/
def execShLoad (bay : Fin 48) (s : State) : Out :=
  startHead 0x20 bay 4 (fun c s => s.allHalted (dispSet bay c.words)) (fun c rest s =>
    let w5 := cword c.words 5
    let n := fld w5 10 0
    let set := dispSet bay c.words
    let (s, st) := s.beginCmd bay 4 c rest (if set.isEmpty then 0 else 8 + (n + 15) / 16) 0 [] set
    if set.isEmpty then s
    else
      match s.shLoadLines bay (fld (cword c.words 3) 23 0) (fld w5 25 16) set 65 n with
      | (s', none) => s'
      | (s', some a) => s'.cmdFault bay st fltEccUncorr a) s

/-- A stagehand as SH_START starts it (R149). -/
def Stagehand.begin (h : Stagehand) (l entry : Nat) (arg : Word) (c : Started) : Stagehand :=
  let h := h.settle
  { ((h.setS 1 (BitVec.ofNat 32 l)).setS 2 (BitVec.ofNat 32 (handLocal l))).setS 3 arg with
    pc := entry, running := true, part := c.part, ctx := c.ctx, startId := c.id, bookoff := c.bookoff, loop := none,
    wait := .none, issue := c.startCyc, cut := none }

/-- Frame cycle 0 of a bay lies in the present nanosecond (R174). -/
def BayClk.frameStart (c : BayClk) : Bool := decide (c.cyc % 32 < max 1 c.adv)

/-- SH_START (R149): ready when its set has halted; it starts in frame cycle 0 (R174). -/
def execShStart (bay : Fin 48) (s : State) : Out :=
  startHead 0x21 bay 4
    (fun c s => s.allHalted (dispSet bay c.words) && (s.bay bay).clk.frameStart) (fun c rest s =>
    let set := dispSet bay c.words
    let (s, st) := s.beginCmd bay 4 c rest 0 0 [] set
    set.foldl (fun s l => s.setHand l ((s.hand l).begin l (fld (cword c.words 3) 9 0) (cword c.words 5) st)) s) s

/-- SH_STOP (R150): halts the stagehands of its set; it does not wait for them. -/
def execShStop (bay : Fin 48) (s : State) : Out :=
  startHead 0x22 bay 4 (fun _ _ => true) (fun c rest s =>
    let set := dispSet bay c.words
    let (s, _) := s.beginCmd bay 4 c rest 0 0 [] set
    set.foldl State.stopHand s) s

/-- OR of the flags of a bay's stagehands (BAY_SHFLAGS). -/
def State.shFlags (s : State) (b : Nat) : BitVec 5 :=
  s.stagehands.foldl (fun f kv => if handBay kv.1 = b then f ||| kv.2.flags else f) 0

/-- Write of BAY_SHFLAGS: each 1 clears that flag in every stagehand of the bay (R156). -/
def State.writeShFlags (s : State) (b : Nat) (v : Word) : State :=
  let f := fun (l : Nat) (h : Stagehand) => if handBay l = b then { h with flags := h.flags &&& ~~~(v.setWidth 5) } else h
  { s with stagehands := smap Stagehand.idle f s.stagehands }

/-- BAY_SHFLAGS_WRITE (R156). -/
def execBayShflagsWrite (bay : Fin 48) (v : Word) (s : State) : Out := whenOnBay bay s (fun s => s.writeShFlags bay v)

end Sys2Proof.Machine
end

