-- ==== Sys2Proof/Machine/Grid.lean ====
section
/-!
DEFINITION. Machine/Grid.lean: flits on the grid: routes, slots, crossing queues, hops, arrivals; RGET and RPUT
(R140, R170 to R180).
-/
namespace Sys2Proof.Machine

/-- Column and row of a stagehand or router (R14). -/
def gridX (l : Nat) : Nat := l % 96
def gridY (l : Nat) : Nat := l / 96

/-- A flit from an HBM port travels along y first; every other one along x first (R171, Table 10.4). -/
def Flit.yFirst (f : Flit) : Bool := decide (6144 ≤ f.src ∧ f.src < 6336)

/-- Class of a flit at a crossing (R177): 0 class R, 1 class X, 2 class Y. -/
def Flit.cls (f : Flit) : Nat := if f.yFirst then 2 else if f.kind = 2 ∨ f.kind = 3 then 0 else 1

/-- A flit that carries 256 B of data (R172). -/
def Flit.hasData (f : Flit) : Bool := decide (f.kind = 0 ∨ f.kind = 2 ∨ f.kind = 4)

/-- The router a flit leaves the grid at (Table 6.3). -/
def Flit.target (f : Flit) : Nat := if f.kind = 4 then f.dest % 6144 else f.dest / 512 % 6144

/-- The port of an edge router that faces the wing a KIND 4 flit goes to. -/
def Flit.wingPort (f : Flit) : Nat :=
  if 0x100000000000 ≤ f.addr then (if gridX f.target = 0 then 1 else 2) else (if gridY f.target = 0 then 3 else 4)

/-- Output port at a router: 0 local, 1 west, 2 east, 3 north, 4 south (R170, R171). -/
def Flit.outPort (f : Flit) (l : Nat) : Nat :=
  let t := f.target
  let px := if gridX t < gridX l then 1 else if gridX l < gridX t then 2 else 0
  let py := if gridY t < gridY l then 3 else if gridY l < gridY t then 4 else 0
  if l = t then (if f.kind = 4 then f.wingPort else 0)
  else if f.yFirst then (if py ≠ 0 then py else px) else (if px ≠ 0 then px else py)

/-- The neighbouring router on a port. -/
def gridNext (l : Nat) : Nat → Nat
  | 1 => l - 1
  | 2 => l + 1
  | 3 => l - 96
  | 4 => l + 96
  | _ => l

/-- The port a flit enters a router by when it left the last one on a port. -/
def oppPort : Nat → Nat
  | 1 => 2
  | 2 => 1
  | 3 => 4
  | 4 => 3
  | p => p

/-- The first crossing queue on a flit's route from a router: the router behind it and the port (R177). The queue of a
wing stands behind the edge router's own port; none when the route ends in the bay. -/
def Flit.nextQueue (f : Flit) : Nat → Nat → Option (Nat × Nat)
  | 0, _ => none
  | fuel + 1, l =>
    let p := f.outPort l
    if l = f.target then (if f.kind = 4 then some (6144 + l, p) else none)
    else
      let n := gridNext l p
      if handBay n = handBay l then f.nextQueue fuel n else some (n, oppPort p)

/-- Longest way across a bay and its border. -/
def bayHops : Nat := 32

/-- The reply a request or a write will start at its target (R175). -/
def Flit.reply (f : Flit) (cycle : Nat) (data : List Byte) : Flit :=
  { f with dest := 512 * f.src, src := f.target, kind := if f.kind = 1 then 2 else 3, data := data, at_ := f.target,
           loc := .router, cycle := cycle, inp := 0 }

/-- The crossing queues in which a flit has, or has reserved, an entry (R178): its own or the next on its way, and,
once in its target's bay, the first of its reply. -/
def Flit.holds (f : Flit) : List (Nat × Nat × Nat) :=
  let out := (f.nextQueue bayHops f.at_).toList.map (fun q => (q.1, q.2, f.cls))
  let back :=
    if (f.kind = 0 ∨ f.kind = 1) ∧ f.src < 6144 ∧ handBay f.at_ = handBay f.target then
      let r := f.reply 0 []
      (r.nextQueue bayHops r.at_).toList.map (fun q => (q.1, q.2, r.cls))
    else []
  match f.loc with
  | .router => out ++ back
  | .crossing p _ => [(f.at_, p, f.cls)]
  | .ejected => back
  | .source _ _ => []

/-- Entries of a crossing queue in use or reserved. -/
def State.queueUse (s : State) (q : Nat × Nat × Nat) : Nat :=
  s.flits.foldl (fun n f => n + (f.holds.filter (fun h => decide (h = q))).length) 0

/-- A flit may start from its router when every queue it must reserve has a free entry of its 8 (R178). -/
def State.canStart (s : State) (f : Flit) : Bool :=
  ({ f with loc := .router } : Flit).holds.all (fun q => decide (s.queueUse q < 8))

/-- The bay of a router is fenced and its drain has ended: the router discards what reaches it (R422). -/
def State.routerDead (s : State) (l : Nat) : Bool :=
  s.resets.any (fun r => r.drained && (decide (3 ≤ r.level) ||
    (decide (r.level = 2) && decide (r.part = s.partOfBay (handBay l)))))

/-- The slot of a bay's present cycle: its number within the frame, and counted since reset (R174). -/
def State.slotOf (s : State) (b : Nat) : Nat := (s.bay b).clk.cyc / 2 % 16
def State.slotCount (s : State) (b : Nat) : Nat := (s.bay b).clk.cyc / 2

/-- Put a flit on its way from a port of its router in the present slot. -/
def State.startFlit (s : State) (f : Flit) (port : Nat) : State :=
  let n := s.slotCount (handBay f.at_)
  { s with flits := s.flits ++ [{ f with loc := .router, cycle := 2 * n, inp := port, held := none }],
           slotUsed := sset 0 s.slotUsed (5 * f.at_ + port) (n + 1) }

/-- A port may put a flit on its way in this slot. -/
def State.slotFree (s : State) (l port : Nat) : Bool :=
  decide (sget 0 s.slotUsed (5 * l + port) ≠ s.slotCount (handBay l) + 1)

/-- The vector registers d to d + 3 as 256 bytes. -/
def groupBytes (h : Stagehand) (d : Nat) : List Byte :=
  ((List.range 4).map (fun i => bytesOfVec 64 (h.getV (d + i)))).flatten

/-- What is wrong with the window offset of an RGET or RPUT (R140, R3). -/
def State.gridAddrBad (s : State) (l off : Nat) : Option Nat :=
  let h := s.hand l
  let t := off / 0x20000
  if off % 256 ≠ 0 then some fltAlign
  else if 6144 ≤ t then some fltRange
  else if !(s.bayActive (handBay t)) || decide (s.partOfBay (handBay t) ≠ h.part) then some fltRange
  else if !((s.ctx h.part h.ctx).spOk (handLocal t * 0x20000 + off % 0x20000) 256) then some fltRange
  else none

/-- The flit an RGET or RPUT sends (Table 6.3). -/
def gridFlit (h : Stagehand) (l : Nat) (f : ShFields) (off : Nat) : Flit :=
  let put := decide (f.opc = 0x3F)
  { dest := off / 256, src := l, part := h.part, ctx := h.ctx, kind := if put then 0 else 1, tag := f.d,
    data := if put then groupBytes h f.d else [], at_ := l, loc := .router, cycle := 0, addr := 0, poison := false }

/-- RGET and RPUT wait at issue for their slot, and after a reservation that failed for the same slot of the next frame
(R140, R174, R178). -/
def shGrid (opc : Nat) (l : Nat) (s : State) : Out :=
  shIssue opc (fun f s =>
    let h := s.hand l
    let off := (h.getS f.a).toNat
    match s.gridAddrBad l off with
    | some r => .fault s r (spBase + off)
    | none =>
      if decide (s.slotOf (handBay l) = fld (sget 0 h.istore h.pc) 3 0) && s.slotFree l 0 then
        let t := gridFlit h l f off
        if s.canStart t then
          let h := if opc = 0x3F then { h with putsOut := h.putsOut + 1 } else { h with getsOut := h.getsOut ++ [f.d] }
          .done ((s.startFlit t 0).setHand l h.nextPc)
        else .done (s.setHand l { h with wait := .slot (s.slotCount (handBay l) + 16) })
      else .wait) l s

/-- RGET (R140). -/
def execRget (sh : Fin 6144) (s : State) : Out := shGrid 0x3E sh s

/-- RPUT (R140). -/
def execRput (sh : Fin 6144) (s : State) : Out := shGrid 0x3F sh s

/-- INJECTION_RETRY (R178): in the same slot of the next frame, or of a later one, the source tries again. -/
def execInjectionRetry (sh : Fin 6144) (s : State) : Out :=
  let h := s.hand sh
  let c := (s.bay (handBay sh)).clk
  let due := fun (again : Nat) =>
    decide (again ≤ s.slotCount (handBay sh)) && decide (s.slotOf (handBay sh) = again % 16) && s.slotFree sh 0 &&
      decide (h.issueCycle c ≤ c.cyc)
  match h.wait with
  | .slot again => if due again then shGrid h.word.opc sh (s.setHand sh { h with wait := .none }) else idle s
  | _ => idle s

/-- A flit is dropped: the source's count of unacknowledged writes no longer waits for it. -/
def State.dropFlit (s : State) (i : Nat) (f : Flit) : State :=
  let s := { s with flits := listDrop s.flits i }
  let src := if f.kind = 0 then f.src else f.target
  if (f.kind = 0 ∧ f.src < 6144) ∨ f.kind = 3 then
    s.setHand src { s.hand src with putsOut := (s.hand src).putsOut - 1 }
  else s

/-- A flit with an uncorrectable error is discarded and a context faulted (R173). -/
def State.eccFlit (s : State) (i : Nat) (f : Flit) (l ctx : Nat) : State :=
  (s.dropFlit i f).sendFault fltEccUncorr (s.partOfBay (handBay l)) ctx 5 (handBay l) l 0xFFFFFFFF 0 []

/-- Two flits that hold one output of a router from cycles c and d on meet (R174, R176): their headers in one cycle, or
their data in cycles that overlap. -/
def Flit.clash (f g : Flit) (c d : Nat) : Bool :=
  decide (c = d) || (f.hasData && g.hasData && (decide (c = d + 1) || decide (d = c + 1)))

/-- The input port of g at the router of f, when g meets f there: g waits for the same output, or has just gone out by
it. -/
def Flit.meets (f g : Flit) : Option Nat :=
  let p := f.outPort f.at_
  if g.at_ = f.at_ ∧ g.loc = .router ∧ g.outPort g.at_ = p ∧ f.clash g f.cycle g.cycle = true then some g.inp
  else
    match g.held with
    | some (l, q, i, c) => if l = f.at_ ∧ q = p ∧ f.clash g f.cycle c = true then some i else none
    | none => none

/-- Position of a flit that meets flit i, the flit, and its input port there. -/
def State.rival (s : State) (i : Nat) (f : Flit) : Option (Nat × Flit × Nat) :=
  (List.range s.flits.length).findSome? (fun j =>
    match s.flits[j]? with
    | some g => if j = i then none else (f.meets g).map (fun p => (j, g, p))
    | none => none)

/-- Write data are injected at their source slice, in an open slot of SLOTMASK, once their first queue has room
(R178, R307); after a failed reservation in the same slot of the next frame. -/
def State.injectData (s : State) (i mask : Nat) (again : Option Nat) (f : Flit) : Out :=
  let b := handBay f.at_
  let due := match again with
    | some n => decide (n ≤ s.slotCount b) && decide (s.slotOf b = n % 16)
    | none => mask.testBit (s.slotOf b)
  if (s.bay b).clk.stopped then idle s
  else if s.routerDead f.at_ then .next (s.dropFlit i f)
  else if due && s.slotFree f.at_ 0 then
    if s.canStart f then .next (State.startFlit { s with flits := listDrop s.flits i } f 0)
    else .next { s with flits := listSet s.flits i { f with loc := .source mask (some (s.slotCount b + 16)) } }
  else idle s

/-- Two flits meet at router l: the one from the lower-numbered input port goes on, the other is discarded, its context faults
(R176). -/
def State.collide (s : State) (l : Nat) (win : Flit) (j : Nat) (lose : Flit) : State :=
  let p := if lose.at_ = l then lose.outPort l else win.outPort l
  ((s.dropFlit j lose).orReg (aBay (handBay l) 0x204C) 2).sendFault fltSlot lose.part lose.ctx 5 (handBay l) l
    0xFFFFFFFF 0 [p, lose.cycle % 32, win.src % 256, win.src / 256, lose.src % 256, lose.src / 256]

/-- A wing's controller takes a block of write data, for a request that has reached it or is still on its lane (R307,
R312). -/
def State.wingData (s : State) (f : Flit) : State :=
  let mine := fun (r : MemReq) =>
    r.write && decide (r.requester < 48) && decide (r.bay = handBay f.src) && decide (r.tag = f.tag)
  let put := fun (r : MemReq) => if mine r && decide (r.addr = f.addr) && r.data.isEmpty then { r with data := f.data } else r
  let keep := fun (r : MemReq) =>
    if mine r && decide (r.addr ≤ f.addr) && decide (f.addr < r.addr + 4096) then { r with early := r.early ++ [(f.addr, f.data)] } else r
  let upd := fun (_ : Nat) (c : MemCtl) => { c with reqs := c.reqs.map put, lane := c.lane.map keep }
  { s with ctls := smap MemCtl.idle upd s.ctls }

/-- The crossing-queue occupancy register of a router's side (Table 6.5). -/
def State.noteQueue (s : State) (l port cls : Nat) : State :=
  let n := (s.flits.filter (fun f => decide (f.at_ = l) && decide (f.cls = cls) &&
    (match f.loc with | .crossing p _ => decide (p = port) | _ => false))).length
  let hi := if port = 3 then 31 else if port = 4 then 23 else if port = 1 then 15 else 7
  s.maxFld (aBay (handBay l) 0x2054) hi (hi - 7) n

/-- Flit i moves over the link it holds: to the next router, into a crossing queue, or off the grid (R174, R177). -/
def State.moveFlit (s : State) (i : Nat) (f : Flit) : State :=
  let l := f.at_
  let p := f.outPort l
  if l = f.target then
    if f.kind = 4 then ({ s with flits := listDrop s.flits i }).wingData f
    else { s with flits := listSet s.flits i { f with loc := .ejected, cycle := f.cycle + 1, held := some (l, p, f.inp, f.cycle) } }
  else
    let n := gridNext l p
    let g : Flit := { f with at_ := n, inp := oppPort p, held := some (l, p, f.inp, f.cycle) }
    if s.routerDead n then s.dropFlit i f
    else if handBay n = handBay l then { s with flits := listSet s.flits i { g with cycle := f.cycle + 1 } }
    else
      -- behind the flits that entered a queue before it
      State.noteQueue { s with flits := listDrop s.flits i ++ [{ g with loc := .crossing (oppPort p) s.clock.house, cycle := 0 }] }
        n (oppPort p) f.cls

/-- FLIT_HOP (R173, R174, R176): flit i crosses its next link once its frame cycle has come; ecc is what the router at
its input finds. A flit of write data that waits in its slice enters the grid. -/
def execFlitHop (i : Nat) (ecc : Ecc) (s : State) : Out :=
  match s.flits[i]? with
  | some f =>
    let b := handBay f.at_
    if let .source mask again := f.loc then s.injectData i mask again f
    else if decide (f.loc = .router) && !(s.bay b).clk.stopped && decide (f.cycle ≤ (s.bay b).clk.cyc) then
      if s.routerDead f.at_ then .next (s.dropFlit i f)
      else if ecc = .badHeader then .next (s.eccFlit i f f.at_ ((s.curCtx (s.partOfBay b)).getD 0))
      else if ecc = .badData ∧ f.hasData = true then .next (s.eccFlit i f f.at_ f.ctx)
      else
        let s := if ecc = .corrected then s.countSat (aBay b 0x2050) 1 else s
        match s.rival i f with
        | some (j, g, q) =>
          if q < f.inp then .next (s.collide f.at_ g i f)
          else
            let s := s.collide f.at_ f j g
            .next (s.moveFlit (if j < i then i - 1 else i) f)
        | none => .next (s.moveFlit i f)
    else idle s
  | none => idle s

/-- Flit i, ejected at its target in a running bay. -/
def State.ejected (s : State) (i : Nat) : Option Flit :=
  match s.flits[i]? with
  | some f => if decide (f.loc = .ejected) && !(s.bay (handBay f.at_)).clk.stopped then some f else none
  | none => none

/-- The bay offset a flit's DEST names. -/
def Flit.bayOff (f : Flit) : Nat := handLocal f.target * 0x20000 + f.dest % 512 * 256

/-- READ_REQUEST_ARRIVAL (R175): the slice is read and the data flit starts 4 cycles after the header came. -/
def execReadRequestArrival (i : Nat) (s : State) : Out :=
  match s.ejected i with
  | some f =>
    if f.kind = 1 then
      let s := { s with flits := listDrop s.flits i }
      let b := handBay f.target
      match (s.useBanks b 10 f.bayOff 256).spRead b f.bayOff 256 with
      | (s, some v) => .next { s with flits := s.flits ++ [f.reply (f.cycle + 4) v] }
      | (s, none) =>
        .next (s.sendFault fltEccUncorr f.part f.ctx 5 b f.target 0xFFFFFFFF (spBase + 256 * f.dest) [])
    else idle s
  | none => idle s

/-- A block of a stream read has been written into its slice (R307, R311). -/
def State.blockLanded (s : State) (b tag : Nat) : State :=
  let y := s.bay b
  let upd := fun (t : Transfer) => if t.tag = tag ∧ t.write = false then { t with arrived := t.arrived + 1 } else t
  s.setBay b { y with transfers := y.transfers.map upd }

/-- SLICE_WRITE_ARRIVAL (R175): the slice is written; a stagehand's write is acknowledged 3 cycles after its first beat,
a block of a stream read counts towards its transfer. -/
def execSliceWriteArrival (i : Nat) (s : State) : Out :=
  match s.ejected i with
  | some f =>
    let b := handBay f.target
    if f.kind = 0 then
      let s := ((s.useBanks b 10 f.bayOff 256).spWrite b f.bayOff f.data).1
      .next { s with flits := listSet s.flits i (f.reply (f.cycle + 3) []) }
    else if f.kind = 2 ∧ 6144 ≤ f.src then
      let s := { s with flits := listDrop s.flits i }
      .next (((s.useBanks b 10 f.bayOff 256).spWrite b f.bayOff f.data).1.blockLanded b f.tag)
    else idle s
  | none => idle s

/-- WRITE_ACK_ARRIVAL (R175): one RPUT of the stagehand has completed. -/
def execWriteAckArrival (i : Nat) (s : State) : Out :=
  match s.ejected i with
  | some f =>
    if f.kind = 3 then
      let h := s.hand f.target
      .next ({ s with flits := listDrop s.flits i }.setHand f.target { h with putsOut := h.putsOut - 1 })
    else idle s
  | none => idle s

/-- Four vector registers from 256 bytes. -/
def Stagehand.setGroup (h : Stagehand) (d : Nat) (v : List Byte) : Stagehand :=
  (List.range 4).foldl (fun h i => h.setV (d + i) (vecBytes ((v.drop (64 * i)).take 64))) h

/-- RGET_DATA_ARRIVAL (R140): the data are written into the registers that TAG names, unless the RGET was discarded by
a stop or a switch (R150, R153). -/
def execRgetDataArrival (i : Nat) (s : State) : Out :=
  match s.ejected i with
  | some f =>
    if f.kind = 2 ∧ f.src < 6144 then
      let h := s.hand f.target
      let s := { s with flits := listDrop s.flits i }
      if h.getsOut.contains f.tag && !f.void && decide (f.ctx = h.ctx) then
        .next (s.setHand f.target { h.setGroup f.tag f.data with getsOut := h.getsOut.erase f.tag })
      else .next s
    else idle s
  | none => idle s

/-- The slots open on a side of a bay (R179). -/
def State.openSlots (s : State) (b port : Nat) : Nat :=
  let ns := s.reg (aBay b 0x2040)
  let we := s.reg (aBay b 0x2044)
  if port = 3 then fld ns 31 16 else if port = 4 then fld ns 15 0 else if port = 1 then fld we 31 16 else fld we 15 0

/-- The head flit of a class in an inbound crossing queue: its position and the time it entered. The flits of a queue stand
in the order in which they entered it. -/
def State.crossHead (s : State) (l port cls : Nat) : Option (Nat × Nat) :=
  (List.range s.flits.length).findSome? (fun i =>
    match s.flits[i]? with
    | some f =>
      (match f.loc with
       | .crossing p since => if f.at_ = l ∧ p = port ∧ f.cls = cls then some (i, since) else none
       | _ => none)
    | none => none)

/-- Whether the head flit at a position may leave (R178). -/
def State.headOk (s : State) : Option (Nat × Nat) → Option (Nat × Nat)
  | some (i, since) =>
    (match s.flits[i]? with
     | some f => if s.canStart f then some (i, since) else none
     | none => none)
  | none => none

/-- The flit a router takes in a slot: class R first, then the longer wait of X and Y, X on a tie (R179). -/
def State.crossPick (s : State) (l port : Nat) : Option Nat :=
  match s.headOk (s.crossHead l port 0) with
  | some (i, _) => some i
  | none =>
    match s.headOk (s.crossHead l port 1), s.headOk (s.crossHead l port 2) with
    | some (i, t), some (j, u) => if u < t then some j else some i
    | some (i, _), none => some i
    | none, some (j, _) => some j
    | none, none => none

/-- CROSSING_SLOT_TAKE (R179): in an open slot, the router takes one flit from the queues of a port. A poisoned flit of
a wing is discarded by the edge router and faults the context it names (R292). -/
def execCrossingSlotTake (router : Fin 6144) (port : Fin 5) (s : State) : Out :=
  let l : Nat := router
  let b := handBay l
  if decide (port.val ≠ 0) && !(s.bay b).clk.stopped && (s.openSlots b port).testBit (s.slotOf b) && s.slotFree l port then
    match s.crossPick l port with
    | some i =>
      (match s.flits[i]? with
       | some f =>
         if s.routerDead l then .next (s.dropFlit i f)
         else if f.poison then .next (s.eccFlit i f l f.ctx)
         else .next (State.startFlit { s with flits := listDrop s.flits i } f port)
       | none => idle s)
    | none => idle s
  else idle s

/-- Most slots that may be open on a side that faces a wing (Table 6.4); any number elsewhere. -/
def slotBudget (b port : Nat) : Nat :=
  if (port = 3 ∧ b / 12 = 0) ∨ (port = 4 ∧ b / 12 = 3) then 12
  else if (port = 1 ∧ b % 12 = 0) ∨ (port = 2 ∧ b % 12 = 11) then 8 else 16

/-- Bits set among the 16 low bits of a mask. -/
def popcount16 (n : Nat) : Nat := ((List.range 16).filter (fun i => n.testBit i)).length

/-- Whether a slot-plan word keeps to the budgets of its two sides (R180). -/
def xslotOk (b : Nat) (we : Bool) (v : Word) : Bool :=
  decide (popcount16 (fld v 31 16) ≤ slotBudget b (if we then 1 else 3)) &&
    decide (popcount16 (fld v 15 0) ≤ slotBudget b (if we then 2 else 4))

/-- Write of BAY_XSLOT_NS or BAY_XSLOT_WE (R180). -/
def State.writeXslot (s : State) (b : Nat) (we : Bool) (v : Word) : State :=
  if xslotOk b we v && !(s.bay b).running then s.setReg (aBay b (if we then 0x2044 else 0x2040)) v
  else s.orReg (aBay b 0x204C) 1

/-- BAY_XSLOT_WRITE (R180). -/
def execBayXslotWrite (bay : Fin 48) (we : Bool) (v : Word) (s : State) : Out := whenOnBay bay s (fun s => s.writeXslot bay we v)

end Sys2Proof.Machine
end

