-- ==== Sys2Proof/Machine/Streams.lean ====
section
/-!
DEFINITION. Machine/Streams.lean: the stream engines: address slots, transfer commands, transfers and their tags
(R304 to R312).
-/
namespace Sys2Proof.Machine

/-- Fields of a transfer command (Table 10.7). -/
def seAslot (ws : List Word) : Nat := fld (cword ws 3) 31 28
def seSslot (ws : List Word) : Nat := fld (cword ws 3) 27 24
def seBlocks (ws : List Word) : Nat := fld (cword ws 3) 23 20 + 1
def seMask (ws : List Word) : Nat := fld (cword ws 4) 31 16
def seMslot (ws : List Word) : Nat := fld (cword ws 4) 15 12
def seShift (ws : List Word) : Nat := fld (cword ws 4) 4 0

/-- A part of a slot written (Table 10.6): base and levels 0 and 1, levels 2 and 3, or levels 4 and 5. -/
def AgSlot.writePart (t : AgSlot) (part base : Nat) (cs : List Nat) (ds : List Int) : AgSlot :=
  { base := if part = 0 then base else t.base,
    counts := t.counts.take (2 * part) ++ cs ++ t.counts.drop (2 * part + 2),
    strides := t.strides.take (2 * part) ++ ds ++ t.strides.drop (2 * part + 2) }

/-- The slot write of SE_AGEN (R305). -/
def Bay.seAgen (y : Bay) (ws : List Word) : Bay :=
  let k := 16 + fld (cword ws 1) 31 28
  let base := fld (cword ws 1) 15 0 * 2 ^ 32 + (cword ws 2).toNat
  let cs := [fld (cword ws 3) 19 0, fld (cword ws 5) 19 0]
  let ds := [signed 32 (cword ws 4).toNat, signed 32 (cword ws 6).toNat]
  { y with slots := sset AgSlot.init y.slots k ((y.slot k).writePart (fld (cword ws 1) 27 26) base cs ds) }

/-- SE_AGEN (R305): it moves nothing and has no tag. -/
def execSeAgen (bay : Fin 48) (q : Fin 4) (s : State) : Out :=
  startHead 0x40 bay (5 + q) (fun _ _ => true) (fun c rest s =>
    let s := (s.beginCmd bay (5 + q) c rest 1 0 [] []).1
    s.setBay bay ((s.bay bay).seAgen c.words)) s

/-- No earlier command of its own queue holds any of its tags (R310). -/
def seReady (b q : Nat) (c : QCmd) (s : State) : Bool :=
  (s.bay b).tagsFree (5 + q) c.words

/-- Start of a transfer command (R307, R310): its slots are copied: memory or index, scratchpad, table. -/
def seStart (op b q : Nat) (s : State) : Out :=
  startHead op b (5 + q) (seReady b q) (fun c rest s =>
    let y := s.bay b
    let slots := y.copySlots [16 + seAslot c.words, 16 + seSslot c.words, 16 + seMslot c.words]
    (s.beginCmd b (5 + q) c rest 1 (y.slot (16 + seAslot c.words)).total slots []).1) s

/-- SE_READ, SE_WRITE, SE_GATHER and SE_SCATTER (R307). -/
def execSeRead (bay : Fin 48) (q : Fin 4) (s : State) : Out := seStart 0x41 bay q s
def execSeWrite (bay : Fin 48) (q : Fin 4) (s : State) : Out := seStart 0x42 bay q s
def execSeGather (bay : Fin 48) (q : Fin 4) (s : State) : Out := seStart 0x43 bay q s
def execSeScatter (bay : Fin 48) (q : Fin 4) (s : State) : Out := seStart 0x44 bay q s

/-- The command moves data from the bay to memory; its addresses are indexed. -/
def Started.seWrite (c : Started) : Bool := decide (c.op = 0x42 ∨ c.op = 0x44)
def Started.seIndexed (c : Started) : Bool := decide (c.op = 0x43 ∨ c.op = 0x44)
def Started.slotN (c : Started) (i : Nat) : AgSlot := c.slots.getD i AgSlot.init

/-- Transfers of a command in flight, and the number of the one it issues next. -/
def Bay.inFlight (y : Bay) (c : Started) : Nat := (y.transfers.filter (fun t => decide (t.cmd = c.id))).length
def Bay.nextTransfer (y : Bay) (c : Started) : Option Nat :=
  if c.op < 0x41 ∨ c.left ≤ y.inFlight c then none else some (c.done + y.inFlight c)

/-- The next free tag of a command's range, round-robin (R310). -/
def Bay.freeTag (y : Bay) (c : Started) : Option Nat :=
  let n := max 1 (seNtags c.words)
  ((List.range n).map (fun i => seTag0 c.words + (c.nextTag + i) % n)).find?
    (fun t => y.transfers.all (fun x => decide (x.tag ≠ t)))

/-- Why a transfer cannot be made: its fault code and address. -/
abbrev SeBad := Nat × Nat

/-- An offset of a slot used for bay offsets (R308): its base keeps within 24 bits, the range in the quota. -/
def bayRangeBad (x : Context) (t : AgSlot) (off n : Nat) : Bool :=
  decide (2 ^ 24 ≤ t.base) || decide (2 ^ 24 < off + n) || !(x.spOk off n)

/-- The memory address of transfer n of a command (R307): from its memory slot, or by the index it reads. -/
def State.seAddr (s : State) (b : Nat) (c : Started) (n : Nat) : State × Except SeBad Nat :=
  match (c.slotN 0).addr 48 n with
  | none => (s, .error (fltShape, 0))
  | some a =>
    if c.seIndexed then
      -- every A of the command is a multiple of 256 or none is: SHIFT is 8 or more
      if a % 4 ≠ 0 ∨ (c.slotN 2).base % 256 ≠ 0 ∨ ((c.slotN 1).addr 48 n).any (fun o => decide (o % 256 ≠ 0)) = true then (s, .error (fltAlign, spAddr b (a % 2 ^ 24)))
      else if bayRangeBad (s.ctx c.part c.ctx) (c.slotN 0) a 4 then (s, .error (fltRange, spAddr b (a % 2 ^ 24)))
      else
        match s.spRead b a 4 with
        | (s', some v) => (s', .ok (((c.slotN 2).base + leNat v * 2 ^ seShift c.words) % 2 ^ 48))
        | (s', none) => (s', .error (fltEccUncorr, spAddr b a))
    else (s, .ok a)

/-- The checks of R308 on a transfer between address a and the bay offset, in their order. -/
def State.seCheck (s : State) (c : Started) (a n : Nat) (off : Option Nat) : Option Nat :=
  let x := s.ctx c.part c.ctx
  let inQuota := (if c.seWrite then x.hbmOk a n else s.hbmReadOk c.part c.ctx a n) || x.ddrOk a n
  firstOf [
    (decide (a % 256 ≠ 0) || off.any (fun o => decide (o % 256 ≠ 0)) || decide (4096 < a % 4096 + n), fltAlign),
    (!(inQuota && s.inMem a n), fltRange),
    (c.seWrite && s.readOnly c.part c.ctx a n, fltRange),
    (decide (2 ^ 24 ≤ (c.slotN 1).base) || off.any (fun o => bayRangeBad x (c.slotN 1) o n), fltRange),
    (off.isNone, fltShape)]

/-- Transfer n of a command: its address and bay offset, or its fault. -/
def State.sePlan (s : State) (b : Nat) (c : Started) (n : Nat) : State × Except SeBad (Nat × Nat) :=
  match s.seAddr b c n with
  | (s', .error e) => (s', .error e)
  | (s', .ok a) =>
    let off := (c.slotN 1).addr 48 n
    match s'.seCheck c a (256 * seBlocks c.words) off with
    | some r => (s', .error (r, a))
    | none => (s', .ok (a, off.getD 0))

/-- The request lane of an address: the wing of its controller: 0 north, 1 south, 2 west, 3 east (R301, R304). -/
def laneOf (a : Nat) : Nat := let c := ctlOf a; if c < 6 then 0 else if c < 12 then 1 else if c < 16 then 2 else 3

/-- The lane of a bay to a wing holds 16 requests: the stream engine waits (R332). -/
def State.laneFull (s : State) (b lane : Nat) : Bool :=
  decide (16 ≤ s.ctls.foldl (fun n kv => n + (kv.2.lane.filter (fun r => decide (r.requester = b) && decide (laneOf r.addr = lane))).length) 0)

/-- The lane that a command's next transfer waits for, when it has a free tag. -/
def State.seLane (s : State) (b : Nat) (c : Started) : Option Nat :=
  let y := s.bay b
  match y.nextTransfer c, y.freeTag c with
  | some n, some _ => (match (s.sePlan b c n).2 with | .ok (a, _) => some (laneOf a) | .error _ => none)
  | _, _ => none

/-- A transfer faults (R308): it moves nothing; the command ends, without its flag, with the transfers in flight. -/
def State.seFault (s : State) (b : Nat) (c : Started) (r addr : Nat) : State :=
  let k := (s.bay b).inFlight c
  (s.modStarted b c.id (fun x => { x with left := k, noFlag := true })).sendFault r c.part c.ctx 4 b (stationOfBay b)
    c.bookoff addr []

/-- The 256-byte blocks of a write as they leave their slices (R307). -/
def writeFlits (b : Nat) (c : Started) (tag a off : Nat) (v : List Byte) : List Flit :=
  (List.range (seBlocks c.words)).map (fun i =>
    let o := off + 256 * i
    let src := handOf b (o / 0x20000)
    { dest := edgeRouter (ctlOf (a + 256 * i)) (edgeOf (a + 256 * i)), src := src, part := c.part, ctx := c.ctx,
      kind := 4, tag := tag, data := (v.drop (256 * i)).take 256, at_ := src, loc := .source (seMask c.words) none,
      cycle := 0, addr := a + 256 * i, poison := false })

/-- A transfer takes its tag and its request leaves on the lane (R310, R316); a write's data wait for their slots. -/
def State.seIssue (s : State) (b : Nat) (c : Started) (tag a off : Nat) (v : List Byte) : State :=
  let y := s.bay b
  let n := max 1 (seNtags c.words)
  let t : Transfer :=
    { tag := tag, cmd := c.id, write := c.seWrite, addr := a, spOff := off, blocks := seBlocks c.words, arrived := 0,
      issuedAt := s.clock.house }
  let k := ctlOf a
  let x := s.ctl k
  let r : MemReq :=
    { write := c.seWrite, addr := a, requester := b, gen := sget 0 x.gens b, part := c.part, ctx := c.ctx, bay := b,
      tag := tag, spOff := off, data := [] }
  let s := s.setBay b { y with transfers := y.transfers ++ [t] }
  let s := s.modStarted b c.id (fun x => { x with nextTag := (tag - seTag0 c.words + 1) % n })
  let s := s.setCtl k { x with lane := x.lane ++ [r] }
  if c.seWrite then { s with flits := s.flits ++ writeFlits b c tag a off v } else s

/-- TRANSFER_ISSUE (R308, R310): the next transfer of started command id of a bay is checked and issued, if it has a
free tag and no older command waits for its lane. -/
def execTransferIssue (bay : Fin 48) (id : Nat) (s : State) : Out :=
  let y := s.bay bay
  match y.started.find? (fun c => decide (c.id = id)) with
  | some c =>
    match y.nextTransfer c, y.freeTag c with
    | some n, some tag =>
      if y.clk.stopped then idle s
      else
        match s.sePlan bay c n with
        | (s', .error (r, addr)) => .next (s'.seFault bay c r addr)
        | (s', .ok (a, off)) =>
          if s.laneFull bay (laneOf a) then idle s
          else if (y.started.takeWhile (fun x => decide (x.id ≠ id))).any (fun x => decide (s.seLane bay x = some (laneOf a))) then idle s
          else if c.seWrite then
            match s'.spRead bay off (256 * seBlocks c.words) with
            | (s', some v) => .next (s'.seIssue bay c tag a off v)
            | (s', none) => .next (s'.seFault bay c fltEccUncorr (spAddr bay off))
          else .next (s'.seIssue bay c tag a off [])
    | _, _ => idle s
  | none => idle s

/-- STREAM_TRANSFER_COMPLETE (R311): every block of the transfer holding a tag has landed or been committed: the tag is
free and the command has one transfer less to do. -/
def execStreamTransferComplete (bay : Fin 48) (tag : Fin 128) (s : State) : Out :=
  let y := s.bay bay
  match y.transfers.find? (fun t => decide (t.tag = tag.val)) with
  | some t =>
    if t.arrived = t.blocks ∧ y.clk.stopped = false then
      let y := { y with transfers := y.transfers.filter (fun x => decide (x.tag ≠ tag.val)),
                        seBytes := (y.seBytes + 256 * t.blocks) % 2 ^ 64 }
      let s := (s.setBay bay y).modStarted bay t.cmd (fun c => { c with left := c.left - 1, done := c.done + 1 })
      .next (s.maxFld (aBay bay 0x300C) 15 0 (min 0xFFFF (s.clock.house - t.issuedAt)))
    else idle s
  | none => idle s

end Sys2Proof.Machine
end

