-- ==== Sys2Proof/Machine/MemWings.lean ====
section
/-!
DEFINITION. Machine/MemWings.lean: the HBM and DDR controllers: requests, read blocks, commits, the patrol walkers and
the zero fill (R292, R295, R296, R310 to R318).
-/
namespace Sys2Proof.Machine

/-- The transfer a request belongs to. -/
def State.transferOf (s : State) (r : MemReq) : Option Transfer :=
  (s.bay r.bay).transfers.find? (fun t => decide (t.tag = r.tag))

/-- A request for each 256-byte block of a transfer, with the data that have come for it. -/
def MemReq.blocks (r : MemReq) (n : Nat) : List MemReq :=
  (List.range n).map (fun i =>
    let a := r.addr + 256 * i
    { r with addr := a, spOff := r.spOff + 256 * i, early := [],
             data := ((r.early.find? (fun x => decide (x.1 = a))).map Prod.snd).getD [] })

/-- Two blocks of one request. -/
def MemReq.same (r q : MemReq) : Bool :=
  decide (q.requester = r.requester) && decide (q.tag = r.tag) && decide (q.gen = r.gen) && decide (q.write = r.write)

/-- A fenced wing refuses a request of a stream engine (R318): its transfer ends, and its command faults. -/
def State.refuseReq (s : State) (r : MemReq) : State :=
  let y := s.bay r.bay
  let s1 := s.setBay r.bay { y with transfers := y.transfers.filter (fun t => decide (t.tag ≠ r.tag)) }
  let mine := fun (f : Flit) => decide (f.kind = 4) && decide (f.tag = r.tag) && decide (handBay f.src = r.bay)
  let s2 := { s1 with flits := s1.flits.filter (fun f => !(mine f)) }
  match (s.transferOf r).bind (fun t => y.started.find? (fun c => decide (c.id = t.cmd))) with
  | some c => s2.seFault r.bay c fltFenced r.addr
  | none => s2

/-- MEMORY_REQUEST_ARRIVAL (R310, R318): the oldest of a controller's requests on a bay's lane reaches it, at position i
of those on the lanes. -/
def execMemoryRequestArrival (ctl : Fin 20) (i : Nat) (s : State) : Out :=
  let x := s.ctl ctl
  match x.lane[i]? with
  | some r =>
    if (x.lane.take i).any (fun q => decide (q.bay = r.bay)) then idle s
    else
      let s' := s.setCtl ctl { x with lane := listDrop x.lane i }
      if s.memFenced then .next (s'.refuseReq r)
      else
        let x := s'.ctl ctl
        let n := (s.transferOf r).elim 1 Transfer.blocks
        .next (s'.setCtl ctl { x with reqs := x.reqs ++ r.blocks n })
  | none => idle s

/-- The request carries a stale generation (R317). -/
def MemCtl.stale (x : MemCtl) (r : MemReq) : Bool := decide (sget 0 x.gens r.requester ≠ r.gen)

/-- A request is discarded for its generation, with what is left of it, and counted once (R317). -/
def State.dropStale (s : State) (ctl : Nat) (r : MemReq) : State :=
  let x := s.ctl ctl
  (s.setCtl ctl { x with reqs := x.reqs.filter (fun q => !(r.same q)) }).countSat (aMem ctl 0x24) 1

/-- The port of a controller's edge router behind which its flits queue (R177, Table 10.3). -/
def wingQueuePort (ctl : Nat) : Nat := if ctl < 6 then 3 else if ctl < 12 then 4 else if ctl < 16 then 1 else 2

/-- A port on a wing (R302): an HBM stack's edge router, a DDR channel, the Ethernet port, a chain port (0 W, 1 E), or a
wing engine. -/
inductive WingPort where
  | hbm (stack j : Nat)
  | ddr (c : Nat)
  | ethernet
  | chain (port : Nat)
  | wing (c : Nat)
deriving DecidableEq, Repr

/-- The source number of a wing port's flits (Table 10.4). -/
def wingSrc : WingPort → Nat
  | .hbm n j => 6144 + 16 * n + j
  | .ddr c => 6336 + c
  | .ethernet => 6344
  | .chain k => 6345 + k
  | .wing c => 6360 + c

/-- The port of controller ctl that uses edge router j. -/
def ctlPort (ctl j : Nat) : WingPort := if ctl < 12 then .hbm ctl j else .ddr (ctl - 12)

/-- The read-data flit of a block (R307, Table 6.3). -/
def readFlit (ctl : Nat) (r : MemReq) (data : List Byte) (poison : Bool) (now : Nat) : Flit :=
  { dest := handOf r.bay (r.spOff / 0x20000) * 512 + r.spOff % 0x20000 / 256, src := wingSrc (ctlPort ctl (edgeOf r.addr)),
    part := r.part, ctx := r.ctx, kind := 2, tag := r.tag, data := data, at_ := edgeRouter ctl (edgeOf r.addr),
    loc := .crossing (wingQueuePort ctl) now, cycle := 0, addr := r.addr, poison := poison }

/-- A controller reads a block with data-bus parity failing a number of times, up to 3 retries (R292, R295); corrected:
its ECC corrected an error on the way. Whether the block can be used, and its bytes. -/
def State.ctlRead (s : State) (ctl a parityFails : Nat) (corrected : Bool) : State × Bool × List Byte :=
  let s := s.countSat (aMem ctl 0x28) (min 3 parityFails)
  let v := s.memBytes a 256
  let r := s.readBlock a
  if r.2.isSome then
    let s' := if corrected ∧ s.blockErr a = 0 then r.1.countSat (aMem ctl 0x04) 1 else r.1
    if 3 < parityFails then ((s'.badBlock a).spoilBlock a, false, v) else (s', true, v)
  else (r.1, false, v)

/-- READ_BLOCK_DELIVERY (R292, R317): read request i of a controller: a stale one is dropped; otherwise its block goes
to the edge router, with its check bits made uncorrectable when it could not be read. -/
def execReadBlockDelivery (ctl : Fin 20) (i : Nat) (parityFails : Nat) (corrected : Bool) (s : State) : Out :=
  let x := s.ctl ctl
  match x.reqs[i]? with
  | some r =>
    if r.write || s.clock.refLost then idle s
    else if x.stale r then .next (s.dropStale ctl r)
    else
      let f := readFlit ctl r [] false s.clock.house
      if s.queueUse (f.at_, wingQueuePort ctl, f.cls) < 8 then
        let s := s.setCtl ctl { x with reqs := listDrop x.reqs i }
        let (s, ok, v) := s.ctlRead ctl r.addr parityFails corrected
        let s := { s with flits := s.flits ++ [readFlit ctl r v (!ok) s.clock.house] }
        .next (s.noteQueue f.at_ (wingQueuePort ctl) f.cls)
      else idle s
  | none => idle s

/-- Blocks of a stream write have been committed. -/
def State.blocksCommitted (s : State) (r : MemReq) (n : Nat) : State :=
  let y := s.bay r.bay
  let upd := fun (t : Transfer) => if t.tag = r.tag ∧ t.write = true then { t with arrived := t.arrived + n } else t
  s.setBay r.bay { y with transfers := y.transfers.map upd }

/-- A controller writes a block whose data failed data-bus parity a number of times, up to 3 retries (R292, R295). What a
block holds whose write still fails then is not stated: free bytes (DESIGN CHOICE, entry 187). -/
def State.ctlWrite (s : State) (parityFails : Nat) (r : MemReq) : State :=
  let k := ctlOf r.addr
  let s := s.countSat (aMem k 0x28) (min 3 parityFails)
  if 3 < parityFails then
    let d := s.freeBytes 256
    d.1.writeMem r.addr d.2
  else s.writeMem r.addr r.data

/-- Some block of a request must wait for an earlier write of that block that may still commit (R312). -/
def MemCtl.heldBack (x : MemCtl) (i : Nat) (mine : List MemReq) : Bool :=
  (x.reqs.take i).any (fun q => q.write && !(x.stale q) && mine.any (fun r => !(r.same q) && decide (q.addr = r.addr)))

/-- WRITE_COMMIT (R312, R317): the write request that block i of a controller's belongs to commits whole once all its data
are there, each block after every earlier write of it; a stale one is discarded, with or without its data. The first block
meets data-bus parity failures. -/
def execWriteCommit (ctl : Fin 20) (w : CommitTry) (s : State) : Out :=
  let x := s.ctl ctl
  match x.reqs[w.index]? with
  | some r =>
    let mine := x.reqs.filter r.same
    if !r.write || s.clock.refLost then idle s
    else if x.stale r then .next (s.dropStale ctl r)
    else if mine.any (fun q => decide (q.data.length ≠ 256)) || x.heldBack w.index mine then idle s
    else
      let s := s.setCtl ctl { x with reqs := x.reqs.filter (fun q => !(r.same q)) }
      let s := (s.ctlWrite w.parityFails (mine.headD r))
      .next (((mine.drop 1).foldl (State.ctlWrite · 0 ·) s).blocksCommitted r mine.length)
  | none => idle s

/-- Blocks behind a controller, and the address of its k-th block (R300). -/
def State.ctlBlocks (s : State) (ctl : Nat) : Nat :=
  if ctl < 12 then 24 * 2 ^ 30 / 256 else dimmGiB (s.ctl ctl).size * 2 ^ 30 / 256
def ctlBlockAddr (ctl k : Nat) : Nat :=
  if ctl < 12 then (k / 16 * 12 + ctl) * 4096 + k % 16 * 256 else ddrBase + (k / 16 * 8 + (ctl - 12)) * 4096 + k % 16 * 256

/-- PATROL_VISIT (R296): the walker reads its next block, writes corrected data back and logs an uncorrectable block
without faulting a context. -/
def execPatrolVisit (ctl : Fin 20) (s : State) : Out :=
  let x := s.ctl ctl
  let n := s.ctlBlocks ctl
  if decide (x.st = 2) && !s.memFenced && s.ymr.dieOn && decide (x.patrol < n) then
    let a := ctlBlockAddr ctl x.patrol
    let err := s.blockErr a
    let s := (s.readBlock a).1
    let s := if err = 1 then (s.freshBlock a).countWrap (aMem ctl 0x1C) 1 else s
    let last := decide (x.patrol + 1 = n)
    let s := s.setCtl ctl { s.ctl ctl with patrol := if last then 0 else x.patrol + 1 }
    .next (if last then s.setReg (aMem ctl 0x20) ((s.reg (aMem ctl 0x20) + 1) &&& 0xFFFF) else s)
  else idle s

/-- ZERO_FILL (R296): before the module is ready, all HBM and DDR are written with zero, DDR under the device key. -/
def execZeroFill (s : State) : Out :=
  match s.power with
  | .testing tested false =>
    if s.ddrReady && decide (sget 0 s.keySlots 4 = 0) then idle s
    else .next { (s.wipe 0 s.installedHbm).wipe ddrBase s.installedDdr with power := .testing tested true }
  | _ => idle s

end Sys2Proof.Machine
end

