-- ==== Sys2Proof/Machine/Exchange.lean ====
section
/-!
DEFINITION. Machine/Exchange.lean: buckets: LE_REDUCE, the rings of the chain and of the cluster, deadlines, landing,
sampled chunks, recomputes (R226 to R243, R247 to R250).
-/
namespace Sys2Proof.Machine

/-- Bucket i of a partition, and its change. -/
def State.bucket (s : State) (p i : Nat) : Option Bucket := (s.link p).buckets[i]?
def State.modBucket (s : State) (p i : Nat) (f : Bucket → Bucket) : State :=
  let l := s.link p
  match l.buckets[i]? with
  | some b => s.setLink p { l with buckets := listSet l.buckets i (f b) }
  | none => s

/-- A set of contexts with one more. -/
def addCtx (l : List Nat) (c : Nat) : List Nat := if l.contains c then l else l ++ [c]

/-- A non-finite value of a context's step (R245). -/
def State.setStepNf (s : State) (p c : Nat) (nf : Bool) : State :=
  if nf then s.setLink p { s.link p with stepNf := addCtx (s.link p).stepNf c } else s

/-- A late contribution of a context's step (Table 8.5). -/
def State.setStepLate (s : State) (p c : Nat) : State := s.setLink p { s.link p with stepLate := addCtx (s.link p).stepLate c }

/-- A bucket's fields (Table 8.2). -/
structure ReduceCmd where
  tag : Nat
  cast : Nat
  ecast : Nat
  levels : Nat
  opt : Nat
  tensor : Nat
  src : Nat
  count : Nat
  soff : Nat
deriving DecidableEq, Repr

def reduceCmd (ws : List Word) : ReduceCmd :=
  { tag := fld (cword ws 1) 31 20, cast := fld (cword ws 1) 19 12, ecast := fld (cword ws 1) 11 4,
    levels := fld (cword ws 1) 3 2, opt := fld (cword ws 2) 31 20, tensor := fld (cword ws 2) 19 4,
    src := (cword ws 3).toNat + 2 ^ 32 * fld (cword ws 4) 15 0, count := (cword ws 5).toNat, soff := (cword ws 6).toNat }

/-- Members of a list, at least as a divisor. -/
def State.castSize (s : State) (g : Nat) : Nat := (s.cast g).members.length

/-- A bucket in flight: its LE_REDUCE has started and not completed (R229). -/
def Bucket.inFlight (b : Bucket) : Bool := b.accepted.isSome && !b.confirmed

/-- The checks of LE_REDUCE in the order of R228. -/
def State.reduceCheck (s : State) (p c : Nat) (k : ReduceCmd) : Option Nat :=
  let x := s.ctx p c
  let parts := if k.levels = 1 then s.castSize k.cast * s.castSize k.ecast else s.castSize k.cast
  let desc := s.odesc p c k.opt
  let descBad :=
    match desc, s.tensor p c k.tensor with
    | some o, some d => decide (o.tensor ≠ k.tensor) || d.frozen || decide (o.nshard < k.soff + k.count / max 1 parts)
    | _, _ => true
  firstOf [
    (x.dress, fltEngineAbsent),
    (decide (k.levels = 3), fltOperandCase),
    (decide (k.count < 32768) || decide (33554432 < k.count) || decide (parts = 0) || decide (k.count % (1024 * parts) ≠ 0), fltShape),
    (decide (k.src % 256 ≠ 0) || decide (k.soff % 1024 ≠ 0), fltAlign),
    (!(x.hbmOk k.src (2 * k.count)) && !(s.spWindowOk p c k.src (2 * k.count)), fltRange),
    (descBad, fltRange),
    ((s.link p).buckets.any (fun b => decide (b.ctx = c) && decide (b.tag = k.tag) && decide (b.cast = k.cast) && b.inFlight), fltTag),
    (!(s.epochOk p c k.cast) || (decide (k.levels ≠ 0) && !(s.epochOk p c k.ecast)), fltEpoch)]

/-- Where a chunk stands at a level: the members of the ring, this module among them, the chunk's owner, and its number
within its part (R226, R235, R236). -/
structure RingPos where
  n : Nat
  me : Nat
  owner : Nat
  rel : Nat
deriving DecidableEq, Repr

/-- Chunks of a chain part. -/
def State.partChunks (s : State) (b : Bucket) : Nat := b.count / 1024 / max 1 (s.castSize b.cast)

def State.ringPos (s : State) (b : Bucket) (level x : Nat) : Option RingPos :=
  let per := s.partChunks b
  if level = 0 then
    (s.memberOf b.cast).map (fun i => { n := s.castSize b.cast, me := i, owner := x / max 1 per, rel := x % max 1 per })
  else
    match s.memberOf b.cast, s.memberOf b.ecast with
    | some j, some i =>
      let n := s.castSize b.ecast
      let k := x - j * per
      let owner := k * n / max 1 per
      some { n := n, me := i, owner := owner, rel := k - (owner * per + n - 1) / n }
    | _, _ => none

/-- The ring of a chunk: CW for an even number, CCW for an odd one; a sampled chunk's second ring is the other (R235,
R247). -/
def RingPos.cw (r : RingPos) (check : Bool) : Bool := xor (decide (r.rel % 2 = 0)) check
def RingPos.next (r : RingPos) (cw : Bool) : Nat := if cw then (r.me + 1) % r.n else (r.me + r.n - 1) % r.n
def RingPos.first (r : RingPos) (cw : Bool) : Nat := if cw then (r.owner + 1) % r.n else (r.owner + r.n - 1) % r.n

/-- The list of a level. -/
def Bucket.listOf (b : Bucket) (level : Nat) : Nat := if level = 0 then b.cast else b.ecast

/-- Send a chunk to the next member of its ring. -/
def State.sendChunk (s : State) (p : Nat) (b : Bucket) (level : Nat) (r : RingPos) (cw : Bool) (h : BucketHdr)
    (vals : List (BitVec 16)) : State :=
  let h := { h with nf := h.nf || (s.link p).stepNf.contains b.ctx }
  s.sendRing (b.listOf level) (r.next cw) cw (hdrBytes h ++ g16Bytes vals)

/-- What this module contributes to a chunk at a level: values, scale and count (R240, R242). -/
def Bucket.ownAt (b : Bucket) (level x : Nat) : Option (List (BitVec 16) × Byte × Nat) :=
  if level = 0 then (if b.accepted.isSome then some (chunkAt b.own x, b.scale, b.ownCount) else none)
  else if b.accepted1.isSome && !b.late1 then
    (b.chunks.find? (fun k => decide (k.1 = x) && decide (k.2.1.level = 0))).map
      (fun k => (k.2.2, k.2.1.scale, k.2.1.ncontrib.toNat))
  else none

/-- The module's own contribution added into a partial (R233, R235): c = partial, s = own. -/
def State.addOwn (s : State) (p : Nat) (b : Bucket) (level me x : Nat) (h : BucketHdr) (vals : List (BitVec 16)) :
    State × BucketHdr × List (BitVec 16) :=
  match b.ownAt level x with
  | none => (s, h, vals)
  | some (own, g, n) =>
    let s := if g = h.scale then s else s.countSat (aXch p 0x0C) 1
    let own := own.map (rescaleG16 g h.scale)
    let sum := (vals.zip own).map (fun q => (addG16 (underScale h.scale q.1) q.2).1)
    let bad := own.any (g16Bad h.scale) || sum.any (g16Bad h.scale)
    let h := { h with contrib := h.contrib ||| BitVec.ofNat 64 (2 ^ me), ncontrib := h.ncontrib + BitVec.ofNat 16 n, nf := h.nf || bad }
    (s.setStepNf p b.ctx bad, h, sum)

/-- A chunk completes at this module. -/
def Bucket.store (b : Bucket) (x : Nat) (h : BucketHdr) (vals : List (BitVec 16)) : Bucket :=
  let have_ := fun (l : List (Nat × BucketHdr × List (BitVec 16))) => l.any (fun k => decide (k.1 = x) && decide (k.2.1.level = h.level))
  if h.check then (if have_ b.checks then b else { b with checks := b.checks ++ [(x, h, vals)] })
  else if have_ b.chunks then b else { b with chunks := b.chunks ++ [(x, h, vals)] }

/-- A reduced sub-part of replicated parts goes round its ring again (R236). -/
def State.gatherOn (s : State) (p i : Nat) (b : Bucket) (r : RingPos) (x : Nat) (h : BucketHdr) (vals : List (BitVec 16)) :
    State :=
  let h2 := { h with level := 2, check := false }
  let s := s.modBucket p i (fun b => b.store x h2 vals)
  if r.next (r.cw false) = r.owner then s else s.sendChunk p b 2 r (r.cw false) h2 vals

/-- A partial reaches this module at level 0 or 1, its own decision made: it adds and passes on, or the chunk is
complete here (R235). -/
def State.passChunk (s : State) (p i level x : Nat) (h : BucketHdr) (vals : List (BitVec 16)) : State :=
  match s.bucket p i with
  | none => s
  | some b =>
    match s.ringPos b level x with
    | none => s
    | some r =>
      let (s, h, vals) := s.addOwn p b level r.me x h vals
      if r.me = r.owner then
        let s := s.modBucket p i (fun b => b.store x h vals)
        if level = 1 ∧ b.levels = 2 ∧ h.check = false then s.gatherOn p i b r x h vals else s
      else s.sendChunk p b level r (r.cw h.check) h vals

/-- The header of a chunk that starts here. -/
def State.newHdr (s : State) (p : Nat) (b : Bucket) (level x : Nat) (check : Bool) : BucketHdr :=
  let g := b.listOf level
  { tag := BitVec.ofNat 12 b.tag, cast := BitVec.ofNat 8 g, nf := (s.link p).stepNf.contains b.ctx, recomp := b.recomputed, check := check,
    level := BitVec.ofNat 2 level, step := s.stepOf p b.ctx, epoch := (s.cast g).epoch, scale := b.scale, ncontrib := 0,
    contrib := 0, count := b.count, chunk := x }

/-- A chunk starts at this module when it is the first of its ring: with its contribution, or with zeros (R235, R240). -/
def State.startChunk (s : State) (p i level x : Nat) (check : Bool) : State :=
  match s.bucket p i with
  | none => s
  | some b =>
    match s.ringPos b level x with
    | none => s
    | some r =>
      let cw := r.cw check
      if r.first cw ≠ r.me then s
      else
        let h := s.newHdr p b level x check
        let (h, vals) :=
          match b.ownAt level x with
          | some (own, g, n) =>
            ({ h with scale := g, contrib := BitVec.ofNat 64 (2 ^ r.me), ncontrib := BitVec.ofNat 16 n, nf := h.nf || own.any (g16Bad g) }, own)
          | none => (h, List.replicate 1024 0)
        if r.n ≤ 1 then
          let s := s.modBucket p i (fun b => b.store x h vals)
          if level = 1 ∧ b.levels = 2 ∧ check = false then s.gatherOn p i b r x h vals else s
        else s.sendChunk p b level r cw h vals

/-- The chunks of a level that this module may start: all of the bucket, or of its chain part. -/
def State.levelChunks (s : State) (b : Bucket) (level : Nat) : List Nat :=
  if level = 0 then List.range (b.count / 1024)
  else
    let per := s.partChunks b
    match s.memberOf b.cast with
    | some j => (List.range per).map (fun k => j * per + k)
    | none => []

/-- Start a level: every chunk on its ring, and the sampled ones, or all in a recompute, on both (R235, R247, R249). -/
def State.startLevel (s : State) (p i level : Nat) : State :=
  match s.bucket p i with
  | none => s
  | some b =>
    let step := s.stepOf p b.ctx
    (s.levelChunks b level).foldl (fun s x =>
      let s := s.startChunk p i level x false
      if b.recomputed || sampled b.tag step x then s.startChunk p i level x true else s) s

/-- Transfers held back for a level proceed (R239). -/
def State.freeHeld (s : State) (p i level : Nat) : State :=
  match s.bucket p i with
  | none => s
  | some b =>
    let go := b.heldIn.filter (fun t => decide (t.1.level.toNat = level))
    let s := s.modBucket p i (fun b => { b with heldIn := b.heldIn.filter (fun t => decide (t.1.level.toNat ≠ level)) })
    go.foldl (fun s t =>
      (List.range (t.2.length / 1024)).foldl (fun s k =>
        s.passChunk p i level (t.1.chunk + k) { t.1 with chunk := t.1.chunk + k } (chunkAt t.2 k)) s) s

/-- Completed chunks of a level, outside the second rings. -/
def Bucket.doneAt (b : Bucket) (level : Nat) : Nat := (b.chunks.filter (fun k => decide (k.2.1.level.toNat = level))).length

/-- Deadline of a list, ns. -/
def State.deadline (s : State) (g : Nat) : Nat := 1000 * (s.cast g).deadline

/-- A bucket keeps the deadlines and the policy that its lists have when it begins on them (R363). -/
def State.fixTerms (s : State) (p i : Nat) : State :=
  s.modBucket p i (fun b =>
    let known := fun (g : Nat) (d : Option Nat) => d.or (if g < 256 then some (s.deadline g) else none)
    { b with dl0 := known b.cast b.dl0, dl1 := known b.ecast b.dl1,
             carry := b.carry.or (if b.cast < 256 then some (s.cast b.cast).carry else none) })

/-- Deadline of a bucket at a level. -/
def Bucket.deadline (b : Bucket) (level : Nat) : Nat := (if level = 0 then b.dl0 else b.dl1).getD 0

/-- The chain part is complete and goes on to the Ethernet level (R236, R238). Its lateness there is counted. -/
def State.chainDone (s : State) (p i : Nat) : State :=
  match s.bucket p i with
  | none => s
  | some b =>
    if b.seen = false ∨ b.levels = 0 ∨ b.doneAt 0 < s.partChunks b ∨ b.accepted1.isSome = true then s
    else
      let now := s.clock.house
      let late := b.late1 || (!b.recomputed && (b.firstIn1.elim false (fun t => decide (t + b.deadline 1 < now))))
      let s := s.modBucket p i (fun b => { b with accepted1 := some now, late1 := late })
      let s := if late && !b.recomputed then (s.setStepLate p b.ctx).countSat (aXch p 0x04) 1 else s
      if b.late1 && !b.recomputed then s else (s.startLevel p i 1).freeHeld p i 1

/-- A level 0 decision has been made: the held transfers and the own chunks proceed (R239). -/
def State.proceed0 (s : State) (p i : Nat) : State := ((s.startLevel p i 0).freeHeld p i 0).chainDone p i

/-- A carry-area entry of n bytes: the lowest offset at which it fits (R240). -/
def State.carryRoom (s : State) (p c n : Nat) : Option Nat :=
  let size := s.xget p c 0x048 8
  let used := ((s.link p).carried.filter (fun e => decide (e.ctx = c))).map (fun e => (e.at_, 32 + 2 * e.count))
  (0 :: used.map (fun u => u.1 + u.2)).find? (fun o => decide (o + n ≤ size) && used.all (fun u => !(rangesMeet o n u.1 u.2)))

/-- A late contribution is carried or dropped (R240). -/
def State.carryOrDrop (s : State) (p c : Nat) (k : ReduceCmd) (carry : Bool) (g : Byte) (vals : List (BitVec 16)) : State :=
  match (if carry && !s.memFenced then s.carryRoom p c (32 + 2 * k.count) else none) with
  | some o =>
    let h : BucketHdr :=
      { tag := BitVec.ofNat 12 k.tag, cast := BitVec.ofNat 8 k.cast, nf := (s.link p).stepNf.contains c, recomp := false, check := false,
        level := 0, step := s.stepOf p c, epoch := (s.cast k.cast).epoch, scale := g, ncontrib := 1, contrib := 0,
        count := k.count, chunk := 0 }
    let e : Carried :=
      { ctx := c, tag := k.tag, tensor := k.tensor, count := k.count, soff := k.soff, step := s.stepOf p c, scale := g, at_ := o }
    let s := s.setLink p { s.link p with carried := (s.link p).carried ++ [e] }
    (s.writeMem (s.xget p c 0x040 8 + o) (hdrBytes h ++ g16Bytes vals)).xcount p c 0x014 1
  | none => s.xcount p c 0x018 1

/-- The entry carried from the step before that an LE_REDUCE picks up (R241). -/
def State.pickUp (s : State) (p c : Nat) (k : ReduceCmd) : Option Carried :=
  (s.link p).carried.find? (fun e => decide (e.ctx = c) && decide (e.tag = k.tag) && decide (e.tensor = k.tensor) &&
    decide (e.count = k.count) && decide (e.soff = k.soff) && decide (e.step ≠ s.stepOf p c))

/-- A bucket of which nothing is known yet but its tag and lists. -/
def Bucket.fresh (ctx tag cast ecast count : Nat) (scale : Byte) : Bucket :=
  { ctx := ctx, tag := tag, cast := cast, ecast := ecast, levels := 0, opt := 0, tensor := 0, src := 0, count := count,
    soff := 0, seen := false, accepted := none, accepted1 := none, firstIn0 := none, firstIn1 := none, dl0 := none, dl1 := none,
    carry := none, late0 := false,
    late1 := false, own := [], scale := scale, ownCount := 0, carriedIn := none, heldIn := [], chunks := [], checks := [],
    compared := [], disagreed := [], recomputed := false, doneSeq := none, landed := false, setFlag := none, bookoff := 0xFFFFFFFF,
    confirmed := false }

/-- The bucket of a tag that is not confirmed, at a list of a level; a bucket known by its other list alone matches. -/
def State.findBucket (s : State) (p c tag level g : Nat) : Option Nat :=
  let l := (s.link p).buckets
  (List.range l.length).find? (fun i =>
    match l[i]? with
    | some b => decide (b.ctx = c) && decide (b.tag = tag) && !b.confirmed &&
        (if level = 0 then decide (b.cast = g) || decide (b.cast = 256) else decide (b.ecast = g) || decide (b.ecast = 256))
    | none => false)

/-- Add a bucket at the end of the step's. -/
def State.addBucket (s : State) (p : Nat) (b : Bucket) : State × Nat :=
  let l := s.link p
  (s.setLink p { l with buckets := l.buckets ++ [b] }, l.buckets.length)

/-- An LE_REDUCE's values with the entry it picks up (R241). -/
def pickedUp (g : Byte) (vals : List (BitVec 16)) (e : Byte × List (BitVec 16)) : List (BitVec 16) :=
  (vals.zip e.2).map (fun q => (addG16 (underScale g q.1) (rescaleG16 e.1 g q.2)).1)

/-- Values of a carried entry. -/
def State.carriedVals (s : State) (p c : Nat) (e : Carried) : List (BitVec 16) :=
  g16Of e.count (s.memBytes (s.xget p c 0x040 8 + e.at_ + 32) (2 * e.count))

/-- Forget a carried entry. -/
def State.dropCarried (s : State) (p : Nat) (e : Carried) : State :=
  s.setLink p { s.link p with carried := (s.link p).carried.filter (fun x => decide (x ≠ e)) }

/-- A command of a link engine faults: it leaves its queue and does nothing. -/
def State.linkFault (s : State) (p : Nat) (q : QCmd) (reason addr : Nat) (detail : List Nat) : State :=
  s.sendFault reason p q.ctx 7 0xFF 1 q.bookoff addr detail

/-- LE_REDUCE starts with its source read (R230, R233, R238 to R241). -/
def State.startReduce (s : State) (p : Nat) (q : QCmd) (k : ReduceCmd) (raw : List (BitVec 16)) : State :=
  let c := q.ctx
  let now := s.clock.house
  let g : Byte := BitVec.ofNat 8 (s.xget p c 0x008 1)
  let s := s.setStepNf p c (raw.any (g16Bad g))
  let (s, i) :=
    match s.findBucket p c k.tag 0 k.cast with
    | some i => (s, i)
    | none => s.addBucket p (Bucket.fresh c k.tag k.cast k.ecast k.count g)
  let set := if q.head.set then some q.head.setFlag else none
  let s := s.modBucket p i (fun b =>
    { b with cast := k.cast, ecast := k.ecast, levels := k.levels, opt := k.opt, tensor := k.tensor, src := k.src,
             count := k.count, soff := k.soff, seen := true, scale := g, setFlag := set, bookoff := q.bookoff })
  let s := s.fixTerms p i
  let b := (s.bucket p i).getD (Bucket.fresh c k.tag k.cast k.ecast k.count g)
  let wasLate := b.late0
  let late := wasLate || b.firstIn0.elim false (fun t => decide (t + b.deadline 0 < now))
  let entry := s.pickUp p c k
  if late then
    -- an entry is never carried twice
    let s := match entry with | some e => (s.dropCarried p e).xcount p c 0x018 1 | none => s
    let carry := b.carry.getD false
    let s := (s.carryOrDrop p c k carry g raw).countSat (aXch p 0x04) 1
    -- the carry area lies behind a wing that may be fenced (R318, R329)
    let s := if carry && s.memFenced then s.linkFault p q fltFenced (s.xget p c 0x040 8) [] else s
    let s := s.setStepLate p c
    let s := match set with | some f => s.sendCrt linkNode (.flagSet p f) | none => s
    let s := s.modBucket p i (fun b => { b with late0 := true })
    if wasLate then s.chainDone p i else s.proceed0 p i
  else
    let add := entry.map (fun e => (e.scale, s.carriedVals p c e))
    let vals := match add with | some e => pickedUp g raw e | none => raw
    let s := match entry with | some e => s.dropCarried p e | none => s
    let s := (s.setStepNf p c (vals.any (g16Bad g))).modBucket p i (fun b =>
      { b with accepted := some now, own := vals, ownCount := if add.isSome then 2 else 1, carriedIn := add })
    s.proceed0 p i

/-- The head of queue k of the chain W engine, when it is ready: its opcode fits and its WAIT flag has been seen. -/
def State.linkHead (s : State) (p k op : Nat) : Option (QCmd × State) :=
  let l := s.link p
  match l.queue k with
  | [] => none
  | q :: rest =>
    if decide (q.head.opcode = op) && (q.waitOk || s.flagAt linkNode p q.head.waitFlag) then
      some (q, (s.setLink p (l.setQueue k rest)).testLinks p)
    else none

/-- A range read by a link engine: HBM or scratchpad, or the reason why not. -/
def State.engineRead (s : State) (a n : Nat) : State × Except Nat (List Byte) :=
  if a < spBase ∧ s.memFenced = true then (s, .error fltFenced)
  else
    match s.dsRead a n with
    | (s', some bs) => (s', .ok bs)
    | (s', none) => (s', .error fltEccUncorr)

/-- The level whose result lands, the first chunk of the part and its chunks (R226, R236). -/
def State.partOf (s : State) (b : Bucket) : Option (Nat × Nat × Nat) :=
  let per := s.partChunks b
  match s.memberOf b.cast with
  | none => none
  | some j =>
    if b.levels = 0 then some (0, j * per, per)
    else if b.levels = 2 then some (2, j * per, per)
    else
      match s.memberOf b.ecast with
      | some e =>
        let n := max 1 (s.castSize b.ecast)
        some (1, j * per + e * (per / n), per / n)
      | none => none

/-- The chunks of a part, all complete, in order. -/
def Bucket.partData (b : Bucket) (level first n : Nat) : Option (List (BucketHdr × List (BitVec 16))) :=
  let l := (List.range n).filterMap (fun k =>
    (b.chunks.find? (fun c => decide (c.1 = first + k) && decide (c.2.1.level.toNat = level))).map (·.2))
  if l.length = n then some l else none

/-- Bytes of a landed part in the ring: its header and its values. -/
def LandedPart.bytes (x : LandedPart) : Nat := 32 + 2 * x.elems

/-- The place of a part of n bytes in the landing ring: after the newest, or at its start (R237). -/
def State.landRoom (s : State) (p c n : Nat) : Option Nat :=
  let size := s.xget p c 0x038 8
  let used := ((s.link p).landing.filter (fun x => decide (x.ctx = c))).map (fun x => (x.at_, x.bytes))
  let after := used.getLast?.elim 0 (fun u => u.1 + u.2)
  [after, 0].find? (fun o => decide (o + n ≤ size) && used.all (fun u => !(rangesMeet o n u.1 u.2)))

/-- Parts that have become complete take their place in the order of completion (R237). -/
def State.noteDone (s : State) (p : Nat) : State :=
  (List.range (s.link p).buckets.length).foldl (fun s i =>
    match s.bucket p i with
    | some b =>
      let whole := match s.partOf b with | some (lv, first, n) => (b.partData lv first n).isSome | none => false
      if b.landed || b.doneSeq.isSome || !whole then s
      else
        let l := s.link p
        s.setLink p { l with buckets := listSet l.buckets i { b with doneSeq := some l.nextDone }, nextDone := l.nextDone + 1 }
    | none => s) s

/-- The bucket whose part is the next to land: the complete one that became so first (R237). -/
def State.nextToLand (s : State) (p : Nat) : Option Nat :=
  let l := (s.link p).buckets
  let open_ := fun (b : Bucket) => if b.landed then none else b.doneSeq
  (List.range l.length).find? (fun i =>
    match (l[i]?).bind open_ with
    | some n => l.all (fun b => (open_ b).all (fun m => decide (n ≤ m)))
    | none => false)

/-- The next part finds no room in its landing ring: the link engine waits (R237). -/
def State.landingStuck (s : State) (p : Nat) : Bool :=
  match s.nextToLand p with
  | some i =>
    match s.bucket p i with
    | some b =>
      (match s.partOf b with | some (_, _, n) => (s.landRoom p b.ctx (32 + 2048 * n)).isNone | none => false)
    | none => false
  | none => false

/-- LE_REDUCE (R227 to R230). -/
def execLeReduce (p : Fin 4) (s : State) : Out :=
  match s.linkHead p 1 0x31 with
  | none => idle s
  | some (q, s') =>
    let k := reduceCmd q.words
    match s.reduceCheck p q.ctx k with
    | some r => .next (s'.linkFault p q r (if r = fltRange ∨ r = fltAlign then k.src else 0) [])
    | none =>
      if 256 ≤ (s.links.foldl (fun n kv => n + (kv.2.buckets.filter Bucket.inFlight).length) 0) then idle s
      else
        match s'.engineRead k.src (2 * k.count) with
        | (s2, .error r) => .next (s2.linkFault p q r k.src [])
        | (s2, .ok bs) => .next ((s2.startReduce p q k (g16Of k.count bs)).noteDone p)

/-- A level's decision about the own contribution has been made (R239). -/
def Bucket.decided (b : Bucket) (level : Nat) : Bool :=
  if level = 0 then b.accepted.isSome || b.late0 else b.accepted1.isSome || b.late1

/-- A transfer of replicated parts: stored, and passed on until it has gone round (R236). -/
def State.gatherArrive (s : State) (p i x : Nat) (h : BucketHdr) (vals : List (BitVec 16)) : State :=
  match s.bucket p i with
  | none => s
  | some b =>
    match s.ringPos b 1 x with
    | none => s
    | some r =>
      let s := s.modBucket p i (fun b => b.store x h vals)
      let cw := r.cw false
      if r.next cw = r.owner then s else s.sendChunk p b 2 r cw h vals

/-- A transfer that arrived at house time at_ joins its bucket (R231, R232, R238, R239): a stale epoch is discarded and
counted; one of a recompute waits in its bucket for the RECOMP (R249). -/
def State.joinTransfer (s : State) (p ctx at_ : Nat) (h : BucketHdr) (data : List (BitVec 16)) : State :=
  let g := h.cast.toNat
  let level := h.level.toNat
  if h.epoch ≠ (s.cast g).epoch then s.countSat (aXch p 0x08) 1
  else if h.step ≠ s.stepOf p ctx ∨ level = 3 then s
  else
    let s := s.setStepNf p ctx h.nf
    let (s, i) :=
      match s.findBucket p ctx h.tag.toNat (if level = 0 then 0 else 1) g with
      | some i => (s, i)
      | none => s.addBucket p (Bucket.fresh ctx h.tag.toNat (if level = 0 then g else 256) (if level = 0 then 256 else g) h.count h.scale)
    let s := s.modBucket p i (fun b =>
      if level = 0 then { b with cast := g, firstIn0 := b.firstIn0.or (some at_) }
      else { b with ecast := g, firstIn1 := if level = 1 then b.firstIn1.or (some at_) else b.firstIn1 })
    let s := s.fixTerms p i
    match s.bucket p i with
    | none => s
    | some b =>
      let each := fun (f : State → Nat → BucketHdr → List (BitVec 16) → State) =>
        (List.range (data.length / 1024)).foldl (fun s k => f s (h.chunk + k) { h with chunk := h.chunk + k } (chunkAt data k)) s
      if level = 2 then (each (fun s x h v => s.gatherArrive p i x h v)).noteDone p
      else if b.decided level && (b.recomputed || !h.recomp) then
        let s := each (fun s x h v => s.passChunk p i level x h v)
        (if level = 0 then s.chainDone p i else s).noteDone p
      else s.modBucket p i (fun b => { b with heldIn := b.heldIn ++ [(h, data)] })

/-- A transfer waits while its step is ahead of the receiver's (R232), and behind a part that has no room to land (R237). -/
def State.transferWaits (s : State) (p ctx : Nat) (h : BucketHdr) : Bool :=
  decide (h.epoch = (s.cast h.cast.toNat).epoch) && (decide ((s.stepOf p ctx).toNat < h.step.toNat) || s.landingStuck p)

/-- The waiting transfers, in the order of their arrival: each joins its bucket or goes on waiting. -/
def State.takeWaiting (s : State) (p : Nat) : State :=
  let w := (s.link p).waiting
  w.foldl (fun s x =>
    if s.transferWaits p x.1 x.2.2.1 then s.setLink p { s.link p with waiting := (s.link p).waiting ++ [x] }
    else s.joinTransfer p x.1 x.2.1 x.2.2.1 x.2.2.2) (s.setLink p { s.link p with waiting := [] })

/-- BUCKET_TRANSFER_ARRIVAL (R231, R232, R237 to R239): the transfer takes its place behind those that wait, and what can join
its bucket does. -/
def execBucketTransferArrival (p : Fin 4) (ctx : Fin 16) (h : BucketHdr) (data : List (BitVec 16)) (s : State) : Out :=
  let l := s.link p
  .next ((s.setLink p { l with waiting := l.waiting ++ [(ctx.val, s.clock.house, h, data)] }).takeWaiting p)

/-- BUCKET_DEADLINE (R238, R239): T_f + D has passed without the own contribution: it is late. -/
def execBucketDeadline (p : Fin 4) (i : Nat) (level : Fin 2) (s : State) : Out :=
  match s.bucket p i with
  | none => idle s
  | some b =>
    let first := if level.val = 0 then b.firstIn0 else b.firstIn1
    let isLate := first.elim false (fun t => decide (t + b.deadline level < s.clock.house))
    if isLate && !(b.decided level) && !b.confirmed then
      let s := s.setStepLate p b.ctx
      if level.val = 0 then
        let g : Byte := if b.seen then b.scale else BitVec.ofNat 8 (s.xget p b.ctx 0x008 1)
        .next (((s.modBucket p i (fun b => { b with late0 := true, scale := g })).proceed0 p i).noteDone p)
      else .next ((((s.modBucket p i (fun b => { b with late1 := true })).startLevel p i 1).freeHeld p i 1).noteDone p)
    else idle s

/-- PART_LANDING (R237): the next complete part is written to the landing ring with its header, and the transfers that
waited behind it go on; without room it waits. A fenced wing refuses the write (R318, R329). -/
def execPartLanding (p : Fin 4) (i : Nat) (s : State) : Out :=
  match s.bucket p i with
  | none => idle s
  | some b =>
    match (if s.nextToLand p = some i then s.partOf b else none) with
    | none => idle s
    | some (level, first, n) =>
      match b.partData level first n with
      | none => idle s
      | some l =>
        match l.head?, s.landRoom p b.ctx (32 + 2048 * n) with
        | some (h, _), some o =>
          if s.memFenced then
            .next (s.sendFault fltFenced p b.ctx 7 0xFF 1 b.bookoff (s.xget p b.ctx 0x030 8 + o) [])
          else
          let h := { h with nf := l.any (fun x => x.1.nf), chunk := first, check := false }
          let part : LandedPart :=
            { ctx := b.ctx, bucket := i, hdr := h, first := 1024 * first, elems := 1024 * n, at_ := o, doneBy := 0 }
          let vals := (l.map (·.2)).flatten
          let s := s.writeMem (s.xget p b.ctx 0x030 8 + o) (hdrBytes h ++ g16Bytes vals)
          let s := s.modBucket p i (fun b => { b with landed := true })
          .next ((s.setLink p { s.link p with landing := (s.link p).landing ++ [part] }).takeWaiting p)
        | _, _ => idle s

/-- DATA of EVT_CHECK_MISMATCH: list, tag, step, chunk from the low bit up. -/
def mismatchData (cast tag step chunk : Nat) : Nat := cast + 256 * tag + 2 ^ 20 * step + 2 ^ 52 * chunk

/-- The RECOMP of a bucket to the other members of its lists (R249). The spec gives it no layout: it goes as the bucket's
header with RECOMP set and no chunk, the way transfers go (DESIGN CHOICE, entry 184). -/
def State.sendRecomp (s : State) (p : Nat) (b : Bucket) : State :=
  let to_ := fun (s : State) (g level : Nat) =>
    let h := { s.newHdr p b level 0 false with recomp := true }
    let me := s.memberOf g
    (List.range (s.castSize g)).foldl (fun s i => if some i = me then s else s.sendMember g i 5 (hdrBytes h)) s
  let s := to_ s b.cast 0
  if b.levels = 0 then s else to_ s b.ecast 1

/-- The two results of a chunk, at each level at which both are here and not yet compared. -/
def Bucket.toCompare (b : Bucket) (chunk : Nat) : List (BucketHdr × List (BitVec 16) × List (BitVec 16)) :=
  b.chunks.filterMap (fun x =>
    if x.1 = chunk ∧ b.compared.contains (chunk, x.2.1.level.toNat) = false then
      (b.checks.find? (fun y => decide (y.1 = chunk) && decide (y.2.1.level = x.2.1.level))).map (fun y => (x.2.1, x.2.2, y.2.2))
    else none)

/-- SAMPLED_CHUNK_COMPARE (R248 to R250): the owner compares the two results of a chunk, level by level; the first that
disagrees makes it send RECOMP, one of a recompute has the step skipped. -/
def execSampledChunkCompare (p : Fin 4) (i : Nat) (chunk : Nat) (s : State) : Out :=
  match s.bucket p i with
  | none => idle s
  | some b =>
    match b.toCompare chunk with
    | [] => idle s
    | (h, v, w) :: _ =>
      let level := h.level.toNat
      let ok := (v.zip w).all (fun q => g16Agree (underScale h.scale q.1) (underScale h.scale q.2))
      let s := (s.countSat (aXch p 0x10) 1).modBucket p i (fun b =>
        { b with compared := b.compared ++ [(chunk, level)], disagreed := if ok then b.disagreed else b.disagreed ++ [(chunk, level)] })
      if ok then .next s
      else
        let s := s.countSat (aXch p 0x14) 1
        let s := s.logEvent 0x0040 (whereOf p b.ctx 0 7) (mismatchData (b.listOf level) b.tag (s.stepOf p b.ctx).toNat chunk)
        .next (if b.recomputed then s.setLink p { s.link p with stepCheck := addCtx (s.link p).stepCheck b.ctx }
               else if b.disagreed.isEmpty then s.sendRecomp p b else s)

/-- RECOMP (R249): an owner's RECOMP reaches this module, or it is the owner itself: the source is read again and the
bucket is reduced once more, every chunk on both rings. At most once for a bucket (R250). -/
def execRecomp (p : Fin 4) (i : Nat) (s : State) : Out :=
  match s.bucket p i with
  | none => idle s
  | some b =>
    if b.recomputed || b.confirmed then idle s
    else
      let (s, r) := if b.accepted.isSome then s.engineRead b.src (2 * b.count) else (s, .ok [])
      match r with
      | .error e => .next (s.sendFault e p b.ctx 7 0xFF 1 b.bookoff b.src [])
      | .ok bs =>
        let raw := g16Of b.count bs
        let own := if b.accepted.isSome then (match b.carriedIn with | some e => pickedUp b.scale raw e | none => raw) else []
        let s := s.setLink p { s.link p with landing := (s.link p).landing.filter (fun x => !(decide (x.bucket = i) && decide (x.ctx = b.ctx))) }
        let s := s.modBucket p i (fun b =>
          { b with recomputed := true, accepted1 := none, own := own, chunks := [], checks := [], compared := [], disagreed := [],
                   doneSeq := none, landed := false })
        .next ((s.proceed0 p i).noteDone p)

/-- The chunks that this module owns and must compare: the sampled ones, or every one of a recompute (R247, R250). -/
def State.mustCompare (s : State) (p : Nat) (b : Bucket) : List (Nat × Nat) :=
  match s.partOf b with
  | some (level, first, n) =>
    let lv := if level = 2 then 1 else level
    ((List.range n).map (· + first)).filterMap (fun x =>
      let mine := match s.ringPos b lv x with | some r => decide (r.me = r.owner) | none => false
      if mine && (b.recomputed || sampled b.tag (s.stepOf p b.ctx) x) then some (x, lv) else none)
  | none => []

/-- Every one of them has been compared and agrees. -/
def State.checkedOk (s : State) (p : Nat) (b : Bucket) : Bool :=
  (s.mustCompare p b).all (fun k => b.compared.contains k) && b.disagreed.isEmpty

/-- BUCKET_CONFIRMED (R230): every owner has landed its part and compared its chunks; this module has done its share. A
recompute that disagreed ends the bucket too, and the step is skipped (R250). -/
def execBucketConfirmed (p : Fin 4) (i : Nat) (s : State) : Out :=
  match s.bucket p i with
  | none => idle s
  | some b =>
    let share := (b.landed || (s.partOf b).isNone || !b.seen) && s.checkedOk p b
    if !b.confirmed && (share || (b.recomputed && !b.disagreed.isEmpty)) && b.decided 0 then
      let s := s.modBucket p i (fun b => { b with confirmed := true })
      .next (State.commandDone (match b.accepted, b.setFlag with
        | some _, some k => s.sendCrt linkNode (.flagSet p k)
        | _, _ => s) p b.ctx)
    else idle s

end Sys2Proof.Machine
end

