-- ==== Sys2Proof/Machine/WingStep.lean ====
section
/-!
DEFINITION. Machine/WingStep.lean: the wing engines' updates of landed parts (R237, R245, R250 to R257), and the closing
of a step: LE_STEP, its curtain and the verdict (R244, R246).
-/
namespace Sys2Proof.Machine

/-- The reason, the word and whether a descriptor's algorithm can run on a part of cnt contributions (R251, R256): a part
of none runs no program (R253). -/
def State.algoBad (s : State) (p c cnt : Nat) (d : ODesc) : Option (Nat × Nat) :=
  if 3 < d.algo then some (fltOperandCase, 0)
  else if d.algo = 3 ∧ 0 < cnt then
    let a := s.xget p c 0x028 8 + 256 * d.prog
    let ws := (List.range 64).map (fun i => (BitVec.ofNat 32 (leNat (s.bytes (a + 4 * i) 4)) : Word))
    (progBad ws 0).map (fun w => (fltOpcode, w))
  else none

/-- The microprogram of a descriptor. -/
def State.progOf (s : State) (p c : Nat) (d : ODesc) : List Word :=
  let a := s.xget p c 0x028 8 + 256 * d.prog
  (List.range 64).map (fun i => (BitVec.ofNat 32 (leNat (s.bytes (a + 4 * i) 4)) : Word))

/-- ĝ = x × 2^(g − 127) ÷ n with one rounding (R253): the quotient kept with a sticky bit. Under a scale of 0xFF x is NaN
(R109). -/
def gradOf (x : BitVec 16) (g : Byte) (n : Nat) : Flagged :=
  match (fmtG16.decode (underScale g x).toNat).scale ((g.toNat : Int) - 127) with
  | .fin neg m e =>
    let q := m * 2 ^ 200 / n
    let rest := decide (m * 2 ^ 200 % n ≠ 0)
    step28 (.fin neg (2 * q + (if rest then 1 else 0)) (e - 201)) 0
  | y => step28 y 0

/-- One element's update (R253 to R256): weight high and low half, moments, flags. -/
def updateElem (d : ODesc) (prog : List Word) (t : Flagged) (draw : Nat → Nat) (h : BitVec 16) (l : Byte)
    (m v : BitVec 16) (g : Flagged) : BitVec 16 × Byte × BitVec 16 × BitVec 16 × StickyFlags :=
  let w := readSplit24 h l
  let w0 := step28 w.1 w.2
  let p := fun i => pure28 (bf16 (d.params.getD i 0))
  let r := if d.algo = 3 then microprogram prog w0 (pure28 (bf16 m)) (pure28 (bf16 v)) g p t
    else (builtin d.algo w0 (pure28 (bf16 m)) (pure28 (bf16 v)) g p t, 0)
  let sw := writeSplit24 (.sr (draw 0)) r.1.w.1
  let sm := fmtBF16.narrow false (.sr (draw 1)) r.1.m.1
  let sv := fmtBF16.narrow false (.sr (draw 2)) r.1.v.1
  (sw.1, sw.2.1, BitVec.ofNat 16 sm.1, BitVec.ofNat 16 sv.1,
    r.2 ||| r.1.w.2 ||| r.1.m.2 ||| r.1.v.2 ||| sw.2.2 ||| sm.2 ||| sv.2)

/-- The staging bytes of a square: 1,024 elements in the working copy's format and the scale, with the flags of the
narrowing and of the split-24 reading (R110, R253, Table 4.9). -/
def stageSquare (fmt : Nat) (ws : List (BitVec 16 × Byte)) : List Byte × Option Byte × StickyFlags :=
  let rd := ws.map (fun w => readSplit24 w.1 w.2)
  let vals := rd.map Prod.fst
  let f0 := rd.foldl (fun a r => a ||| r.2) 0
  if fmt = 8 then
    let r := vals.map (fun v => fmtBF16.narrow false .rne v)
    ((r.map (fun x => toLE 2 x.1)).flatten, none, f0 ||| orFlags r)
  else
    let r := narrowBlock (.fp fmtE4M3) (fun _ => .rne) vals
    (r.2.1.map (BitVec.ofNat 8), some r.1, f0 ||| r.2.2)

/-- Write a square's bytes row by row into a copy of n rows at a base (R225). -/
def State.putSquare (s : State) (fmt base n cols sq : Nat) (bs : List Byte) (sc : Option Byte) : State :=
  let per := max 1 (cols / 32)
  let w := if fmt = 8 then 2 else 1
  let s := (List.range 32).foldl (fun s r =>
    s.writeMem (base + w * (((sq / per) * 32 + r) * cols + (sq % per) * 32)) ((bs.drop (32 * w * r)).take (32 * w))) s
  match sc with
  | some x => s.writeMem (base + n * cols + sq) [x]
  | none => s

/-- Read n bytes and check them for an engine of the wings. -/
def State.planes (s : State) (base n e : Nat) : State × Option (List Byte × List Byte × List Byte × List Byte) :=
  let (s, h) := s.readMem (base + 2 * e) 2048
  let (s, l) := s.readMem (base + 2 * n + e) 1024
  let (s, m) := s.readMem (base + 3 * n + 2 * e) 2048
  let (s, v) := s.readMem (base + 5 * n + 2 * e) 2048
  match h, l, m, v with
  | some h, some l, some m, some v => (s, some (h, l, m, v))
  | _, _, _, _ => (s, none)

/-- The wing engine that updates element e of a shard: the one whose channel holds its state, found by its weight high half
(R253, R303). -/
def ownerOf (td : TDesc) (d : ODesc) (e : Nat) : Nat := ctlOf (td.stateBase + d.live * d.halfStride + 2 * e) - 12

/-- The bytes of a plane with an engine's elements replaced: w bytes for each of 1,024 elements. -/
def mergeOwn (own : Nat → Bool) (w : Nat) (old new : List Byte) : List Byte :=
  if (List.range 1024).all own then new
  else (List.range 1024).flatMap (fun k => ((if own k then new else old).drop (w * k)).take w)

/-- What may not be written by an update (R207): the half that is not live outside the context's DDR quota, a staging copy
outside its HBM quota, or a frozen tensor. -/
def State.updateBad (s : State) (p c : Nat) (d : ODesc) (td : TDesc) : Bool :=
  let x := s.ctx p c
  td.frozen || !(x.ddrOk (td.stateBase + (1 - d.live) * d.halfStride) (7 * d.nshard)) ||
    !(x.hbmOk d.stageBase (wcBytes td.fmt (d.nshard / max 1 td.cols) td.cols)) ||
    (s.tensors p c).any (fun t => t.frozen &&
      rangesMeet d.stageBase (wcBytes td.fmt (d.nshard / max 1 td.cols) td.cols) t.wcBase (wcBytes t.fmt (s.rowsHere p c t) t.cols))

/-- The elements of the square from shard-local element e that are wing engine we's are updated; once every engine with
elements in the square has done its own, the square is narrowed into the staging copy. False: a block is uncorrectable. -/
def State.applySquare (s : State) (p we : Nat) (part : LandedPart) (d : ODesc) (td : TDesc)
    (vals : List (BitVec 16)) (e : Nat) : State × Bool :=
  let c := part.ctx
  let n := d.nshard
  let live := td.stateBase + d.live * d.halfStride
  let other := td.stateBase + (1 - d.live) * d.halfStride
  let own := fun (k : Nat) => decide (ownerOf td d (e + k) = we)
  match s.planes live n e with
  | (s, none) => (s, false)
  | (s, some (hb, lb, mb, vb)) =>
    let hs := g16Of 1024 hb
    let ms := g16Of 1024 mb
    let vs := g16Of 1024 vb
    let step := s.stepOf p c
    let stream : Word := BitVec.ofNat 32 (0x57450000 + td.tensor)
    let key := (s.ctx p c).key
    let t := step28 (numNat (s.xget p c 0x004 4 + 1)) 0
    let prog := if d.algo = 3 then s.progOf p c d else []
    let cnt := part.hdr.ncontrib.toNat
    let res := (List.range 1024).map (fun k =>
      let h := hs.getD k 0
      let l := lb.getD k 0
      let m := ms.getD k 0
      let v := vs.getD k 0
      if cnt = 0 || !(own k) then (h, l, m, v, (0 : StickyFlags))
      else updateElem d prog t (fun j => srBits key stream step (4 * (e + k) + j)) h l m v (gradOf (vals.getD k 0) part.hdr.scale cnt))
    let put := fun (s : State) (off w : Nat) (new : List Byte) =>
      s.writeMem (other + off + w * e) (mergeOwn own w (s.memBytes (other + off + w * e) (1024 * w)) new)
    let s := put s 0 2 (g16Bytes (res.map (·.1)))
    let s := put s (2 * n) 1 (res.map (·.2.1))
    let s := put s (3 * n) 2 (g16Bytes (res.map (·.2.2.1)))
    let s := put s (5 * n) 2 (g16Bytes (res.map (·.2.2.2.1)))
    let whole := (List.range 1024).all (fun k => own k || part.doneBy.getLsbD (ownerOf td d (e + k)))
    let st := stageSquare td.fmt ((g16Of 1024 (s.memBytes (other + 2 * e) 2048)).zip (s.memBytes (other + 2 * n + e) 1024))
    let s := if whole then s.putSquare td.fmt d.stageBase (n / max 1 td.cols) td.cols (e / 1024) st.1 st.2.1 else s
    let f := res.foldl (fun a r => a ||| r.2.2.2.2) (if whole then st.2.2 else 0)
    let s := s.orReg (aMem (12 + we) 0x4004) (f.setWidth 32)
    let lo := (s.reg (aMem (12 + we) 0x4008)).toNat + 2 ^ 32 * (s.reg (aMem (12 + we) 0x400C)).toNat +
      (if cnt = 0 then 0 else ((List.range 1024).filter own).length)
    let s := (s.setReg (aMem (12 + we) 0x4008) (BitVec.ofNat 32 lo)).setReg (aMem (12 + we) 0x400C) (BitVec.ofNat 32 (lo / 2 ^ 32))
    (s.setStepNf p c (f.getLsbD 4), true)

/-- The squares of a part in which wing engine we has elements (R253): a square's 2,048 bytes of weight high halves lie in one
4,096-byte block of a channel, or in two. -/
def wingSquares (we : Nat) (part : LandedPart) (soff : Nat) (d : ODesc) (td : TDesc) : List Nat :=
  (List.range (part.elems / 1024)).filter (fun k =>
    let e := soff + 1024 * k
    decide (ownerOf td d e = we) || decide (ownerOf td d (e + 1023) = we))

/-- Apply squares one after another; the first that cannot be read ends it. -/
def State.applySquares (s : State) (p we : Nat) (part : LandedPart) (b : Bucket) (d : ODesc) (td : TDesc)
    (vals : List (BitVec 16)) : List Nat → State × Option Nat
  | [] => (s, none)
  | k :: ks =>
    match s.applySquare p we part d td (chunkAt vals k) (b.soff + 1024 * k) with
    | (s', true) => s'.applySquares p we part b d td vals ks
    | (s', false) => (s', some (td.stateBase + d.live * d.halfStride + 2 * (b.soff + 1024 * k)))

/-- Change landed part i, or take it out once all eight engines are done with it (R237). -/
def State.partDone (s : State) (p i we opt : Nat) (x : LandedPart) : State :=
  let l := s.link p
  let x := { x with doneBy := x.doneBy ||| BitVec.ofNat 8 (2 ^ we) }
  let upd := if l.updated.contains (x.ctx, opt) then l.updated else l.updated ++ [(x.ctx, opt)]
  s.setLink p { l with updated := upd, landing := if x.doneBy = 0xFF then listDrop l.landing i else listSet l.landing i x }

/-- A write into a pinned half waits (R435). -/
def State.pinnedHalf (s : State) (p c opt half : Nat) : Bool :=
  s.inter.pinned && decide (s.inter.part = p) && decide (s.inter.ctx = c) && decide (s.inter.pinHalves[opt]? = some half)

/-- A part that is not applied: NF in its header or a non-finite element (R245). -/
def partRefused (x : LandedPart) (vals : List (BitVec 16)) : Bool := x.hdr.nf || vals.any (g16Bad x.hdr.scale)

/-- A part is being applied, or the last one was (DDR_WESTAT, Table 8.12). -/
def State.setWestat (s : State) (we ctx opt : Nat) (busy : Bool) : State :=
  s.setReg (aMem (12 + we) 0x4000) (wordOf [(b2n busy, 31, 31), (ctx, 15, 12), (opt, 11, 0)])

/-- WING_APPLY_PART (R237, R245, R250 to R257): wing engine we updates its elements of landed part i. One whose write waits for
a pinned half is under way until the half is free (R435); a fenced wing refuses it (R318, R329). -/
def execWingApplyPart (we : Fin 8) (p : Fin 4) (i : Nat) (s : State) : Out :=
  let l := s.link p
  match l.landing[i]? with
  | none => idle s
  | some x =>
    match l.buckets[x.bucket]? with
    | none => idle s
    | some b =>
      match s.odesc p x.ctx b.opt, s.tensor p x.ctx b.tensor with
      | some d, some td =>
        let at_ := s.xget p x.ctx 0x030 8 + x.at_
        let fault := fun (s : State) (r a : Nat) (more : List Nat) =>
          s.sendFault r p x.ctx 8 0xFF we b.bookoff a ([b.opt % 256, b.opt / 256] ++ more)
        if b.seen = false ∨ b.decided 0 = false ∨ s.checkedOk p b = false ∨ x.doneBy.getLsbD we = true then idle s
        else if s.memFenced then .next (fault s fltFenced at_ [])
        else if s.pinnedHalf p x.ctx b.opt (1 - d.live) then .next (s.setWestat we x.ctx b.opt true)
        else
          match s.readMem (at_ + 32) (2 * x.elems) with
          | (s', none) => .next (fault s' fltEccUncorr at_ [])
          | (s', some bs) =>
            let vals := g16Of x.elems bs
            if partRefused x vals then
              .next (s'.setLink p { s'.link p with landing := listDrop (s'.link p).landing i })
            else if s'.updateBad p x.ctx d td then
              .next ((fault s' fltRange td.stateBase []).partDone p i we b.opt x)
            else
              match s'.algoBad p x.ctx x.hdr.ncontrib.toNat d with
              | some (r, w) => .next ((fault s' r 0 [d.prog, w]).partDone p i we b.opt x)
              | none =>
                let s' := s'.setWestat we x.ctx b.opt false
                match s'.applySquares p we x b d td vals (wingSquares we x b.soff d td) with
                | (s2, none) => .next (s2.partDone p i we b.opt x)
                | (s2, some a) => .next (fault s2 fltEccUncorr a [])
      | _, _ => idle s

/-- LE_STEP's fields (R244). -/
def stepCurt (ws : List Word) : Nat := fld (cword ws 1) 31 28
def stepCast (ws : List Word) : Nat := fld (cword ws 1) 27 20

/-- Entries carried into the step that no LE_REDUCE picked up are dropped and counted (R241). -/
def State.dropUnpicked (s : State) (p c : Nat) : State :=
  let l := s.link p
  let step := s.stepOf p c
  let gone := fun (e : Carried) => decide (e.ctx = c) && decide (e.step ≠ step)
  (s.setLink p { l with carried := l.carried.filter (fun e => !(gone e)) }).xcount p c 0x018 (l.carried.filter gone).length

/-- LE_STEP (R244). -/
def execLeStep (p : Fin 4) (s : State) : Out :=
  match s.linkHead p 1 0x32 with
  | none => idle s
  | some (q, s') =>
    let c := q.ctx
    let k := stepCurt q.words
    let bad := firstOf [((s.ctx p c).dress, fltEngineAbsent), (decide ((s.curtain p k).count = 0), fltRange),
      (!(s.epochOk p c (stepCast q.words)), fltEpoch)]
    match bad with
    | some r => .next (s'.linkFault p q r 0 [])
    | none =>
      if (s.link p).step.isSome then idle s
      else
        let st : StepClose :=
          { ctx := c, curt := k, cast := stepCast q.words, arrived := false,
            setFlag := if q.head.set then some q.head.setFlag else none, released := none }
        .next ((s'.dropUnpicked p c).setLink p { (s'.dropUnpicked p c).link p with step := some st, stepBook := q.bookoff })

/-- The payload of the step curtain of a context (Table 8.5). -/
def LinkEng.payload (l : LinkEng) (c : Nat) : Byte :=
  BitVec.ofNat 8 (b2n (l.stepNf.contains c) + 2 * b2n (l.stepCheck.contains c) + 4 * b2n (l.stepLate.contains c))

/-- What holds the arrival back (R244): a bucket that is not confirmed, a part that is not applied. A part whose bucket
had no LE_REDUCE of this module has no descriptor and is not waited for, nor is one whose recompute disagreed (R250). -/
def State.stepOpen (s : State) (p c : Nat) : Bool :=
  let l := s.link p
  l.buckets.any (fun b => decide (b.ctx = c) && !b.confirmed) ||
    l.landing.any (fun x => decide (x.ctx = c) && ((l.buckets[x.bucket]?).elim false (fun b => b.seen && !(b.recomputed && !b.disagreed.isEmpty))))

/-- STEP_CURTAIN_ARRIVAL (R244). -/
def execStepCurtainArrival (p : Fin 4) (s : State) : Out :=
  let l := s.link p
  match l.step with
  | some st =>
    if st.arrived || s.stepOpen p st.ctx || decide ((s.ctx p st.ctx).st = 6) then idle s
    else
      .next ((s.setLink p { l with step := some { st with arrived := true } }).sendCrt linkNode
        (.arrive p st.curt (l.payload st.ctx) st.ctx 7 1))
  | none => idle s

/-- A staging copy becomes the working copy and the tensor's stamp the step's number (R246, R212). A working copy outside the
context's quota, or of a frozen tensor, is not written (R207). -/
def State.commitCopy (s : State) (p c : Nat) (step : Word) (opt : Nat) : State :=
  match s.odesc p c opt with
  | none => s
  | some d =>
    match s.tensor p c d.tensor with
    | none => s
    | some td =>
      let n := wcBytes td.fmt (d.nshard / max 1 td.cols) td.cols
      if td.frozen || !((s.ctx p c).hbmOk td.wcBase n) then
        s.sendFault fltRange p c 8 0xFF 0 0xFFFFFFFF td.wcBase [opt % 256, opt / 256]
      else (s.writeMem td.wcBase (s.memBytes d.stageBase n)).xput p c (0x500 + 4 * d.tensor) 4 step.toNat

/-- LIVE of a descriptor flips. -/
def State.flipLive (s : State) (p c opt : Nat) : State :=
  match s.odesc p c opt with
  | some d => s.writeMem (d.addr + 1) [(s.byte (d.addr + 1)) ^^^ 1]
  | none => s

/-- Table 8.6, the row of a sound step. -/
def State.verdictOk (s : State) (p c : Nat) : State :=
  let step := s.stepOf p c
  let upd := ((s.link p).updated.filter (fun x => decide (x.1 = c))).map Prod.snd
  let s := upd.foldl (fun s o => s.flipLive p c o) s
  let s := upd.foldl (fun s o => s.commitCopy p c step o) s
  let s := (s.xput p c 0x000 4 (step + 1).toNat).xcount p c 0x004 1
  let g := s.xget p c 0x008 1
  let gmin := s.xget p c 0x009 1
  let grow := s.xget p c 0x00A 2
  let clean := s.xget p c 0x00C 2
  if grow ≠ 0 ∧ grow ≤ clean + 1 ∧ gmin < g then (s.xput p c 0x008 1 (g - 1)).xput p c 0x00C 2 0
  else if clean < 65535 then s.xput p c 0x00C 2 (clean + 1)
  else
    -- one more than CLEAN holds: a free value (entry 4)
    let (s, ws) := s.freeWords 1
    s.xput p c 0x00C 2 ((ws.getD 0 0).toNat % 65536)

/-- Table 8.6, the rows of a skipped step. -/
def State.verdictSkip (s : State) (p c : Nat) (nf : Bool) : State :=
  let step := s.stepOf p c
  let s := s.xput p c 0x000 4 (step + 1).toNat
  let g := s.xget p c 0x008 1
  let s := if nf then s.xput p c 0x008 1 (min 254 (g + 1)) else s
  let s := (s.xput p c 0x00C 2 0).xcount p c 0x010 1
  s.setLink p { s.link p with carried := (s.link p).carried.filter (fun e => decide (e.ctx ≠ c)) }

/-- The step of a context is over in the link engine: its payload bits and the descriptors updated. -/
def LinkEng.endStep (l : LinkEng) (c : Nat) : LinkEng :=
  { l with step := none, stepNf := l.stepNf.erase c, stepCheck := l.stepCheck.erase c, stepLate := l.stepLate.erase c,
           updated := l.updated.filter (fun x => decide (x.1 ≠ c)) }

/-- STEP_VERDICT (R246): the release's actions are done, LE_STEP completes, the step's buckets are over, and the transfers
that waited for the next step join theirs (R232). -/
def execStepVerdict (p : Fin 4) (s : State) : Out :=
  match (s.link p).step with
  | some st =>
    match st.released with
    | some pay =>
      let c := st.ctx
      let old := s.stepOf p c
      let s := s.setReg (aXch p 0x18) old
      let s := if pay.getLsbD 0 || pay.getLsbD 1 then s.verdictSkip p c (pay.getLsbD 0) else s.verdictOk p c
      let s := s.xput p c 0x00E 1 pay.toNat
      let s := (s.setLink p (((s.link p).dropBuckets c).endStep c)).takeWaiting p
      .next (State.commandDone (match st.setFlag with | some k => s.sendCrt linkNode (.flagSet p k) | none => s) p c)
    | none => idle s
  | none => idle s

end Sys2Proof.Machine
end

