-- ==== Sys2Proof/Machine/Gathers.lean ====
section
/-!
DEFINITION. Machine/Gathers.lean: gathered shards: LE_GATHER, the shards that arrive, their stamps and their widening
(R209 to R215).
-/
namespace Sys2Proof.Machine

/-- LE_GATHER's fields (Table 7.4). -/
structure GatherCmd where
  gid : Nat
  mode : Nat
  wire : Nat
  land : Nat
  cast : Nat
  tensor : Nat
  shards : Nat
  dest : Nat
  len : Nat
deriving DecidableEq, Repr

def gatherCmd (ws : List Word) : GatherCmd :=
  { gid := fld (cword ws 1) 31 24, mode := fld (cword ws 1) 23 22, wire := fld (cword ws 1) 21 18, land := fld (cword ws 1) 17 14,
    cast := fld (cword ws 1) 13 6, tensor := fld (cword ws 2) 31 16, shards := fld (cword ws 2) 15 8,
    dest := (cword ws 3).toNat + 2 ^ 32 * fld (cword ws 4) 15 0, len := (cword ws 5).toNat }

/-- The checks of LE_GATHER (R210, R219, R228). -/
def State.gatherCheck (s : State) (p c : Nat) (k : GatherCmd) : Option Nat :=
  let x := s.ctx p c
  let n := k.shards * k.len
  let pairs : List (Nat × Nat) := [(0, 0), (0, 8), (4, 0), (4, 4), (4, 8)]
  firstOf [
    (!(pairs.contains (k.wire, k.land)) || (x.dress && decide (k.mode ≠ 0)), fltOperandCase),
    (decide (64 < k.shards) || decide (s.castSize k.cast < k.shards), fltShape),
    (decide (k.dest % 256 ≠ 0) || decide (k.len % 256 ≠ 0), fltAlign),
    (decide (0 < n) && ((!(x.hbmOk k.dest n) && !(s.spWindowOk p c k.dest n)) || s.readOnly p c k.dest n), fltRange),
    (!(s.epochOk p c k.cast), fltEpoch)]

/-- A shard record (Table 7.5): tensor, whether recorded, stamp. -/
def State.shardRecord (s : State) (p c gid : Nat) : Nat × Bool × Nat :=
  match (s.ctx p c).book with
  | some b =>
    let a := b.shardRec + 8 * gid
    (leNat (s.bytes a 2), decide (leNat (s.bytes (a + 2) 1) = 1), leNat (s.bytes (a + 4) 4))
  | none => (0, false, 0)

def State.putShardRecord (s : State) (p c gid tensor shards stamp : Nat) : State :=
  match (s.ctx p c).book with
  | some b => s.writeMem (b.shardRec + 8 * gid) (toLE 2 tensor ++ toLE 1 1 ++ toLE 1 shards ++ toLE 4 stamp)
  | none => s

/-- The record of MODE 3 becomes empty when its command completes (R214). -/
def State.emptyRecord (s : State) (p c gid : Nat) : State :=
  match (s.ctx p c).book with
  | some b => s.writeMem (b.shardRec + 8 * gid + 2) [0]
  | none => s

/-- Elements of a shard as landed, from its wire form (R211, Table 4.9). -/
def landShard (wire land cols : Nat) (data scales : List Byte) : List Byte :=
  let per := max 1 (cols / 32)
  let n := if wire = 4 then 2 * data.length else data.length
  let codes := elemCodes wire data n
  let scaleAt := fun (i : Nat) => scales.getD ((i / max 1 cols / 32) * per + (i % max 1 cols) / 32) 127
  if land = 8 then
    ((codes.zip (List.range n)).map (fun q => toLE 2 (toBf16 (scaled (scaleAt q.2) (elemValue wire q.1))).1.toNat)).flatten
  else if wire = 4 ∧ land = 0 then codes.map (fun c => BitVec.ofNat 8 (widenE2M1 c)) ++ scales
  else data ++ scales

/-- The element at row r and column k of a working copy of n rows, as a value (R225): under its square's scale. -/
def wcValue (fmt n cols : Nat) (bs : List Byte) (r k : Nat) : Num :=
  let i := r * cols + k
  if fmt = 8 then bf16 (BitVec.ofNat 16 (leNat ((bs.drop (2 * i)).take 2)))
  else
    let byte := ((bs.drop (if fmt = 4 then i / 2 else i)).headD 0).toNat
    let code := if fmt = 4 then (if i % 2 = 0 then byte % 16 else byte / 16) else byte
    scaled ((bs.drop (wcData fmt n cols)).getD ((r / 32) * max 1 (cols / 32) + k / 32) 127) (elemValue fmt code)

/-- A working copy square by square in an MX format: data and scales (R107, R211, R225). -/
def squaresAs (wire fmt n cols : Nat) (bs : List Byte) : List Byte × List Byte :=
  let per := max 1 (cols / 32)
  let sq := (List.range (n / 32 * per)).map (fun q =>
    narrowBlock (.fp (if wire = 4 then fmtE2M1 else fmtE4M3)) (fun _ => .rne) ((List.range 1024).map (fun e =>
      wcValue fmt n cols bs ((q / per) * 32 + e / 32) ((q % per) * 32 + e % 32))))
  let at_ := fun (r k : Nat) => ((sq.getD ((r / 32) * per + k / 32) (0, [], 0)).2.1).getD ((r % 32) * 32 + k % 32) 0
  (packBytes wire ((List.range n).map (fun r => (List.range cols).map (at_ r))).flatten, sq.map (·.1))

/-- A working copy in the wire format (R211): as it is when it has that format, an E2M1 copy widened with its scales copied
(Table 4.9), any other narrowed square by square (R107). -/
def wireShard (wire fmt n cols : Nat) (bs : List Byte) : List Byte × List Byte :=
  let m := wcData fmt n cols
  if fmt = wire then (bs.take m, bs.drop m)
  else if fmt = 4 then
    ((elemCodes 4 (bs.take m) (2 * m)).map (fun c => BitVec.ofNat 8 (widenE2M1 c)), bs.drop m)
  else squaresAs wire fmt n cols bs

/-- The context whose record keeps the stamp of a tensor's copy (R212): a dress run reads its parent's copies (R218). -/
def State.stampCtx (s : State) (p c : Nat) : Nat := if (s.ctx p c).dress then (s.ctx p c).parent else c

/-- The stamp and the bytes of this module's own shard of a tensor, in the wire format (R211, R212), or the reason why it cannot
be read. -/
def State.ownShard (s : State) (p c : Nat) (wire : Nat) (d : TDesc) : State × Except Nat (Nat × List Byte × List Byte) :=
  let rows := s.rowsHere p c d
  let stamp := s.xget p (s.stampCtx p c) (0x500 + 4 * d.tensor) 4
  match s.engineRead d.wcBase (wcBytes d.fmt rows d.cols) with
  | (s, .error e) => (s, .error e)
  | (s, .ok bs) => (s, .ok (stamp, wireShard wire d.fmt rows d.cols bs))

/-- Change gather i of a partition. -/
def State.setGather (s : State) (p i : Nat) (g : Gather) : State :=
  let l := s.link p
  s.setLink p { l with gathers := listSet l.gathers i g }

/-- A gather whose shards have all landed completes (R209, R214); one that has been discarded ends without its flag. -/
def State.gatherEnd (s : State) (p i : Nat) (g : Gather) : State :=
  let k := gatherCmd g.words
  let h := cmdHead (cword g.words 0)
  if g.arrived.length < k.shards then (if g.dead then (s.setGather p i g).commandDone p g.ctx else s.setGather p i g)
  else
    let l := s.link p
    let s := s.setLink p { l with gathers := listDrop l.gathers i }
    if g.dead then s.commandDone p g.ctx
    else
      let s := if k.mode = 3 then s.emptyRecord p g.ctx k.gid else s
      State.commandDone (if h.set then s.sendCrt linkNode (.flagSet p h.setFlag) else s) p g.ctx

/-- The sender's address in DETAIL (Table 9.14). -/
def senderOf (c : CastList) (member : Nat) : Nat := if c.ethernet then 0x8000 + member else c.members.getD member 0 % 64

/-- The stamp a gather compares with: the record's, or its own first shard's (R214); none: no comparison. -/
def State.wantedStamp (s : State) (p : Nat) (g : Gather) (k : GatherCmd) (tensor : Nat) : Option (Bool × Nat) :=
  if k.mode = 0 then none
  else if k.mode = 1 then g.firstStamp.map (fun x => (true, x.toNat))
  else
    let r := s.shardRecord p g.ctx k.gid
    if r.2.1 then some (decide (r.1 = tensor), r.2.2) else some (false, 0xFFFFFFFF)

/-- One shard joins gather i (R211, R214). -/
def State.takeShard (s : State) (p i : Nat) (g : Gather) (m : ShardMsg) : State :=
  let k := gatherCmd g.words
  let g' := { g with arrived := g.arrived ++ [m.member] }
  if g.dead then s.gatherEnd p i g'
  else
    let want := s.wantedStamp p g k m.tensor
    let bad := match want with | some (ok, st) => !ok || decide (st ≠ m.stamp.toNat) | none => false
    if bad then
      let rec_ := (want.map Prod.snd).getD 0xFFFFFFFF
      let detail := (([k.gid, 0] ++ (toLE 2 m.tensor).map BitVec.toNat) ++ (toLE 4 rec_).map BitVec.toNat) ++
        (toLE 4 m.stamp.toNat).map BitVec.toNat ++ (toLE 2 (senderOf (s.cast k.cast) m.member)).map BitVec.toNat
      (s.sendFault fltShardVersion p g.ctx 7 0xFF 1 g.bookoff 0 detail).gatherEnd p i { g' with dead := true }
    else
      let s := if k.mode = 1 ∧ g.firstStamp.isNone = true then s.putShardRecord p g.ctx k.gid k.tensor k.shards m.stamp.toNat else s
      let cols := ((s.tensor p g.ctx k.tensor).map TDesc.cols).getD 32
      let bs := (landShard k.wire k.land cols m.data m.scales).take k.len
      let at_ := k.dest + m.member * k.len
      if at_ < spBase ∧ s.memFenced = true then
        (s.sendFault fltFenced p g.ctx 7 0xFF 1 g.bookoff at_ []).gatherEnd p i { g' with dead := true }
      else
      match s.dsWrite at_ bs with
      | (s, true) => s.gatherEnd p i { g' with firstStamp := g.firstStamp.or (some m.stamp) }
      | (s, false) => (s.sendFault fltEccUncorr p g.ctx 7 0xFF 1 g.bookoff at_ []).gatherEnd p i { g' with dead := true }

/-- The gather that a shard belongs to: the oldest of its context, list and tensor that still wants this member. -/
def State.gatherFor (s : State) (p : Nat) (m : ShardMsg) : Option Nat :=
  let l := (s.link p).gathers
  (List.range l.length).find? (fun i =>
    match l[i]? with
    | some g =>
      let k := gatherCmd g.words
      decide (g.ctx = m.ctx) && decide (k.cast = m.cast) && decide (k.tensor = m.tensor) && decide (m.member < k.shards) &&
        !(g.arrived.contains m.member)
    | none => false)

/-- The own shard of a module that starts a gather goes to every other member, and lands here (entry 25). -/
def State.sendOwnShard (s : State) (p c : Nat) (k : GatherCmd) : State :=
  match s.tensor p c k.tensor, s.memberOf k.cast with
  | some d, some me =>
    if me < k.shards then
      match s.ownShard p c k.wire d with
      | (s, .ok (stamp, data, scales)) =>
        let bs := toLE 4 stamp ++ data ++ scales
        let s := (List.range (s.castSize k.cast)).foldl (fun s i => if i = me then s else s.sendMember k.cast i 5 bs) s
        let m : ShardMsg :=
          { ctx := c, cast := k.cast, member := me, tensor := k.tensor, stamp := BitVec.ofNat 32 stamp,
            epoch := (s.cast k.cast).epoch, data := data, scales := scales }
        (match s.gatherFor p m with
         | some i => (match (s.link p).gathers[i]? with | some g => s.takeShard p i g m | none => s)
         | none => s)
      | (s, .error e) => s.sendFault e p c 7 0xFF 1 0xFFFFFFFF d.wcBase []
    else s
  | _, _ => s

/-- LE_GATHER (R209, R210): with no shards, or shards of no bytes, it completes at once and records nothing. -/
def execLeGather (p : Fin 4) (s : State) : Out :=
  match s.linkHead p 0 0x30 with
  | none => idle s
  | some (q, s') =>
    let k := gatherCmd q.words
    let c := q.ctx
    match s.gatherCheck p c k with
    | some r => .next (s'.linkFault p q r (if r = fltRange ∨ r = fltAlign then k.dest else 0) [])
    | none =>
      if k.shards = 0 ∨ k.len = 0 then
        .next (if q.head.set then s'.sendCrt linkNode (.flagSet p q.head.setFlag) else s')
      else
        let g : Gather := { ctx := c, words := q.words, arrived := [], firstStamp := none, dead := false, bookoff := q.bookoff }
        .next ((s'.setLink p { s'.link p with gathers := (s'.link p).gathers ++ [g] }).sendOwnShard p c k)

/-- SHARD_ARRIVAL (R211 to R214, R232): a shard of a stale epoch is discarded; one that no gather wants yet waits. -/
def execShardArrival (p : Fin 4) (m : ShardMsg) (s : State) : Out :=
  if m.epoch ≠ (s.cast m.cast).epoch then .next (s.countSat (aXch p 0x08) 1)
  else
    match s.gatherFor p m with
    | some i =>
      match (s.link p).gathers[i]? with
      | some g => .next (s.takeShard p i g m)
      | none => idle s
    | none => idle s

end Sys2Proof.Machine
end

