-- ==== Sys2Proof/Machine/Pcp.lean ====
section
/-!
DEFINITION. Machine/Pcp.lean: how Yemir handles a PCP request before its opcode's own checks (R349 to R351, R354, R462).
-/
namespace Sys2Proof.Machine

/-- Who may use an opcode (Table 12.6). -/
inductive PcpRole where
  /-- any sender, with or without a session -/
  | any
  | session
  | tenant
  | owner
deriving DecidableEq, Repr

/-- What an opcode acts on (R462). -/
inductive PcpScope where
  | module
  | partition
  /-- a context, which must exist -/
  | context
deriving DecidableEq, Repr

/-- An opcode of Table 12.6 as the gate needs it. -/
structure PcpOp where
  op : Nat
  role : PcpRole
  scope : PcpScope
  /-- bytes of payload that the fixed and counted fields take (step 9 of R349) -/
  need : Nat
  /-- answered while the die rails are off (R354) -/
  offOk : Bool
deriving DecidableEq, Repr

/-- The session's role may use the opcode (step 8). -/
def roleOk (r : PcpRole) (h : PcpHdr) (role : Nat) : Bool :=
  match r with
  | .any => true
  | .session => true
  | .tenant => decide (role = 0) || decide (role = 1 + hdrPart h)
  | .owner => decide (role = 0)

/-- The opcodes of Table 12.6. -/
def pcpOpcodes : List Nat :=
  [0x01, 0x02, 0x03, 0x04, 0x10, 0x11, 0x12, 0x13, 0x20, 0x21, 0x22, 0x23, 0x24, 0x25, 0x26, 0x30, 0x31, 0x32, 0x38, 0x39, 0x3A,
   0x3B, 0x40, 0x41]

/-- The request goes on over the chain, unread, and its sender is kept for the reply (R349 step 4). -/
def State.forwardPcp (s : State) (h : PcpHdr) : State :=
  let s := { s with ymr := { s.ymr with relayed := s.ymr.relayed ++ [(h.session, h.sequence, h.peer)] } }
  s.chainSend (s.chain.portTo h.chain.toNat) 1 h.chain.toNat false h.packet

/-- The partition exists in the die's shape (R462). -/
def State.partExists (s : State) (p : Nat) : Bool := decide (p < s.shape)

/-- Requests of a context that are answered later and hold others off (R351). -/
def holdsOff : List Nat := [0x20, 0x25, 0x30, 0x31, 0x32]

/-- A request that may not be used is logged with its role, 0xFF for none, and the step of R349 that refused it
(Table 14.5). -/
def State.authFail (s : State) (role step : Nat) : State :=
  s.logEvent 0x0072 whereModule (packData [(1, role), (1, step)])

/-- An accepted request past steps 6 to 9: the limits of R351, the die's power, the target, then the opcode. -/
def State.pcpRun (s : State) (h : PcpHdr) (k : PcpOp) (body : State → State) : State :=
  let crowded := match s.session h with | some x => decide (8 < x.open_) | none => false
  if crowded then s.reply h k.op stBusy []
  else if !k.offOk && !s.ymr.dieOn then s.reply h k.op stDomainOff []
  else if k.scope ≠ .module ∧ s.partExists (hdrPart h) = false then s.reply h k.op stNoEngine []
  else if k.scope ≠ .module ∧ k.op ≠ 0x32 ∧ s.partFenced (hdrPart h) = true then s.reply h k.op stFenced []
  else if k.scope = .context ∧ (s.ctx (hdrPart h) (hdrCtx h)).st = 0 then s.reply h k.op stBusy []
  else if k.scope = .context ∧ (s.ymr.busy.any (fun b => decide (b.1 = hdrKey h) && holdsOff.contains b.2) ||
      s.resets.any (fun r => decide (r.level = 0) && decide (ctxKey r.part r.ctx = hdrKey h))) = true then
    s.reply h k.op stBusy []
  else body s

/-- SEQUENCE 0xFFFF_FFFF closes the session (R356). -/
def State.lastRequest (s : State) (h : PcpHdr) : State :=
  if h.sequence = 0xFFFFFFFF then { s with ymr := { s.ymr with sessions := s.ymr.sessions.filter (fun x => decide (x.id ≠ h.session)) } } else s

/-- Steps 6 to 9 of R349 for a request under a session, or with none where none is needed. -/
def State.pcpSteps (s : State) (h : PcpHdr) (k : PcpOp) (body : State → State) : State :=
  match s.session h with
  | none => if h.length < k.need then s.reply h k.op stMalformed [] else s.pcpRun h k body
  | some x =>
    if x.lastSeq.elim false (fun n => decide (h.sequence.toNat ≤ n)) then s.countSat (aEth 0x40) 1
    else
      let s := s.modSession x.id (fun y => { y with lastSeq := some h.sequence.toNat, lastTime := s.now, open_ := y.open_ + 1 })
      let s :=
        if !(roleOk k.role h x.role) then (s.authFail x.role 8).reply h k.op stAuth []
        else if h.length < k.need then s.reply h k.op stMalformed []
        else s.pcpRun h k body
      s.lastRequest h

/-- An unlisted opcode: past step 6 of R349 it is answered with ST_MALFORMED (step 7). -/
def unlisted (h : PcpHdr) : PcpOp := { op := h.opcode.toNat, role := .any, scope := .module, need := 0, offOk := true }

/-- Steps 5 and on of R349: the session, then the rest. body gets the state with the request accepted. -/
def State.pcpOpen (s : State) (h : PcpHdr) (k : PcpOp) (body : PcpHdr → State → State) : State :=
  let good := (s.session h).isSome && h.enc && h.tagOk
  if k.role ≠ .any ∧ good = false then ((s.earlyReply h stAuth).countSat (aEth 0x3C) 1).authFail 0xFF 5
  else
    let h' := if good then h else { h with session := 0 }
    s.pcpSteps h' k (body h')

/-- The packet reaches this module (R355): one that has come over the chain, or one for an address it answers on. -/
def State.pcpReaches (s : State) (h : PcpHdr) : Bool := s.ymrUp && (h.via.isSome || s.ownAddrs.contains h.dst)

/-- A PCP request of an opcode's command (R349, steps 1 to 5, then the rest). A packet of another listed opcode is no packet of
this command; one of no opcode of Table 12.6 is answered as step 7 says. -/
def pcpDo (k : PcpOp) (h : PcpHdr) (body : PcpHdr → State → State) (s : State) : Out :=
  let other := decide (h.opcode.toNat ≠ k.op)
  if !(s.pcpReaches h) || (other && pcpOpcodes.contains h.opcode.toNat) then idle s
  else if h.magic ≠ 0x5043 then .next (s.countSat (aEth 0x38) 1)
  else if h.reply then idle s
  else if h.version ≠ 1 ∨ h.avail < h.length then .next (s.earlyReply h stMalformed)
  else if h.chain ≠ 0xFF ∧ s.chain.addr ≠ some h.chain.toNat then
    .next (if s.chain.addr.isSome = true ∧ h.chain.toNat < s.chain.count then s.forwardPcp h else s.earlyReply h stRange)
  else if other then .next (s.pcpOpen h (unlisted h) (fun h s => s.reply h h.opcode.toNat stMalformed []))
  else .next (s.pcpOpen h k body)

/-- The role of a request's session: none without one. -/
def State.roleOf (s : State) (h : PcpHdr) : Option Nat := (s.session h).map Session.role

end Sys2Proof.Machine
end

