-- ==== Sys2Proof/Machine/Reblocks.lean ====
section
/-!
DEFINITION. Machine/Reblocks.lean: moving the shards of a stopped context to a new cast list (R258 to R260).
-/
namespace Sys2Proof.Machine

/-- The shard that holds a square row (R224). -/
def shardOf (rows n r : Nat) : Option Nat :=
  (List.range n).find? (fun j => decide ((shardRows rows n j).1 ≤ r) && decide (r < (shardRows rows n j).2))

/-- This module's shard of a list, if it has one. -/
def State.myShard (s : State) (g n : Nat) : Option Nat := (s.memberOf g).bind (fun j => if j < n then some j else none)

/-- Square rows of this module's shard, or none. -/
def State.mySquareRows (s : State) (g n rows : Nat) : Nat × Nat :=
  match s.myShard g n with
  | some j => shardRows rows n j
  | none => (0, 0)

/-- What is wrong with a plan entry (R258). -/
def State.reblockBad (s : State) (p c : Nat) (e : ReblockEntry) : Bool :=
  let x := s.ctx p c
  match s.tensor p c e.tensor with
  | none => true
  | some d =>
    let r := s.mySquareRows e.newCast e.newShards d.rows
    let n := (r.2 - r.1) * 32
    let stateOk := x.ddrOk e.newStateBase (if 0 < n then e.newHalfStride + 7 * n * d.cols else 0)
    ((s.memberOf e.oldCast).isNone && (s.memberOf e.newCast).isNone) ||
      decide (s.castSize e.oldCast < e.oldShards) || decide (s.castSize e.newCast < e.newShards) ||
      ((e.moveWc || e.desc) && !(x.hbmOk e.newWcBase (wcBytes d.fmt n d.cols))) ||
      ((e.moveState || (e.desc && !d.frozen)) && !stateOk)

/-- A square row as it is read from the old shard (R259). -/
def State.readSquareRow (s : State) (p c : Nat) (e : ReblockEntry) (d : TDesc) (r : Nat) : SquareRow :=
  let old := s.mySquareRows e.oldCast e.oldShards d.rows
  let n := (old.2 - old.1) * 32
  let k := r - old.1
  let per := wcData d.fmt 32 d.cols
  let plane := wcPlane d.fmt 32 d.cols
  let od := (s.odescs p c).find? (fun o => decide (o.tensor = d.tensor))
  let base := d.stateBase + od.elim 0 (fun o => o.live * o.halfStride)
  let nn := n * d.cols
  let e0 := k * 32 * d.cols
  let len := 32 * d.cols
  let st := fun (off w : Nat) => if e.moveState then s.memBytes (base + off + w * e0) (w * len) else []
  { ctx := c, newCast := e.newCast, epoch := (s.cast e.newCast).epoch, tensor := e.tensor, squareRow := r,
    stamp := BitVec.ofNat 32 (s.xget p c (0x500 + 4 * e.tensor) 4),
    wcData := if e.moveWc then s.memBytes (d.wcBase + k * per) per else [],
    wcScales := if e.moveWc then s.memBytes (d.wcBase + wcData d.fmt n d.cols + k * plane) plane else [],
    stateHigh := st 0 2, stateLow := st (2 * nn) 1, stateM := st (3 * nn) 2, stateV := st (5 * nn) 2 }

/-- The reblock of a context that is in progress, and its record. -/
def State.reblockOf (s : State) (p c : Nat) : Option Reblock := (s.link p).reblocks.find? (fun r => decide (r.ctx = c))
def State.putReblock (s : State) (p : Nat) (rb : Reblock) : State :=
  let l := s.link p
  s.setLink p { l with reblocks := l.reblocks.filter (fun r => decide (r.ctx ≠ rb.ctx)) ++ [rb] }

/-- A square row lands in the new shard; its state in half 0 (R259). -/
def State.landSquareRow (s : State) (p : Nat) (rb : Reblock) (e : ReblockEntry) (d : TDesc) (m : SquareRow) : State :=
  let new := s.mySquareRows e.newCast e.newShards d.rows
  let n := (new.2 - new.1) * 32
  let k := m.squareRow - new.1
  let nn := n * d.cols
  let e0 := k * 32 * d.cols
  let s :=
    if e.moveWc then
      (s.writeMem (e.newWcBase + k * wcData d.fmt 32 d.cols) m.wcData).writeMem
        (e.newWcBase + wcData d.fmt n d.cols + k * wcPlane d.fmt 32 d.cols) m.wcScales
    else s
  let b := e.newStateBase
  let s :=
    if e.moveState then
      (((s.writeMem (b + 2 * e0) m.stateHigh).writeMem (b + 2 * nn + e0) m.stateLow).writeMem (b + 3 * nn + 2 * e0) m.stateM).writeMem
        (b + 5 * nn + 2 * e0) m.stateV
    else s
  let st := max (sget 0 rb.maxStamp e.tensor) m.stamp.toNat
  let rb := { rb with landed := rb.landed ++ [(e.tensor, m.squareRow)], maxStamp := sset 0 rb.maxStamp e.tensor st }
  s.putReblock p rb

/-- The bytes of a square row as they are sent, behind NEW_CAST's epoch and the stamp (R259); the spec gives the transfer no
other header. -/
def squareRowBytes (m : SquareRow) : List Byte :=
  toLE 4 m.epoch.toNat ++ toLE 4 m.stamp.toNat ++ m.wcData ++ m.wcScales ++ m.stateHigh ++ m.stateLow ++ m.stateM ++ m.stateV

/-- Send or copy every square row of an entry that this module owns under the old plan (R259). -/
def State.moveEntry (s : State) (p c : Nat) (e : ReblockEntry) : State :=
  match s.tensor p c e.tensor with
  | none => s
  | some d =>
    let old := s.mySquareRows e.oldCast e.oldShards d.rows
    (List.range (old.2 - old.1)).foldl (fun s i =>
      let r := old.1 + i
      let m := s.readSquareRow p c e d r
      match shardOf d.rows e.newShards r with
      | some j =>
        if s.myShard e.newCast e.newShards = some j then
          (match s.reblockOf p c with | some rb => s.landSquareRow p rb e d m | none => s)
        else s.sendMember e.newCast j 3 (squareRowBytes m)
      | none => s) s

/-- REBLOCK (R258, R259). -/
def execReblock (h : PcpHdr) (plan : List ReblockEntry) (s : State) : Out :=
  pcpDo { op := 0x41, role := .tenant, scope := .context, need := 8 + 32 * plan.length, offOk := false } h (fun h s =>
    let p := hdrPart h
    let c := hdrCtx h
    if plan.isEmpty then s.reply h 0x41 stOk []
    else if (s.ctx p c).st ≠ 2 ∨ (s.reblockOf p c).isSome = true then s.reply h 0x41 stBusy []
    else if plan.any (s.reblockBad p c) then s.reply h 0x41 stRange []
    else
      let rb : Reblock := { hdr := h, ctx := c, plan := plan, landed := [], maxStamp := [] }
      plan.foldl (fun s e => s.moveEntry p c e) (s.putReblock p rb)) s

/-- REBLOCK_TRANSFER_ARRIVAL (R232, R259): a square row of a stale epoch is discarded; one whose plan has not come yet
waits. -/
def execReblockTransferArrival (p : Fin 4) (m : SquareRow) (s : State) : Out :=
  if m.epoch ≠ (s.cast m.newCast).epoch then .next (s.countSat (aXch p 0x08) 1)
  else
    match s.reblockOf p m.ctx with
    | some rb =>
      match rb.plan.find? (fun e => decide (e.tensor = m.tensor) && decide (e.newCast = m.newCast)) with
      | some e =>
        match s.tensor p rb.ctx m.tensor with
        | some d =>
          if rb.landed.contains (m.tensor, m.squareRow) = false then .next (s.landSquareRow p rb e d m) else idle s
        | none => idle s
      | none => idle s
    | none => idle s

/-- Every square row that this module owns under the new plan has landed (R260). -/
def State.reblockDone (s : State) (p : Nat) (rb : Reblock) : Bool :=
  rb.plan.all (fun e =>
    match s.tensor p rb.ctx e.tensor with
    | some d =>
      let r := s.mySquareRows e.newCast e.newShards d.rows
      (List.range (r.2 - r.1)).all (fun i => rb.landed.contains (e.tensor, r.1 + i))
    | none => true)

/-- What an entry changes at the end (R260). -/
def State.finishEntry (s : State) (p c : Nat) (rb : Reblock) (e : ReblockEntry) : State :=
  match s.tensor p c e.tensor with
  | none => s
  | some d =>
    let r := s.mySquareRows e.newCast e.newShards d.rows
    let s :=
      if e.desc then
        let s := ((s.putMemNat (d.addr + 12) 6 e.newWcBase).putMemNat (d.addr + 18) 6 e.newStateBase).putMemNat (d.addr + 24) 1 e.newShards
        ((s.odescs p c).filter (fun o => decide (o.tensor = e.tensor))).foldl (fun s o =>
          ((s.putMemNat (o.addr + 30) 6 e.newHalfStride).putMemNat (o.addr + 36) 4 ((r.2 - r.1) * 32 * d.cols)).putMemNat (o.addr + 1) 1 0) s
      else s
    let s := s.xput p c (0x500 + 4 * e.tensor) 4 (sget 0 rb.maxStamp e.tensor)
    let l := s.link p
    let hit := fun (x : Carried) => decide (x.ctx = c) && decide (x.tensor = e.tensor)
    (s.setLink p { l with carried := l.carried.filter (fun x => !(hit x)) }).xcount p c 0x018 (l.carried.filter hit).length

/-- REBLOCK_COMPLETE (R260): the oldest reblock whose rows have all landed makes its changes and is answered. -/
def execReblockComplete (p : Fin 4) (s : State) : Out :=
  match (s.link p).reblocks.find? (s.reblockDone p) with
  | some rb =>
    let s := rb.plan.foldl (fun s e => s.finishEntry p rb.ctx rb e) s
    let l := s.link p
    .next ((s.setLink p { l with reblocks := l.reblocks.filter (fun r => decide (r.ctx ≠ rb.ctx)) }).reply rb.hdr 0x41 stOk [])
  | none => idle s

end Sys2Proof.Machine
end

