-- ==== Sys2Proof/Machine/Scrub.lean ====
section
/-!
DEFINITION. Machine/Scrub.lean: the scrub walkers of the scratchpad banks (R162 to R166).
-/
namespace Sys2Proof.Machine

def State.walker (s : State) (l bank : Nat) : Walker := sget Walker.start s.walkers (4 * l + bank)
def State.setWalker (s : State) (l bank : Nat) (w : Walker) : State :=
  { s with walkers := sset Walker.start s.walkers (4 * l + bank) w }

/-- The 8-byte words of a row of a bank: chunk 4 · row + bank of its slice (R158). -/
def rowWords (l bank row : Nat) : List Nat :=
  let w := (spBase + l * 0x20000 + 32 * (4 * row + bank)) / 8
  [w, w + 1, w + 2, w + 3]

/-- The walker reads one word: an uncorrectable one faults no context, Yemir logs it (R164). -/
def State.scrubWord (s : State) (b w : Nat) : State :=
  match s.checkWord w with
  | (s', true) => s'
  | (s', false) => s'.logEvent 0x0011 (whereOf (s.partOfBay b) 0 b 0) (spBayOff (8 * w)).2

/-- One visit of a bank's walker (R164): its row is read and corrected; a revisit after more than 100 ms is late
(R165). -/
def State.visit (s : State) (l bank : Nat) : State :=
  let b := handBay l
  let w := s.walker l bank
  let now := s.clock.house
  let before := sget 0 w.visited w.row
  let late := decide (0 < before) && decide (before - 1 + 100000000 < now)
  let s := (rowWords l bank w.row).foldl (fun s x => s.scrubWord b x) s
  let s := if late then (s.orReg (aBay b 0x200C) 0x80000000).logEvent 0x0012 (whereOf (s.partOfBay b) 0 b 0) bank else s
  let visited := sset 0 w.visited w.row (now + 1)
  if w.row = 1023 then
    s.setWalker l bank { w with row := 0, passStart := now, passes := w.passes + 1, lastPass := now - w.passStart,
                                visited := visited }
  else s.setWalker l bank { w with row := w.row + 1, visited := visited }

/-- A bank can be visited: its bay is active and its clock runs (R2, R166). -/
def State.canVisit (s : State) (b : Nat) : Bool := s.ymr.dieOn && s.bayActive b && !(s.bay b).clk.stopped

/-- A narrow access of a bay still has to be served by a bank (R138, R159). -/
def State.narrowAsks (s : State) (b bank : Nat) : Bool :=
  s.stagehands.any (fun kv => decide (handBay kv.1 = b) && kv.2.flight.any (fun w => decide (w.words.head? = some bank)))

/-- No other access uses a bank of a bay in the present cycle (R162, R164). -/
def State.bankIdle (s : State) (b bank : Nat) : Bool :=
  (s.bay b).served.all (fun x => decide (x.1 ≠ bank)) && !(s.narrowAsks b bank)

/-- The number of a bank of a stagehand's slice in its bay. -/
def bankAt (l bank : Nat) : Nat := 4 * handLocal l + bank

/-- A visit takes its bank in the present cycle, under its order of Table 6.1. -/
def State.takeBank (s : State) (l bank order : Nat) : State :=
  let y := s.bay (handBay l)
  s.setBay (handBay l) { y with served := y.served ++ [(bankAt l bank, order)] }

/-- SCRUB_VISIT (R164): an idle visit, in a cycle in which nothing else uses the bank. -/
def execScrubVisit (sh : Fin 6144) (bank : Fin 4) (s : State) : Out :=
  if s.canVisit (handBay sh) && s.bankIdle (handBay sh) (bankAt sh bank) then .next ((s.takeBank sh bank 70).visit sh bank)
  else idle s

/-- FORCED_SCRUB_PERIOD (R164): the forced visit of the present period of 4,096 cycles, made once, in a cycle in which no
access of orders 1 to 4 needs the bank. -/
def execForcedScrubPeriod (sh : Fin 6144) (bank : Fin 4) (s : State) : Out :=
  let period := (s.bay (handBay sh)).clk.cyc / 4096
  if s.canVisit (handBay sh) && decide ((s.walker sh bank).forcedPeriod < period + 1) &&
      (s.bay (handBay sh)).served.all (fun x => decide (x.1 ≠ bankAt sh bank) || decide (50 < x.2)) then
    let s := (s.takeBank sh bank 50).visit sh bank
    .next (s.setWalker sh bank { s.walker sh bank with forcedPeriod := period + 1 })
  else idle s

/-- A walker of the bay began its pass 80 ms ago or earlier (R166). -/
def State.scrubDue (s : State) (b : Nat) : Bool :=
  (List.range 512).any (fun k => decide ((s.walker (handOf b (k / 4)) (k % 4)).passStart + 80000000 ≤ s.clock.house))

/-- SCRUB_TIMER_WAKE (R166): the timer's event enters the bay's crossing, where it merges with one that is still inside
(R334), and raises a wake request. -/
def execScrubTimerWake (bay : Fin 48) (s : State) : Out :=
  if s.ymr.dieOn && s.bayActive bay && s.scrubDue bay then
    let s := if (s.bay bay).clk.scrubEv then s.orReg (aClk 0x1C) 2 else s
    .next ((s.setClk bay (fun c => { c with scrubEv := true })).wakeIfStopped bay)
  else idle s

/-- CORRECTION_WRITE_BACK (R162): the oldest corrected word of the bay is written back into its row, in a cycle of its
bank that no other access uses. -/
def execCorrectionWriteBack (bay : Fin 48) (s : State) : Out :=
  let y := s.bay bay
  match y.writeBack with
  | w :: ws =>
    if y.clk.stopped || !(s.bankIdle bay (bankOf (spBayOff (8 * w)).2)) then idle s
    else
      let err := if sget 0 s.memErr w = 1 then sset 0 s.memErr w 0 else s.memErr
      .next { s.setBay bay { y with writeBack := ws, served := y.served ++ [(bankOf (spBayOff (8 * w)).2, 70)] } with memErr := err }
  | [] => idle s

end Sys2Proof.Machine
end

