-- ==== Sys2Proof/Machine/Regs.lean ====
section
/-!
DEFINITION. Machine/Regs.lean: reads and writes of the control space (R10 to R12 and the register table of each block),
REG_READ and REG_WRITE (R350, R353), and the plain register write.
-/
namespace Sys2Proof.Machine

/-- A signed number in a field of n bits. -/
def sgn (n : Nat) (v : Int) : Nat := (v % (2 ^ n : Nat)).toNat

/-- Identity block (Table 0.2). -/
def State.gblValue (s : State) (off : Nat) (w : Word) : Word :=
  let m := s.fuse.bayMask.toNat
  if off = 0x04 then wordOf [(1, 31, 24), (s.fuse.stepping.toNat, 23, 16), (((List.range 48).filter s.bayActive).length, 15, 8)]
  else if off = 0x08 then lo32 m
  else if off = 0x0C then hi32 m
  else w

/-- Clock registers (Table 11.4). -/
def State.clkValue (s : State) (off : Nat) (w : Word) : Word :=
  let c := s.clock
  if off = 0x00 then
    wordOf [(b2n c.refLost, 31, 31), (b2n c.refOk, 30, 30), (s.thrSrc, 29, 28), (b2n s.throttling, 27, 27),
            (s.effCap true, 22, 16), (s.effCap false, 14, 8)] ||| (w &&& 0x80)
  else if off = 0x10 then lo32 c.house
  else if off = 0x14 then c.latch
  else if off = 0x18 then lo32 (sgn 16 c.trim)
  else w

/-- Station registers (Table 2.10). -/
def State.stnValue (s : State) (b off : Nat) (w : Word) : Word :=
  let y := s.bay b
  let loaded := fun a => 2 * b2n (y.tile a 1).loaded + b2n (y.tile a 0).loaded
  if off = 0x00 then wordOf [(b, 15, 8), (b2n (s.bayActive b), 7, 7), (stationOfBay b, 5, 0)]
  else if off = 0x0C then
    wordOf [(b2n y.running, 15, 15), (b2n y.passThrough, 14, 14), (loaded 0, 13, 12), (loaded 1, 11, 10), (b2n y.bankA, 9, 9),
            (b2n y.bankB, 8, 8), (y.ctx, 7, 4)] ||| (w &&& 1)
  else if off = 0x10 then y.flags.setWidth 32
  else if off = 0x18 then lo32 y.tapCount
  else if off = 0x1C then hi32 y.tapCount
  else w

/-- Completed passes of bank 0, and the longest last pass of a bank, of a bay's walkers (Table 6.5). -/
def State.scrubPasses (s : State) (b : Nat) : Nat :=
  (List.range 128).foldl (fun m i => min m (s.walker (handOf b i) 0).passes) (s.walker (handOf b 0) 0).passes
def State.scrubLongest (s : State) (b : Nat) : Nat :=
  s.walkers.foldl (fun m kv => if handBay (kv.1 / 4) = b then max m kv.2.lastPass else m) 0

/-- The other registers of a bay (Tables 5.10, 6.5, 10.12, 11.5). -/
def State.bayValue (s : State) (b off : Nat) (w : Word) : Word :=
  let y := s.bay b
  if off < 0x1000 then s.stnValue b off w
  else if off < 0x1010 then
    let k := (off - 0x1000) / 4
    (List.range 32).foldl (fun w i => if (s.hand (handOf b (32 * k + i))).running then w ||| BitVec.ofNat 32 (2 ^ i) else w) 0
  else if off = 0x1010 then (s.shFlags b).setWidth 32
  else if off = 0x1018 then lo32 (y.queue 4).length
  else if off = 0x200C then wordOf [(s.scrubPasses b, 15, 0)] ||| (w &&& 0xC0000000)
  else if off = 0x2010 then lo32 (s.scrubLongest b / 1000)
  else if off = 0x2020 then wordOf [(s.sbWaiting b, 15, 8), (y.entriesUsed, 5, 0)]
  else if off = 0x2048 then lo32 (y.clk.cyc % 32)
  else if off = 0x3000 then
    wordOf [(y.transfers.length, 23, 16), ((y.queue 8).length, 15, 12), ((y.queue 7).length, 11, 8), ((y.queue 6).length, 7, 4),
            ((y.queue 5).length, 3, 0)]
  else if off = 0x3004 then lo32 y.seBytes
  else if off = 0x3008 then hi32 y.seBytes
  else if off = 0x4004 then
    wordOf [(b2n y.clk.stopped, 31, 31), (b2n y.clk.fallback, 30, 30), (y.clk.alimit, 14, 8), (y.clk.code, 6, 0)]
  else if off = 0x4014 then lo32 y.clk.cyc
  else if off = 0x4018 then y.clk.latch
  else w

/-- SHAPE of CP_CFG. -/
def shapeCode (shape : Nat) : Nat := if shape = 1 then 1 else if shape = 2 then 2 else if shape = 4 then 3 else 0

/-- Cue-processor registers (Table 9.16). -/
def State.cpValue (s : State) (n off : Nat) (w : Word) : Word :=
  let p := s.partOfCp n
  let c := (off - 0x1000) / 0x40
  let x := s.ctx p c
  if off = 0x00 then
    wordOf [(shapeCode s.shape, 7, 6), (p, 5, 4), (b2n (decide (s.shape ≠ 0) && decide (leadCp s.shape p = n)), 3, 3)] ||| (w &&& 0x80000000)
  else if off = 0x08 then (match s.curCtx p with | some c => wordOf [(1, 4, 4), (c, 3, 0)] | none => 0)
  else if off < 0x1000 then w
  else if off % 0x40 = 0x00 then wordOf [(x.parent, 11, 8), (b2n x.dress, 7, 7), (x.st, 3, 0)]
  else if off % 0x40 = 0x10 then lo32 (sget 0 x.rdptr n)
  else if off % 0x40 = 0x14 then lo32 (x.creditOf n)
  else if off % 0x40 = 0x18 then x.progress
  else w

/-- Memory-controller registers (Tables 10.10, 10.11). -/
def State.memValue (s : State) (n off : Nat) (w : Word) : Word :=
  let x := s.ctl n
  if off = 0x00 then wordOf [(b2n s.memFenced, 7, 7), (x.size, 5, 4), (b2n x.slow, 3, 2), (x.st, 1, 0)]
  else if 0x40 ≤ off ∧ off < 0x60 then
    let k := (off - 0x40) / 4
    (List.range 8).foldl (fun w r => w ||| BitVec.ofNat 32 (sget 0 x.gens (8 * k + r) % 16 * 2 ^ (4 * r))) 0
  else if 0x100 ≤ off ∧ off < 0x200 then
    match s.keyRanges[(off - 0x100) / 16]? with
    | some r => if off % 16 = 0 then lo32 r.page else if off % 16 = 4 then lo32 r.pages else wordOf [(1, 31, 31), (r.slot, 2, 0)]
    | none => w
  else if off = 0x200 then
    (List.range 5).foldl (fun w k => if sget 0 s.keySlots k = 0 then w else w ||| BitVec.ofNat 32 (2 ^ k)) 0
  else w

/-- Ethernet registers (Table 12.8). -/
def State.ethValue (s : State) (off : Nat) (w : Word) : Word :=
  let e := s.eth
  if off = 0x00 then
    wordOf [(b2n e.link, 31, 31), (if e.link then b2n e.slow else 2, 30, 29), (b2n (decide (16 ≤ e.ptpGood)), 28, 28),
            (b2n e.slaac.isSome, 27, 27), (b2n (decide (s.reg (aEth 0x18) ≠ 0)), 26, 26)] ||| (w &&& 1)
  else if off = 0x0C then lo32 (sgn 32 e.ptpOffset)
  else if off = 0x10 then lo32 s.fuse.mac.toNat
  else if off = 0x14 then hi32 s.fuse.mac.toNat
  else if 0x20 ≤ off ∧ off < 0x30 then lo32 ((e.slaac.elim 0 BitVec.toNat) / 2 ^ (8 * (off - 0x20)))
  else if off = 0x30 then lo32 e.conns.length
  else w

/-- Chain-port registers (Table 13.7). -/
def State.chnValue (s : State) (e : Bool) (off : Nat) (w : Word) : Word :=
  let c := s.chain
  let x := s.port e
  if off = 0x00 then
    wordOf [(b2n x.up, 31, 31), (b2n c.head, 30, 30), (b2n c.isLoop, 29, 29), (b2n (decide (16 ≤ x.timeGood)), 28, 28),
            (c.enumSt, 27, 26), (c.count - 1, 13, 8), (b2n c.addr.isSome, 7, 7), (c.addr.getD 0, 5, 0)]
  else if off = 0x18 then lo32 (sgn 32 x.timeOffset)
  else w

/-- Curtain registers (Table 6.6). -/
def State.crtValue (s : State) (p off : Nat) (w : Word) : Word :=
  let f := (sget 0 s.crt.flags 17).toNat / 2 ^ (64 * p)
  if off = 0x00 then lo32 f
  else if off = 0x04 then hi32 f
  else if 0x20 ≤ off ∧ off < 0xA0 then
    let c := s.curtain p ((off - 0x20) / 8)
    if off % 8 = 0 then
      (match c.next with
       | some (ch, n) => wordOf [(b2n ch, 31, 31), (n, 13, 0)]
       | none => wordOf [(b2n c.chain, 31, 31), (c.count, 13, 0)])
    else wordOf [(b2n c.gen, 31, 31), (c.payload.toNat, 21, 14), (if c.held then c.count else c.arrived, 13, 0)]
  else w

/-- Mailbox registers (Table 14.8). -/
def State.mbxValue (s : State) (n off : Nat) (w : Word) : Word :=
  let m := s.mail n
  if off = 0x00 then lo32 (b2n m.overwrite)
  else if off = 0x04 then wordOf [(b2n m.dbOvr, 9, 9), (b2n m.collision, 8, 8), (m.entries.length, 3, 0)]
  else if 0x80 ≤ off ∧ off < 0xC0 then (m.entries.headD []).getD ((off - 0x80) / 4) 0
  else w

/-- Word i of a fault record (Table 9.13). -/
def recWord (r : FaultRec) (i : Nat) : Word :=
  let bs := toLE 1 r.reason ++ toLE 1 r.part ++ toLE 1 r.ctx ++ toLE 1 r.cls ++ toLE 1 r.bay ++ toLE 1 r.lbay ++ toLE 2 r.index ++
    toLE 4 r.bookoff.toNat ++ [0, 0] ++ toLE 1 r.later ++ [0x80] ++ toLE 8 r.time ++ toLE 6 r.addr ++ [0, 0] ++
    r.detail.map (BitVec.ofNat 8)
  BitVec.ofNat 32 (leNat ((bs.drop (4 * i)).take 4))

/-- The phase of FLT_ISTAT: a request that waits for its boundary reads as phase 1 (Table 15.7). -/
def State.interPhase (s : State) : Nat := if s.inter.phase = 0 ∧ s.inter.reqs.isEmpty = false then 1 else s.inter.phase

/-- Fence, reset and intermission registers (Tables 9.15, 15.7). -/
def State.fltValue (s : State) (off : Nat) (w : Word) : Word :=
  let pending := fun (k : Nat) =>
    (List.range 32).foldl (fun w i => if (sget none s.faults (32 * k + i)).isSome then w ||| BitVec.ofNat 32 (2 ^ i) else w) (0 : Word)
  let eng := s.resets.find? (fun r => decide (r.level = 1))
  if off = 0x1000 then pending 0
  else if off = 0x1004 then pending 1
  else if off = 0x2000 then
    wordOf ([(b2n (s.resets.any (fun r => decide (3 ≤ r.level))), 31, 31),
             ((List.range 4).foldl (fun m p => if s.resets.any (fun r => decide (r.level = 2) && decide (r.part = p)) then m + 2 ^ p else m) 0, 30, 27),
             (b2n s.memFenced, 14, 14)] ++
      (match eng with
       | some r => [(1, 26, 26), (r.cls, 25, 23), (r.bay, 22, 17), (r.index, 16, 15)]
       | none => []))
  else if off = 0x2004 then (w &&& 0x7FFFFFFF) ||| wordOf [(b2n (!s.resets.isEmpty), 31, 31)]
  else if off = 0x201C then
    (w &&& 0x8000003F) ||| (match s.buddy with | some b => wordOf [(1, 15, 15), (b, 13, 8)] | none => 0)
  else if off = 0x2028 then
    let ph := s.interPhase
    wordOf [(b2n (decide (ph ≠ 0)), 31, 31), (ph, 30, 28), (b2n s.inter.replica, 27, 27), (b2n s.inter.pinned, 26, 26),
            (s.inter.part, 25, 24), (s.inter.ctx, 23, 20)] ||| (w &&& 0x80000)
  else w

/-- What a register reads as, without the side effects of the read. -/
def State.regValue (s : State) (a : Nat) : Word :=
  let w := s.reg a
  match locate a with
  | some (.gbl, off) => s.gblValue off w
  | some (.clk, off) => s.clkValue off w
  | some (.bay b, off) => s.bayValue b off w
  | some (.cp n, off) => s.cpValue n off w
  | some (.mem n, off) => s.memValue n off w
  | some (.eth, off) => s.ethValue off w
  | some (.chn e, off) => s.chnValue e off w
  | some (.xch p, off) => if off = 0 then lo32 ((s.link p).buckets.filter Bucket.inFlight).length else w
  | some (.crt p, off) => s.crtValue p off w
  | some (.crtDie, off) => if off = 0 then s.crt.seq else w
  | some (.mbx n, off) => s.mbxValue n off w
  | some (.pol, off) => if off = 0 then s.ymr.policy &&& 0xFF03 else if off = 4 then lo32 s.ymr.score else w
  | some (.frec n, off) => (match sget none s.faults n with | some r => recWord r (off / 4) | none => 0)
  | some (.flt, off) => s.fltValue off w
  | none => 0

/-- An access over the cue network wakes the bay whose register it is (R336). -/
def State.wakeAt (s : State) (a : Nat) : State := match locate a with | some (.bay b, _) => s.wakeIfStopped b | _ => s

/-- A read of a register: its value, and what the read does (R323, R341, R398). -/
def State.readReg (s : State) (a : Nat) : State × Word :=
  let s := s.wakeAt a
  let v := s.regValue a
  match locate a with
  | some (.clk, 0x10) => (s.latchHouse, v)
  | some (.bay b, 0x4014) => (s.latchCyc b, v)
  | some (.mbx n, 0xBC) => (s.setMail n { s.mail n with entries := (s.mail n).entries.drop 1 }, v)
  | _ => (s, v)

/-- Write of YMR_POLICY (R406): kept, logged, and a new TENANT_GEN closes the tenant sessions of another. -/
def State.writePolicy (s : State) (v : Word) : State :=
  let gen := BitVec.ofNat 8 (fld v 15 8)
  let keep := fun (x : Session) => decide (x.role = 0) || decide (x.tenantGen = gen)
  let changed := fld s.ymr.policy 15 8 ≠ fld v 15 8
  let s := { s with ymr := { s.ymr with policy := v &&& 0xFF03,
                                        sessions := if changed then s.ymr.sessions.filter keep else s.ymr.sessions } }
  s.logEvent 0x0071 whereModule 3

/-- A write of a staged entry, of the push, of the doorbell, of a channel's control and status (R398, R399). -/
def State.writeMbx (s : State) (n off : Nat) (v : Word) : State :=
  let m := s.mail n
  if off = 0x00 then (if 12 ≤ n then s else s.setMail n { m with overwrite := bit v 0 })
  else if off = 0x04 then s.setMail n { m with dbOvr := m.dbOvr && !bit v 9, collision := m.collision && !bit v 8 }
  else if off = 0x08 then (if bit v 0 then s.ringMail n else s)
  else if off = 0x0C then s.setReg (aMbx n 0x0C) v
  else if 0x40 ≤ off ∧ off < 0x80 then
    let k := (off - 0x40) / 4
    let st := sset 0 m.staged k v
    let s := s.setMail n { m with staged := st }
    if k = 15 then (s.mbxPush n ((List.range 16).map (fun i => sget 0 st i))).1 else s
  else s

/-- The reserve of a write of FLT_RESV: base and bytes (Table 15.7). -/
def resvOf (v : Word) : Nat × Nat := (ddrBase + fld v 31 16 * 2 ^ 30, fld v 15 0 * 2 ^ 30)

/-- Write of FLT_RESV (R446). -/
def State.writeResv (s : State) (v : Word) : State :=
  let r := resvOf v
  let bad := s.inter.snaps.any Snapshot.own ||
    s.ctxs.any (fun kv => decide (kv.2.st ≠ 0) && rangesMeet r.1 r.2 kv.2.ddrBase kv.2.ddrSize) ||
    decide (ddrBase + s.installedDdr < r.1 + r.2)
  if bad then s.orReg (aFlt 0x2028) 0x80000 else s.setReg (aFlt 0x2020) v

/-- A write to a register with all that the block makes of it. -/
def State.writeReg (s : State) (a : Nat) (v : Word) : State :=
  let s := s.wakeAt a
  match locate a with
  | some (.clk, 0x04) => s.writeCap false v
  | some (.clk, 0x08) => s.writeCap true v
  | some (.bay b, 0x0004) => s.writeLinkcfg b v
  | some (.bay b, 0x0008) => s.writeRampcfg b v
  | some (.bay b, 0x0010) => let y := s.bay b; s.setBay b { y with flags := y.flags &&& ~~~(v.setWidth 5) }
  | some (.bay b, 0x0034) => s.writeCntctl b v
  | some (.bay b, 0x1010) => s.writeShFlags b v
  | some (.bay b, 0x2040) => s.writeXslot b false v
  | some (.bay b, 0x2044) => s.writeXslot b true v
  | some (.bay b, 0x4000) => s.writeClkcfg b v
  | some (.cp n, off) => s.writeCp n off v
  | some (.eth, 0x04) => s.writeEthCfg v
  | some (.chn e, 0x04) => s.writeChnCfg e v
  | some (.crt p, 0x08) => s.writeFlags p false true v
  | some (.crt p, 0x0C) => s.writeFlags p true true v
  | some (.crt p, 0x10) => s.writeFlags p false false v
  | some (.crt p, 0x14) => s.writeFlags p true false v
  | some (.crt p, off) => if 0x20 ≤ off ∧ off < 0xA0 ∧ off % 8 = 0 then s.writeCurtcfg p ((off - 0x20) / 8) v else s
  | some (.mbx n, off) => s.writeMbx n off v
  | some (.pol, 0) => s.writePolicy v
  | some (.flt, 0x1008) => s.setFaultRec (fld v 5 4) (fld v 3 0) none
  | some (.flt, 0x2018) => (List.range 4).foldl State.trySwitch (s.writeMasked a v)
  | some (.flt, 0x2020) => s.writeResv v
  | _ => s.writeMasked a v

/-- REGISTER_WRITE (R10): a write over the die's own buses; an address without a register takes none (R11). -/
def execRegisterWrite (addr : Nat) (v : Word) (s : State) : Out :=
  if (regRow addr).isSome then whenOn s (s.writeReg addr v) else idle s

/-- A register that PCP sees (R401): secure channels and the words of the others are unassigned to it. -/
def pcpReg (a : Nat) : Bool :=
  (regRow a).isSome &&
    (match locate a with
     | some (.mbx n, off) =>
       if 12 ≤ n then false
       else if n ≤ 7 then decide (off = 0x00 ∨ off = 0x04 ∨ off = 0x0C)
       else decide (off < 0x40 ∨ 0x80 ≤ off)
     | _ => true)

/-- The block of a register lies in a fenced domain (R422). -/
def State.regFenced (s : State) (a : Nat) : Bool :=
  match locate a with
  | some (.bay b, _) => s.resets.any (fun r => decide (3 ≤ r.level) || (decide (r.level = 2) && decide (r.part = s.partOfBay b)) ||
      (decide (r.level = 1) && decide (r.cls < 3) && decide (r.bay = b)))
  | some (.cp n, _) => s.resets.any (fun r => decide (3 ≤ r.level) || (decide (r.level = 2) && decide (r.part = s.partOfCp n)))
  | some (.crt p, _) => s.resets.any (fun r => decide (3 ≤ r.level) || (decide (r.level = 2) && decide (r.part = p)))
  | some (.xch p, _) => s.resets.any (fun r => decide (3 ≤ r.level) || (decide (r.level = 2) && decide (r.part = p)))
  | _ => false

def isMbx (a : Nat) : Bool := match locate a with | some (.mbx _, _) => true | _ => false

/-- What REG_READ and REG_WRITE check before any access (Table 12.6, R11, R398, R400, R422). -/
def State.regStatus (s : State) (h : PcpHdr) (write : Bool) (addrs : List Nat) : Nat :=
  let relay := fun (a : Nat) =>
    match locate a with
    | some (.mbx n, _) => decide (8 ≤ n) && !write && decide (s.roleOf h ≠ some 0) && decide (s.roleOf h ≠ some (n - 7))
    | _ => false
  if addrs.any (fun a => !(pcpReg a)) then stRange
  else if addrs.any (fun a => isMbx a) && !s.mbxOn then stDomainOff
  else if addrs.any relay then stAuth
  else if addrs.any s.regFenced then stFenced
  else stOk

def State.readRegs (s : State) : List Nat → State × List Word
  | [] => (s, [])
  | a :: l =>
    let r := s.readReg a
    let t := State.readRegs r.1 l
    (t.1, r.2 :: t.2)

def State.writeRegs (s : State) : List Nat → List Word → State
  | a :: l, v :: vs => (s.writeReg a v).writeRegs l vs
  | _, _ => s

/-- The addresses of count registers. -/
def regAddrs (addr count : Nat) : List Nat := (List.range count).map (fun i => addr + 4 * i)

/-- REG_READ (Table 12.6, R350). -/
def execRegRead (h : PcpHdr) (addr count : Nat) (s : State) : Out :=
  pcpDo { op := 0x10, role := .session, scope := .module, need := 6, offOk := false } h (fun h s =>
    let n := count % 2048
    if n = 0 then s.reply h 0x10 stOk []
    else
      let st := s.regStatus h false (regAddrs addr n)
      if st ≠ stOk then s.reply h 0x10 st []
      else
        let (s, ws) := s.readRegs (regAddrs addr n)
        s.reply h 0x10 stOk (ws.map (fun w => toLE 4 w.toNat)).flatten) s

/-- REG_WRITE (Table 12.6, R350): every address is checked before any write. -/
def execRegWrite (h : PcpHdr) (addr count : Nat) (values : List Word) (s : State) : Out :=
  let n := count % 2048
  pcpDo { op := 0x11, role := .owner, scope := .module, need := if n = 0 then 6 else 8 + 4 * n, offOk := false } h (fun h s =>
    if n = 0 then s.reply h 0x11 stOk []
    else
      let st := s.regStatus h true (regAddrs addr n)
      if st ≠ stOk then s.reply h 0x11 st []
      else (s.writeRegs (regAddrs addr n) values).reply h 0x11 stOk []) s

/-- REGISTER_ACCESS_TIMEOUT (R353): an access of a REG_READ or REG_WRITE has no answer within 100 µs; those before it
stand. -/
def execRegisterAccessTimeout (h : PcpHdr) (write : Bool) (addr : Nat) (values : List Word) (s : State) : Out :=
  let op := if write then 0x11 else 0x10
  pcpDo { op := op, role := if write then .owner else .session, scope := .module, need := 6, offOk := false } h (fun h s =>
    let l := regAddrs addr values.length
    let st := s.regStatus h write l
    if st ≠ stOk then s.reply h op st []
    else
      let s := if write then s.writeRegs l values else (s.readRegs l).1
      s.reply h op stTimeout []) s

end Sys2Proof.Machine
end

