-- ==== Sys2Proof/Machine/Loader.lean ====
section
/-!
DEFINITION. Machine/Loader.lean: the loader: the prompt book's image, the checks of LOAD_BOOK, placing, relocating and
patching, and the registers it writes (R61, R263 to R272, R408, R428).
-/
namespace Sys2Proof.Machine

/-- A little-endian number in a byte string. -/
def numAt (bs : List Byte) (off n : Nat) : Nat := leNat ((bs.drop off).take n)

/-- Bytes replaced in a byte string. -/
def putAt (bs : List Byte) (off : Nat) (v : List Byte) : List Byte := bs.take off ++ v ++ bs.drop (off + v.length)

/-- A section of a book (Table 9.2): its index in the section table. -/
structure Sect where
  idx : Nat
  type : Nat
  place : Nat
  zero : Nat
  off : Nat
  size : Nat
  target : Nat
deriving DecidableEq, Repr

def sectAt (bs : List Byte) (i : Nat) : Sect :=
  let o := 0x80 + 32 * i
  { idx := i, type := numAt bs o 2, place := numAt bs (o + 2) 1, zero := numAt bs (o + 3) 5, off := numAt bs (o + 8) 8,
    size := numAt bs (o + 16) 8, target := numAt bs (o + 24) 8 }

def sectsOf (bs : List Byte) : List Sect := (List.range (min 64 (numAt bs 0x0A 2))).map (sectAt bs)
def sectOfType (l : List Sect) (t : Nat) : Option Sect := l.find? (fun x => decide (x.type = t))
def Sect.bytes (x : Sect) (bs : List Byte) : List Byte := (bs.drop x.off).take x.size

/-- Header fields (Table 9.1). -/
def bkShape (bs : List Byte) : Nat := numAt bs 0x07 1
def bkStations (bs : List Byte) : Nat := numAt bs 0x08 2
def bkScenes (bs : List Byte) : Nat := numAt bs 0x0C 2
def bkSigned (bs : List Byte) : Bool := (numAt bs 0x0E 2).testBit 0
def bkDress (bs : List Byte) : Bool := (numAt bs 0x0E 2).testBit 1
def bkHbmNeed (bs : List Byte) : Nat := numAt bs 0x18 8
def bkDdrNeed (bs : List Byte) : Nat := numAt bs 0x20 8
def bkSpNeed (bs : List Byte) : Nat := numAt bs 0x28 4
def bkMeasure (bs : List Byte) : List Byte := (bs.drop 0x40).take 64

/-- PLACE values a section type takes, and how many such sections a book holds (Table 9.3). -/
def placeOk (t place : Nat) : Bool :=
  if 1 ≤ t ∧ t ≤ 8 then decide (place = 1) else if t = 0x0C then decide (place = 1 ∨ place = 2) else decide (place = 0)
def countOk (dress : Bool) (t n : Nat) : Bool :=
  if t = 0x01 ∨ t = 0x08 ∨ t = 0x09 then decide (n = 1)
  else if t = 0x07 then decide (n = if dress then 0 else 1)
  else if t = 0x0C then decide (n ≤ 16) else decide (n ≤ 1)

/-- Sizes of Table 9.3. -/
def sizeOk (bs : List Byte) (x : Sect) : Bool :=
  match x.type with
  | 0x02 => decide (x.size % 32 = 0)
  | 0x04 => decide (x.size % 32 = 0)
  | 0x05 => decide (x.size % 64 = 0)
  | 0x06 => decide (x.size % 256 = 0)
  | 0x07 => decide (x.size = 263424)
  | 0x08 => decide (x.size = 2048)
  | 0x09 => decide (x.size = 8 * (bkStations bs + 1) + 64)
  | 0x0A | 0x0B => decide (x.size % 8 = 0)
  | _ => true

/-- Some two of a list of (place, start, size) ranges overlap. -/
def anyMeet : List (Nat × Nat × Nat) → Bool
  | [] => false
  | a :: l => l.any (fun b => decide (a.1 = b.1) && rangesMeet a.2.1 a.2.2 b.2.1 b.2.2) || anyMeet l

/-- The offset of the first section that fails a test, as its table entry. -/
def badSect (l : List Sect) (f : Sect → Bool) : Option Nat := (l.find? (fun x => !(f x))).map (fun x => 0x80 + 32 * x.idx)

/-- A check's failure: its number, status and the book offset it concerns. -/
abbrev LoadBad := Nat × Nat × Nat

/-- The first of some conditions that holds, with the book offset it concerns. -/
def firstBad (check status : Nat) : List (Bool × Nat) → Option LoadBad
  | [] => none
  | (b, off) :: l => if b then some (check, status, off) else firstBad check status l

/-- Check 1 of Table 9.7. -/
def check1 (bs : List Byte) (length : Nat) : Option LoadBad :=
  let ss := sectsOf bs
  let n := numAt bs 0x0A 2
  let head := 0x80 + 32 * n
  let sign := sectOfType ss 0x0D
  let shape := bkShape bs
  let bad := fun (f : Sect → Bool) => badSect ss f
  let sectBad := fun (f : Sect → Bool) => ((bad f).isSome, (bad f).getD 0)
  firstBad 1 stMalformed [
    (decide (length < 0x80), 0),
    (decide (numAt bs 0 4 ≠ 0x42505A4F), 0x00), (decide (numAt bs 4 2 ≠ 1), 0x04),
    (!(decide (shape = 1 ∨ shape = 2 ∨ shape = 4)), 0x07),
    (decide (bkStations bs = 0) || decide (48 / max 1 shape < bkStations bs), 0x08),
    (decide (n = 0) || decide (64 < n) || decide (length < head), 0x0A),
    (decide (bkScenes bs = 0) || decide (4096 < bkScenes bs), 0x0C),
    (decide (4 ≤ numAt bs 0x0E 2), 0x0E), (decide (numAt bs 0x10 8 ≠ length), 0x10),
    (decide (bkSpNeed bs % 4096 ≠ 0), 0x28), (decide (numAt bs 0x2C 4 ≠ 0), 0x2C),
    sectBad (fun x => decide (1 ≤ x.type ∧ x.type ≤ 0x0D) && placeOk x.type x.place && decide (x.zero = 0)),
    sectBad (fun x => decide (x.off % 64 = 0) && decide (head ≤ x.off) && decide (x.off + x.size ≤ length)),
    sectBad (fun x => decide (x.place = 0) || decide (x.target % 256 = 0)),
    sectBad (sizeOk bs),
    ((List.range 14).any (fun t => decide (t ≠ 0) && !(countOk (bkDress bs) t (ss.filter (fun x => decide (x.type = t))).length)), 0x0A),
    (anyMeet (ss.map (fun x => (0, x.off, x.size))), 0x80),
    (bkSigned bs != sign.isSome, 0x0E),
    (match sign with | some x => decide (x.idx + 1 ≠ n) || decide (x.off + x.size ≠ length) | none => false, 0x80 + 32 * (n - 1)),
    sectBad (fun x => decide (x.place = 0) || decide (x.target + x.size ≤ if x.place = 1 then bkHbmNeed bs else bkDdrNeed bs)),
    (anyMeet ((ss.filter (fun x => decide (x.place ≠ 0))).map (fun x => (x.place, x.target, x.size))), 0x80)]

/-- The digest that MEASURE must hold (R265). -/
def bookDigest (bs : List Byte) : Nat :=
  let upto := ((sectOfType (sectsOf bs) 0x0D).elim bs.length Sect.off)
  Config.digest (putAt (bs.take upto) 0x40 (List.replicate 64 0)) % 2 ^ 512

/-- A SIGN section holds the enrolled owner's key and its signature over MEASURE (R408). -/
def State.signOk (s : State) (bs : List Byte) (x : Sect) : Bool :=
  let b := x.bytes bs
  let d := Config.digest ((b.drop 4).take 64) % 2 ^ 256
  decide (s.ymr.owner = some d) && Config.xmssValid d (bkMeasure bs) (b.drop 68)

/-- The physical stations of a partition's logical stations, as bays (R61, R155). -/
def State.loopBays (s : State) (p : Nat) : List Nat := ((loopStations s.shape p).map bayOfStation).filter s.bayUsable

/-- Rings of SHEETS: their number, entries of each. -/
def ringEntries (s : State) (p : Nat) (x : Sect) : Nat := x.size / (64 * max 1 (cpsOf s.shape p).length)

/-- A relocation or patch entry (R266, R267): section, kind, shift or width, offset. -/
def entryAt8 (bs : List Byte) (i : Nat) : Nat × Nat × Nat × Nat :=
  (numAt bs (8 * i) 2, numAt bs (8 * i + 2) 1, numAt bs (8 * i + 3) 1, numAt bs (8 * i + 4) 4)
def entries8 (bs : List Byte) : List (Nat × Nat × Nat × Nat) := (List.range (bs.length / 8)).map (entryAt8 bs)

/-- Bits of a relocation kind's field before and after (Table 9.4). -/
def relocBits (kind : Nat) : Nat := if kind = 1 ∨ kind = 2 then 6 else if kind = 3 then 32 else 48

/-- Bytes a relocated field touches. -/
def relocBytes (kind shift : Nat) : Nat := (shift + relocBits kind + 7) / 8

/-- The logical bay or station of a field before relocation. -/
def relocLogical (kind v : Nat) : Nat := if kind ≤ 2 then v % 64 else if kind = 3 then v / 65536 % 64 else v / 2 ^ 24 % 64

/-- The value of a relocation's field in the book. -/
def relocValue (bs : List Byte) (x : Sect) (kind shift off : Nat) : Nat :=
  numAt bs (x.off + off) (relocBytes kind shift) / 2 ^ shift % 2 ^ relocBits kind

def relocOk (bs : List Byte) (ss : List Sect) (e : Nat × Nat × Nat × Nat) : Bool :=
  match ss[e.1]? with
  | some x =>
    decide (1 ≤ e.2.1 ∧ e.2.1 ≤ 4) && decide (x.place ≠ 0) && decide (e.2.2.2 + relocBytes e.2.1 e.2.2.1 ≤ x.size) &&
      decide (relocLogical e.2.1 (relocValue bs x e.2.1 e.2.2.1 e.2.2.2) < bkStations bs)
  | none => false

/-- Widths of Table 9.5. -/
def widthOk (kind width : Nat) : Bool :=
  match kind with
  | 1 | 2 => decide (width = 6 ∨ width = 8)
  | 3 => decide (width = 3 ∨ width = 4)
  | 4 | 6 => decide (width = 1)
  | 5 => decide (width = 16)
  | _ => false

def patchOk (ss : List Sect) (e : Nat × Nat × Nat × Nat) : Bool :=
  match ss[e.1]? with
  | some x => widthOk e.2.1 e.2.2.1 && decide (x.place ≠ 0) && decide (e.2.2.2 + e.2.2.1 ≤ x.size)
  | none => false

/-- Offset in the book of the first entry of a section that fails a test. -/
def badEntry (bs : List Byte) (x : Option Sect) (f : Nat × Nat × Nat × Nat → Bool) : Option Nat :=
  x.bind (fun x => ((List.range (x.size / 8)).find? (fun i => !(f (entryAt8 (x.bytes bs) i)))).map (fun i => x.off + 8 * i))

/-- Check 8 of Table 9.7. -/
def State.check8 (s : State) (p : Nat) (bs : List Byte) : Option LoadBad :=
  let ss := sectsOf bs
  let sheets := (sectOfType ss 0x01).getD (sectAt bs 0)
  let n := ringEntries s p sheets
  let ringBad := !((seqFromTo 6 16).any (fun k => decide (n = 2 ^ k))) || decide (sheets.size ≠ n * 64 * (cpsOf s.shape p).length)
  let r := badEntry bs (sectOfType ss 0x0A) (relocOk bs ss)
  let q := badEntry bs (sectOfType ss 0x0B) (patchOk ss)
  firstBad 8 stMalformed [(ringBad, 0x80 + 32 * sheets.idx), (r.isSome, r.getD 0), (q.isSome, q.getD 0)]

/-- Check 9 of Table 9.7: tensor descriptors as the book holds them (R206, R224). -/
def check9 (bs : List Byte) : Option LoadBad :=
  match sectOfType (sectsOf bs) 0x04 with
  | none => none
  | some x =>
    let bad := fun (i : Nat) =>
      let d := tdescOf 0 ((bs.drop (x.off + 32 * i)).take 32)
      !(decide (d.fmt = 0 ∨ d.fmt = 4 ∨ d.fmt = 8)) || (decide (d.fmt = 4) && !d.frozen) || (decide (d.stateBase ≠ 0) && d.frozen) ||
        (decide (d.stateBase = 0) && !d.frozen) || (!d.frozen && decide (d.rows % 32 ≠ 0 ∨ d.cols % 32 ≠ 0))
    match (List.range (x.size / 32)).find? bad with
    | some i => some (9, stMalformed, x.off + 32 * i)
    | none => none

/-- The words of the PLAN section. -/
def planWords (bs : List Byte) : List Word :=
  match sectOfType (sectsOf bs) 0x09 with
  | some x => (List.range (x.size / 4)).map (fun i => BitVec.ofNat 32 (numAt bs (x.off + 4 * i) 4))
  | none => []

/-- The slot plan of a bay: that of its logical bay, or the spare pair (Table 9.3). -/
def planOf (plan : List Word) (n : Nat) (lbay : Option Nat) : Word × Word :=
  let i := match lbay with | some j => j | none => n
  (plan.getD (2 * i) 0, plan.getD (2 * i + 1) 0)

/-- Check 10 of Table 9.7 (R180). -/
def State.check10 (s : State) (p : Nat) (bs : List Byte) : Option LoadBad :=
  let n := bkStations bs
  let map := (s.loopBays p).take n
  let bad := (s.baysOf p).find? (fun b =>
    let w := planOf (planWords bs) n ((List.range n).find? (fun j => decide (map[j]? = some b)))
    !(xslotOk b false w.1 && xslotOk b true w.2))
  let off := (sectOfType (sectsOf bs) 0x09).elim 0 Sect.off
  bad.map (fun _ => (10, stRange, off))

/-- Quota base of a section's place. -/
def placeBase (x : Context) (place : Nat) : Nat := if place = 1 then x.hbmBase else x.ddrBase
def Sect.addr (x : Sect) (c : Context) : Nat := placeBase c x.place + x.target

/-- The value of a relocated field (Table 9.4). -/
def relocated (map : List Nat) (kind v : Nat) : Nat :=
  let b := map.getD (relocLogical kind v) 0
  match kind with
  | 1 => b
  | 2 => stationOfBay b
  | 3 => 0x100000 + b * 0x10000 + v % 65536
  | _ => spAddr b (v % 2 ^ 24)

/-- Write a relocated field in its placed copy. -/
def State.putReloc (s : State) (map : List Nat) (r : Nat × Nat × Nat × Nat) : State :=
  let n := relocBytes r.2.1 r.2.2.1
  let w := 2 ^ relocBits r.2.1
  let old := s.memNat r.1 n
  let sh := 2 ^ r.2.2.1
  let v := old - (old / sh % w) * sh + (relocated map r.2.1 r.2.2.2 % w) * sh
  s.putMemNat r.1 n v

/-- Patches of kinds 1 to 3 (Table 9.5): an offset in a quota becomes an address. -/
def State.putQuota (s : State) (c : Context) (a kind width : Nat) : State :=
  let base := if kind = 1 then c.hbmBase else if kind = 2 then c.ddrBase else c.spFirst
  s.putMemNat a width (s.memNat a width + base)

/-- The exchange record's bases from the placed sections (R264). LAND_BASE and CARRY_BASE have no section in Table 9.3:
they keep what the book's image, its relocations and its patches give them (DEDUCED, entry 188). -/
def State.fillRecord (s : State) (c : Context) (ss : List Sect) : State :=
  match sectOfType ss 0x07 with
  | none => s
  | some x =>
    let a := x.addr c
    let s := match sectOfType ss 0x05 with
      | some d => s.putMemNat (a + 0x20) 8 (d.addr c)
      | none => s
    match sectOfType ss 0x06 with
    | some d => s.putMemNat (a + 0x28) 8 (d.addr c)
    | none => s

/-- Relocated fields of a book in its placed copies. -/
def relocsOf (bs : List Byte) (c : Context) : List (Nat × Nat × Nat × Nat) :=
  let ss := sectsOf bs
  match sectOfType ss 0x0A with
  | some r => (entries8 (r.bytes bs)).filterMap (fun e =>
      (ss[e.1]?).map (fun x => (x.addr c + e.2.2.2, e.2.1, e.2.2.1, relocValue bs x e.2.1 e.2.2.1 e.2.2.2)))
  | none => []

/-- Patched fields of the placed copies: address, kind, width, and the value in the book. -/
def patchesOf (bs : List Byte) (c : Context) : List (Nat × Nat × Nat × Nat) :=
  let ss := sectsOf bs
  match sectOfType ss 0x0B with
  | some r => (entries8 (r.bytes bs)).filterMap (fun e =>
      (ss[e.1]?).map (fun x => (x.addr c + e.2.2.2, e.2.1, e.2.2.1, numAt bs (x.off + e.2.2.2) e.2.2.1 % 256)))
  | none => []

/-- Step 1 of R271: sections placed and relocated, patches of kinds 1 to 3 applied, the exchange record's bases filled. -/
def State.placeBook (s : State) (p : Nat) (c : Context) (bs : List Byte) : State :=
  let ss := sectsOf bs
  let put := fun (s : State) (x : Sect) =>
    if x.place = 0 then s else s.writeMem (x.addr c) (if x.type = 8 then List.replicate x.size 0 else x.bytes bs)
  let s := ss.foldl put s
  let map := (s.loopBays p).take (bkStations bs)
  let s := (relocsOf bs c).foldl (fun s r => s.putReloc map r) s
  let s := ((patchesOf bs c).filter (fun e => decide (e.2.1 ≤ 3))).foldl (fun s e => s.putQuota c e.1 e.2.1 e.2.2.1) s
  s.fillRecord c ss

/-- An entry of a sheet as static_check sees it (R272): 0 wait, 1 cmd, 2 setf, 3 any other. -/
structure ScEntry where
  kind : Nat
  wait : Option Nat
  set : Option Nat
  clear : Option Nat
  queue : Nat
deriving DecidableEq, Repr

/-- A packet for a queue. -/
def scCmd (queue : Nat) (w0 : Word) : ScEntry :=
  let h := cmdHead w0
  { kind := 1, wait := if h.wait then some h.waitFlag else none, set := if h.set then some h.setFlag else none,
    clear := none, queue := queue }

/-- A physical engine queue as a number. -/
def scQueue (map : List Nat) (e : CsEntry) : Nat :=
  let b := if e.phys then e.bayF else map.getD e.bayF 63
  if e.cls = 3 then 1000 + 16 * e.idx + e.que else 16 * b + 4 * e.cls + e.que

/-- An entry of a placed sheet, BATCH entries expanded into their packets. -/
def State.scEntries (s : State) (map : List Nat) (e : CsEntry) : List ScEntry :=
  let none3 : ScEntry := { kind := 3, wait := none, set := none, clear := none, queue := 0 }
  match e.kind with
  | 1 => [scCmd (scQueue map e) (e.packet.getD 0 0)]
  | 2 => (List.range e.arg).map (fun i => scCmd (scQueue map e) (BitVec.ofNat 32 (s.memNat (e.batchAddr + 32 * i) 4)))
  | 3 => [{ none3 with kind := 0, wait := some e.arg }]
  | 4 => [{ none3 with kind := 2, set := some e.arg }]
  | 5 => [{ none3 with clear := some e.arg }]
  | _ => [none3]

/-- The entries of a sheet from entry 0 up to and including its END; none when it holds no END. -/
def upToEnd : List CsEntry → Option (List CsEntry)
  | [] => none
  | e :: l => if e.kind = 8 then some [e] else (upToEnd l).map (e :: ·)

/-- Scenes of a sheet: each ends with its SCENE or END entry. -/
def scenesOf : List CsEntry → List CsEntry → List (List CsEntry)
  | _, [] => []
  | acc, e :: l => if e.kind = 7 ∨ e.kind = 8 then (acc ++ [e]) :: scenesOf [] l else scenesOf (acc ++ [e]) l

/-- Queues and flags while static_check runs. -/
structure ScState where
  queues : Sparse (List ScEntry)
  flags : List Nat
  moved : Bool
deriving DecidableEq, Repr

def ScEntry.blocked (e : ScEntry) (static_ flags : List Nat) : Bool :=
  match e.wait with | some k => static_.contains k && !(flags.contains k) | none => false

/-- A sheet is read as far as it goes. -/
def scSheet (static_ : List Nat) : List ScEntry → ScState → List ScEntry × ScState
  | [], z => ([], z)
  | e :: l, z =>
    if e.kind = 0 then (if e.blocked static_ z.flags then (e :: l, z) else scSheet static_ l { z with moved := true })
    else if e.kind = 1 then
      let q := sget [] z.queues e.queue
      if q.length = 8 then (e :: l, z)
      else scSheet static_ l { z with queues := sset [] z.queues e.queue (q ++ [e]), moved := true }
    else if e.kind = 2 then scSheet static_ l { z with flags := z.flags ++ e.set.toList, moved := true }
    else scSheet static_ l { z with moved := true }

/-- A queue completes the commands at its head. -/
def scQueueRun (static_ : List Nat) : List ScEntry → ScState → List ScEntry × ScState
  | [], z => ([], z)
  | e :: l, z =>
    if e.blocked static_ z.flags then (e :: l, z)
    else scQueueRun static_ l { z with flags := z.flags ++ e.set.toList, moved := true }

/-- Every sheet, then every queue. -/
def scRound (static_ : List Nat) (sheets : List (List ScEntry)) (z : ScState) : List (List ScEntry) × ScState :=
  let r := sheets.foldl (fun (a : List (List ScEntry) × ScState) sh =>
    let t := scSheet static_ sh a.2
    (a.1 ++ [t.1], t.2)) ([], { z with moved := false })
  let keys := r.2.queues.map Prod.fst
  let z := keys.foldl (fun (z : ScState) k =>
    let t := scQueueRun static_ (sget [] z.queues k) z
    { t.2 with queues := sset [] t.2.queues k t.1 }) r.2
  (r.1, z)

def scRun (static_ : List Nat) : Nat → List (List ScEntry) → ScState → Bool
  | 0, _, _ => false
  | fuel + 1, sheets, z =>
    let r := scRound static_ sheets z
    if r.2.moved then scRun static_ fuel r.1 r.2 else r.1.all List.isEmpty && r.2.queues.isEmpty

/-- static_check of R272 over one scene of every sheet. -/
def staticCheck (sheets : List (List ScEntry)) : Bool :=
  let all := sheets.flatten
  let clears := all.filterMap ScEntry.clear
  let static_ := (all.filterMap ScEntry.set).filter (fun k => !(clears.contains k))
  scRun static_ (2 * all.length + 2) sheets { queues := [], flags := [], moved := false }

/-- A ring's entries as placed. -/
def State.ringOf (s : State) (addr n : Nat) : List CsEntry :=
  (List.range n).map (fun i => { index := i, addr := addr + 64 * i, bytes := s.memBytes (addr + 64 * i) 64 })

/-- Check 11 of Table 9.7, on the state in which the book has been placed. -/
def State.check11 (s : State) (p : Nat) (c : Context) (bs : List Byte) : Option LoadBad :=
  let ss := sectsOf bs
  let x := (sectOfType ss 0x01).getD (sectAt bs 0)
  let n := ringEntries s p x
  let map := (s.loopBays p).take (bkStations bs)
  let rings := (List.range (cpsOf s.shape p).length).map (fun i => upToEnd (s.ringOf (x.addr c + 64 * n * i) n))
  if rings.any Option.isNone then some (11, stMalformed, x.off)
  else
    let sheets := rings.map (fun r => r.getD [])
    let nums := sheets.map (fun l => (l.filter (fun e => decide (e.kind = 7))).map CsEntry.arg)
    let first := nums.headD []
    let scenes := sheets.map (scenesOf [])
    let scene := fun (k : Nat) => scenes.map (fun l => ((l.getD k []).map (s.scEntries map)).flatten)
    if nums.any (fun l => decide (l ≠ first)) || decide (bkScenes bs ≠ first.length + 1) then some (11, stMalformed, x.off)
    else if (List.range (first.length + 1)).any (fun k => !(staticCheck (scene k))) then some (11, stMalformed, x.off)
    else none

/-- Checks 1 to 11, in order (Table 9.7). -/
def State.loadChecks (s : State) (p : Nat) (c : Context) (bs : List Byte) (length : Nat) : Option LoadBad :=
  let one := fun (b : Bool) (n st off : Nat) => if b then some (n, st, off) else none
  let sign := sectOfType (sectsOf bs) 0x0D
  (check1 bs length).or <|
  (one (decide (bookDigest bs ≠ leNat (bkMeasure bs))) 2 stMalformed 0x40).or <|
  (one (match sign with | some x => !(s.signOk bs x) | none => bit s.ymr.policy 0) 3 stAuth (sign.elim 0x0E Sect.off)).or <|
  (one (decide (numAt bs 0x06 1 ≠ 1)) 4 stContract 0x06).or <|
  (one (decide (bkShape bs ≠ s.shape)) 5 stRange 0x07).or <|
  (one (bkDress bs != c.dress) 5 stRange 0x0E).or <|
  (one (decide ((s.loopBays p).length < bkStations bs)) 6 stNoEngine 0x08).or <|
  (one (decide (c.hbmSize < bkHbmNeed bs)) 7 stRange 0x18).or <|
  (one (decide (c.ddrSize < bkDdrNeed bs)) 7 stRange 0x20).or <|
  (one (decide (c.spBytes < bkSpNeed bs)) 7 stRange 0x28).or <|
  (s.check8 p bs).or <| (check9 bs).or <| (s.check10 p bs).or <| (s.placeBook p c bs).check11 p c bs

/-- STN_LINKCFG of a station for a partition's loop (R41, Tables 2.2 and 2.3). No value opens a splice: the spec does not say
who opens a company revolve, and the model leaves it to register writes of STN_LINKCFG (DESIGN CHOICE, entry 174). -/
def loopCfg (shape p st : Nat) : Word :=
  let l := loopStations shape p
  let n := max 1 l.length
  let i := (l.findIdx? (fun x => decide (x = st))).getD 0
  let next := l.getD ((i + 1) % n) 0
  let prev := l.getD ((i + n - 1) % n) 0
  let out := fun a b => b2n (decide (ringNext a .cw ≠ b))
  wordOf [(out prev st, 15, 14), (out st next, 13, 12), (out st next, 11, 10), (out prev st, 9, 8),
          (if shape = 4 then 2 else if shape = 2 then 1 else 0, 1, 0)]

/-- Curtains of a context from the values of a PLAN (R271 step 2). -/
def planCurtains (plan : List Word) (n : Nat) : Sparse Curtain :=
  (List.range 16).foldl (fun m k =>
    let w := plan.getD (2 * (n + 1) + k) 0
    sset Curtain.off m k { Curtain.off with chain := bit w 31, count := fld w 13 0 }) []

/-- STN_LINKCFG in every bay of the die, fused bays among them, by the die's shape (R41). A bay of another partition that
runs keeps its value, as R69 has a write to it ignored (entry 179). -/
def State.writeLinks (s : State) (p : Nat) : State :=
  (List.range 48).foldl (fun s b =>
    if s.partOfBay b ≠ p ∧ (s.bay b).running then s
    else s.writeLinkcfg b (loopCfg s.shape (s.partOfBay b) (stationOfBay b))) s

/-- Step 2 of R271: links, slot plans and the mapping of the partition's bays. -/
def State.writeBays (s : State) (p : Nat) (map : List Nat) (plan : List Word) (n : Nat) : State :=
  (s.baysOf p).foldl (fun s b =>
    let lb := (List.range n).find? (fun j => decide (map[j]? = some b))
    let w := planOf plan n lb
    let s := (s.writeXslot b false w.1).writeXslot b true w.2
    s.setBay b { s.bay b with passThrough := lb.isNone }) (s.writeLinks p)

/-- CP_LMAP of a map of logical bays. -/
def lmapWord (map : List Nat) (w : Nat) : Word :=
  wordOf ((List.range 4).map (fun i =>
    match map[4 * w + i]? with
    | some b => (0x80 + b, 8 * i + 7, 8 * i)
    | none => (0, 8 * i + 7, 8 * i)))

/-- Step 3 of R271: the cue-processor registers of a context and the logical-bay map (Table 9.16). -/
def State.writeCps (s : State) (p c : Nat) (map : List Nat) (sheets entries : Nat) : State :=
  let x := s.ctx p c
  let cps := cpsOf s.shape p
  (List.range cps.length).foldl (fun s i =>
    let n := cps.getD i 0
    let ring := sheets + 64 * entries * i
    let r := fun (s : State) (off : Nat) (v : Word) => s.setReg (aCp n (0x1000 + 0x40 * c + off)) v
    let s := (List.range 12).foldl (fun s w => s.setReg (aCp n (0x100 + 4 * w)) (lmapWord map w)) s
    let s := r (r (r s 0x04 (lo32 ring)) 0x08 (lo32 (ring / 2 ^ 32 % 65536))) 0x0C (lo32 entries)
    let s := r (r (r s 0x1C (lo32 x.hbmBase)) 0x20 (lo32 (x.hbmBase / 2 ^ 32 % 65536))) 0x24 (lo32 (x.hbmSize / 4096))
    let s := r (r (r s 0x28 (lo32 x.ddrBase)) 0x2C (lo32 (x.ddrBase / 2 ^ 32 % 65536))) 0x30 (lo32 (x.ddrSize / 4096))
    let lo := x.spFirst / 4096
    let spq := if x.spBytes = 0 then wordOf [(1, 23, 12), (0, 11, 0)] else wordOf [(lo, 23, 12), (lo + x.spBytes / 4096 - 1, 11, 0)]
    r s 0x34 spq) s

/-- The final steps of R271 for a loaded context, as a load and a reload write them (R428). The mapping they leave,
PASS_THROUGH and CP_LMAP, is the last load's: two books of a partition that differ in LSTATIONS share it, also while the
other runs (DESIGN CHOICE, entry 180). -/
def State.loadRegs (s : State) (p c : Nat) (b : Book) : State :=
  let map := (s.loopBays p).take b.lstations
  let sheets := (b.placed.find? (fun q => decide (q.1 = 1))).getD (1, 1, 0, 0)
  let s := s.writeBays p map b.plan b.lstations
  s.writeCps p c map sheets.2.2.1 (sheets.2.2.2 / (64 * max 1 (cpsOf s.shape p).length))

/-- The curtains of a loaded context: its own, and the partition's registers while none is switched in. -/
def State.loadCurtains (s : State) (p c : Nat) (cu : Sparse Curtain) : State :=
  let s := s.setCtx p c { s.ctx p c with curtains := cu }
  if (s.curCtx p).isNone then (List.range 16).foldl (fun s k => s.setCurtain p k (sget Curtain.off cu k)) s else s

/-- The record of a book that has passed every check. -/
def bookOf (bs : List Byte) (c : Context) : Book :=
  let ss := sectsOf bs
  let at_ := fun t => (sectOfType ss t).map (fun x => x.addr c)
  { measure := bkMeasure bs, lstations := bkStations bs, nscene := bkScenes bs,
    placed := (ss.filter (fun x => decide (x.place ≠ 0))).map (fun x => (x.type, x.place, x.addr c, x.size)),
    relocs := relocsOf bs c, patches := (patchesOf bs c).filter (fun e => decide (4 ≤ e.2.1)), bound := [],
    shardRec := (at_ 0x08).getD 0, xrec := at_ 0x07, tensors := at_ 0x04,
    ntensors := (sectOfType ss 0x04).elim 0 (fun x => x.size / 32), plan := planWords bs }

/-- A book is loaded: the context is loaded and stopped. -/
def State.loadBook (s : State) (p c : Nat) (bs : List Byte) : State :=
  let x := s.ctx p c
  let b := bookOf bs x
  let s := s.placeBook p x bs
  let s := s.setCtx p c { x with book := some b, st := 2, progress := 0, credit := [], rdptr := [], passes := 0, midPass := false,
                                 stnFlags := [], shFlags := [] }
  (s.loadCurtains p c (planCurtains b.plan b.lstations)).loadRegs p c b

/-- The reply of LOAD_BOOK (Table 12.6). -/
def loadReply (check off : Nat) (measure : List Byte) : List Byte := toLE 1 check ++ toLE 7 0 ++ toLE 8 off ++ measure

/-- LOAD_BOOK (R271). -/
def execLoadBook (h : PcpHdr) (addr length : Nat) (s : State) : Out :=
  pcpDo { op := 0x20, role := .tenant, scope := .context, need := 16, offOk := false } h (fun h s =>
    let p := hdrPart h
    let c := hdrCtx h
    let x := s.ctx p c
    if x.st ≠ 1 then s.reply h 0x20 stBusy []
    else if x.hbmOk addr length = false then s.reply h 0x20 stRange []
    else
      match s.readBlocks (blocksOf addr length) with
      | (s, some b) => s.reply h 0x20 stMalformed (loadReply 12 (b - addr) [])
      | (s, none) =>
        let bs := s.memBytes addr length
        if addr < x.hbmBase + bkHbmNeed bs then s.reply h 0x20 stRange []
        else
          match s.loadChecks p x bs length with
          | some (n, st, off) => s.reply h 0x20 st (loadReply n off [])
          | none => (s.loadBook p c bs).reply h 0x20 stOk (loadReply 0 0 (bkMeasure bs))) s

/-- Every symbol of a context's book is bound (R267). -/
def Context.allBound (x : Context) : Bool :=
  match x.book with
  | some b => b.patches.all (fun e => b.bound.any (fun k => decide (k.1 = e.2.1) && decide (k.2.1 = e.2.2.2)))
  | none => true

/-- A PATCH entry is acceptable (Table 12.6). -/
def State.patchEntryOk (s : State) (e : PatchEntry) : Bool :=
  if e.kind = 4 then decide (e.value < 256) && !((s.cast e.value).members.isEmpty)
  else if e.kind = 5 then true
  else if e.kind = 6 then decide (e.value < 64) else false

/-- Bind a symbol and rewrite its fields from the book's content (R267). -/
def State.bindSymbol (s : State) (p c : Nat) (e : PatchEntry) : State :=
  let x := s.ctx p c
  match x.book with
  | none => s
  | some b =>
    let hit := b.patches.filter (fun q => decide (q.2.1 = e.kind) && decide (q.2.2.2 = e.symbol))
    let bound := b.bound.filter (fun k => !(decide (k.1 = e.kind) && decide (k.2.1 = e.symbol))) ++ [(e.kind, e.symbol, e.value)]
    let s := s.setCtx p c { x with book := some { b with bound := if hit.isEmpty then b.bound else bound } }
    hit.foldl (fun s q => s.writeMem q.1 (if e.kind = 5 then (toLE 16 e.value).reverse else toLE q.2.2.1 e.value)) s

/-- PATCH (R267, R462): every entry is checked before any is bound. -/
def execPatch (h : PcpHdr) (entries : List PatchEntry) (s : State) : Out :=
  pcpDo { op := 0x21, role := .tenant, scope := .context, need := 8 + 24 * entries.length, offOk := false } h (fun h s =>
    let p := hdrPart h
    let c := hdrCtx h
    let st := (s.ctx p c).st
    if st = 1 then s.reply h 0x21 stBusy []
    else if entries.isEmpty then s.reply h 0x21 stOk []
    else if st = 4 ∨ st = 5 then s.reply h 0x21 stBusy []
    else if entries.all s.patchEntryOk then (entries.foldl (fun s e => s.bindSymbol p c e) s).reply h 0x21 stOk []
    else s.reply h 0x21 stRange []) s

/-- A surviving context's book is relocated onto the bays that are still active, and its registers are written again
(R428). -/
def State.reloadBook (s : State) (p c : Nat) : State :=
  match (s.ctx p c).book with
  | some b =>
    let map := (s.loopBays p).take b.lstations
    let s := b.relocs.foldl (fun s r => s.putReloc map r) s
    s.loadRegs p c b
  | none => s

end Sys2Proof.Machine
end

