-- ==== Sys2Proof/Machine/Sessions.lean ====
section
/-!
DEFINITION. Machine/Sessions.lean: what Yemir answers about the module, sessions and their credentials, attestation,
the event log, firmware slots and cast lists (R355 to R358, R363, R391, R402 to R414).
-/
namespace Sys2Proof.Machine

/-- Digest of the public identity key, to 32 bytes (R402). -/
def State.identDigest (s : State) : List Byte := toLE 32 (Config.digest (Config.identityKey s.fuse.identitySeed))

/-- The active firmware slot. -/
def State.activeFw (s : State) : FwSlot := if s.ymr.activeB then s.ymr.slotB else s.ymr.slotA

def regBytes (s : State) (l : List Nat) : List Byte := (l.map (fun a => toLE 4 (s.regValue a).toNat)).flatten

/-- DISCOVER (Table 12.6, R355). -/
def execDiscover (h : PcpHdr) (s : State) : Out :=
  pcpDo { op := 0x01, role := .any, scope := .module, need := 0, offOk := true } h (fun h s =>
    s.reply h 0x01 stOk (regBytes s [0x0, 0x4, 0x8, 0xC] ++ toLE 1 (s.chain.addr.getD 0xFF) ++ toLE 1 s.ymr.st ++
      toLE 1 (b2n (s.eth.link && s.eth.slow)) ++ [0] ++ s.identDigest ++ toLE 4 s.activeFw.version.toNat)) s

/-- The 16 fixed bytes of CAST_SET as they would set a list again, BIND zero (R363, R411). -/
def castBytes (g : Nat) (c : CastList) : List Byte :=
  toLE 1 g ++ toLE 1 (b2n c.ethernet) ++ toLE 1 c.members.length ++ toLE 1 (b2n c.carry) ++ toLE 2 c.deadline ++ toLE 2 0 ++
    toLE 4 c.epoch.toNat ++ toLE 1 (c.uplink.getD 0xFF) ++ toLE 3 0 ++
    (c.members.map (fun m => if c.ethernet then (toLE 16 m).reverse else toLE 1 m)).flatten

/-- The cast lists a context is bound to: set, and its BIND entry holds their epoch (R222, R228). -/
def State.boundCasts (s : State) (p c : Nat) : List (Nat × CastList) :=
  if (s.xaddr p c).isSome then s.casts.filter (fun kv => !kv.2.members.isEmpty && s.epochOk p c kv.1) else []

/-- The contexts of the partitions in a mask, in ascending order. -/
def State.contextsIn (s : State) (mask : BitVec 8) : List (Nat × Nat) :=
  ((List.range 64).filter (fun k => mask.getLsbD (k / 16) && decide ((s.ctx (k / 16) (k % 16)).st ≠ 0))).map (fun k => (k / 16, k % 16))

/-- A context entry of the attestation report (Table 14.11). -/
def State.attestEntry (s : State) (k : Nat × Nat) : List Byte :=
  let x := s.ctx k.1 k.2
  toLE 1 k.1 ++ toLE 1 k.2 ++ toLE 1 x.st ++ toLE 1 (b2n x.dress) ++ toLE 4 (s.stepOf k.1 k.2).toNat ++
    fitTo 64 (x.book.elim [] Book.measure) ++
    toLE 32 (Config.digest ((s.boundCasts k.1 k.2).map (fun g => castBytes g.1 g.2)).flatten) ++ toLE 8 0

/-- The image of a firmware slot from an offset. -/
def FwSlot.bytes (f : FwSlot) (off n : Nat) : List Byte := (List.range n).map (fun i => sget 0 f.image (off + i))
def FwSlot.num (f : FwSlot) (off n : Nat) : Nat := leNat (f.bytes off n)

/-- The attestation report (Table 14.11). -/
def State.report (s : State) (nonce : Nat) (mask : BitVec 8) : List Byte :=
  let fw := s.activeFw
  let l := s.contextsIn mask
  toLE 4 0x54415A4F ++ toLE 2 1 ++ [mask, 0] ++ toLE 32 nonce ++ s.identDigest ++ toLE 4 fw.version.toNat ++
    toLE 1 s.ymr.rollback ++ toLE 3 0 ++ toLE 64 (Config.digest (fw.bytes 0 (4096 + fw.num 16 8))) ++
    regBytes s [0x0, 0x4, 0x8, 0xC] ++ toLE 8 s.clock.house ++ toLE 1 s.ymr.score ++ toLE 1 (s.chain.addr.getD 0xFF) ++
    toLE 2 l.length ++ toLE 4 s.ymr.policy.toNat ++ toLE 32 (s.ymr.owner.getD 0) ++ (l.map s.attestEntry).flatten

/-- ATTEST (R411): ST_AUTH once no signature can be made (R403). -/
def execAttest (h : PcpHdr) (nonce : Nat) (mask : BitVec 8) (s : State) : Out :=
  pcpDo { op := 0x02, role := .any, scope := .module, need := 40, offOk := true } h (fun h s =>
    let r := s.report nonce mask
    match s.sign r with
    | (s, some sig) => s.reply h 0x02 stOk (r ++ sig)
    | (s, none) => s.reply h 0x02 stAuth []) s

/-- The credential of a role holds (R407), over bytes 0 to 1,607 of the request as received. -/
def State.credentialOk (s : State) (role : Nat) (req : List Byte) (c : Credential) : Bool :=
  let msg := toLE 64 (Config.digest (req.take 1608))
  match s.ymr.owner with
  | none => false
  | some d =>
    if role = 0 then
      decide (Config.digest (toLE 64 c.ownerKey) % 2 ^ 256 = d) && Config.xmssValid d msg c.requestSig
    else
      let body := toLE 4 c.oid.toNat ++ toLE 64 c.tenantKey ++ toLE 1 c.part ++ [c.tenantGen] ++ toLE 2 0
      decide (role ≤ 4) && decide (c.part = role - 1) && decide (c.tenantGen.toNat = fld s.ymr.policy 15 8) &&
        Config.xmssValid d body c.ownerSig && Config.xmssValid (Config.digest (toLE 64 c.tenantKey) % 2 ^ 256) msg c.requestSig

/-- The first of v, v + 1, … that is not 0 and not the id of an open session. -/
def unusedId (used : List (BitVec 64)) : Nat → BitVec 64 → BitVec 64
  | 0, v => v
  | fuel + 1, v => if v = 0 ∨ used.contains v = true then unusedId used fuel (v + 1) else v

/-- The 64 bytes of K (R357): shared secret, host nonce, device nonce, session id. -/
def sessionKey (secret : List Byte) (hostNonce : Nat) (deviceNonce : List Byte) (id : BitVec 64) : Nat :=
  Config.digest (secret ++ toLE 32 hostNonce ++ deviceNonce ++ toLE 8 id.toNat)

/-- A session that has been checked is opened, and the reply signed over the request as received (R357). -/
def State.openSession (s : State) (h : PcpHdr) (role encap nonce : Nat) (c : Credential) : State :=
  let (s, dn) := s.freeBytes 32
  let id := unusedId (s.ymr.sessions.map Session.id) 18 (Config.freeValue 64 s.free)
  let s := { s with free := s.free + 2 }
  let r := fitTo 1568 (Config.kemCiphertext encap (s.free - 1)) ++ dn ++ toLE 8 id.toNat
  match s.sign (h.body ++ r) with
  | (s, none) => s.reply h 0x03 stAuth []
  | (s, some sig) =>
    let x : Session :=
      { id := id, role := role, peer := h.peer, lastSeq := none, lastTime := s.now, tenantGen := c.tenantGen,
        key := sessionKey (Config.kemSecret encap (s.free - 1)) nonce dn id, open_ := 0 }
    let s := s.reply h 0x03 stOk (r ++ sig)
    { s with ymr := { s.ymr with sessions := s.ymr.sessions ++ [x] } }

/-- SESSION_OPEN (R357, R405, R407): ST_BUSY at 16 open sessions. -/
def execSessionOpen (h : PcpHdr) (role encap nonce : Nat) (cred : Credential) (s : State) : Out :=
  pcpDo { op := 0x03, role := .any, scope := .module, need := 1608, offOk := true } h (fun h s =>
    if 16 ≤ s.ymr.sessions.length then s.reply h 0x03 stBusy []
    else if s.credentialOk role h.body cred then s.openSession h role encap nonce cred
    else (s.authFail role 10).reply h 0x03 stAuth []) s

/-- Close the sessions that a test picks. -/
def State.closeSessions (s : State) (f : Session → Bool) : State :=
  { s with ymr := { s.ymr with sessions := s.ymr.sessions.filter (fun x => !(f x)) } }

/-- SESSION_CLOSE (R356, Table 12.6): the keys go with the session. -/
def execSessionClose (h : PcpHdr) (s : State) : Out :=
  pcpDo { op := 0x04, role := .session, scope := .module, need := 0, offOk := true } h (fun h s =>
    (s.reply h 0x04 stOk []).closeSessions (fun x => decide (x.id = h.session))) s

/-- SESSION_IDLE_TIMEOUT (R356): 300 s have passed without an accepted request of session i. -/
def execSessionIdleTimeout (i : Nat) (s : State) : Out :=
  match s.ymr.sessions[i]? with
  | some x =>
    if s.ymrUp && decide (x.lastTime + 300000000000 ≤ s.now) then
      .next (s.closeSessions (fun y => decide (y.id = x.id)))
    else idle s
  | none => idle s

/-- Whole degrees of a reading in quarters or tenths. -/
def State.hottestBay (s : State) : Nat := s.hottest (List.range 48) / 4

/-- Module power in W: input voltage in 10 mV times current in 50 mA. -/
def Sensors.watts (x : Sensors) : Nat := x.vin * x.iin / 2000

/-- The HEALTH reply (R358): with entries for the contexts that the role may see. -/
def State.health (s : State) (role : Option Nat) : List Byte :=
  let x := s.ymr.sensors
  let flags := b2n s.throttling + 2 * b2n s.clock.refLost + 4 * b2n (s.eth.link && s.eth.slow)
  let head := toLE 1 s.ymr.st ++ toLE 1 s.ymr.score ++ toLE 1 (x.inlet / 10) ++ toLE 1 (x.outlet / 10) ++ toLE 1 s.hottestBay ++
    toLE 1 flags ++ toLE 2 (min 0xFFFF x.watts) ++ toLE 8 s.clock.house ++ toLE 16 0
  match role with
  | none => head
  | some r =>
    let entry := fun (k : Nat) =>
      let y := s.ctx (k / 16) (k % 16)
      if r = 0 ∨ r = 1 + k / 16 then
        toLE 4 y.progress.toNat ++ toLE 4 (y.creditOf (leadCp s.shape (k / 16))) ++ toLE 1 y.st ++ toLE 7 0
      else toLE 16 0
    head ++ regBytes s [aFlt 0x1000, aFlt 0x1004] ++ ((List.range 64).map entry).flatten

/-- HEALTH (R358). -/
def execHealth (h : PcpHdr) (s : State) : Out :=
  pcpDo { op := 0x38, role := .any, scope := .module, need := 0, offOk := true } h (fun h s =>
    s.reply h 0x38 stOk (s.health (s.roleOf h))) s

/-- The bytes of a log entry (Table 14.4). -/
def LogEntry.bytes (e : LogEntry) : List Byte :=
  toLE 8 e.number ++ toLE 8 e.time ++ toLE 2 e.code ++ toLE 1 (64 * e.severity + 32 * b2n e.ht) ++ toLE 1 e.dropped ++
    toLE 2 e.loc ++ toLE 1 e.risk ++ [0] ++ toLE 8 e.data

/-- LOG_READ (R391): in number order, from the first asked for or the oldest held. -/
def execLogRead (h : PcpHdr) (first max : Nat) (s : State) : Out :=
  pcpDo { op := 0x39, role := .session, scope := .module, need := 9, offOk := true } h (fun h s =>
    let l := (s.ymr.log.filter (fun e => decide (first ≤ e.number))).take (max % 256)
    s.reply h 0x39 stOk (l.map LogEntry.bytes).flatten) s

/-- Bytes of a firmware slot (Table 14.2). -/
def fwSlotBytes : Nat := 48 * 2 ^ 20

/-- Write bytes of an image. -/
def putImage (m : Sparse Byte) (off : Nat) : List Byte → Sparse Byte
  | [] => m
  | b :: bs => putImage (sset 0 m off b) (off + 1) bs

/-- FW_STAGE (R413): a stage cancels a pending commit of its slot. -/
def execFwStage (h : PcpHdr) (offset : Nat) (image : List Byte) (s : State) : Out :=
  pcpDo { op := 0x3A, role := .owner, scope := .module, need := 8, offOk := true } h (fun h s =>
    if image.isEmpty then s.reply h 0x3A stOk []
    else if fwSlotBytes < offset + image.length then s.reply h 0x3A stRange []
    else
      let f := s.inactiveFw
      (s.setInactiveFw { f with valid := false, pending := false, fails := 0, image := putImage f.image offset image }).reply h 0x3A stOk []) s

/-- What FW_COMMIT finds wrong: the check of R413 and its status. -/
def State.fwBad (s : State) (f : FwSlot) (length : Nat) : Option (Nat × Nat) :=
  if fwSlotBytes < length then some (2, stRange)
  else if f.num 0 4 ≠ 0x57465A4F ∨ length ≠ 4096 + f.num 16 8 then some (3, stMalformed)
  else if Config.xmssValid s.fuse.vendorRoot (f.bytes 0 88) (f.bytes 88 4008) = false ∨
      f.num 24 64 ≠ Config.digest (f.bytes 4096 (length - 4096)) % 2 ^ 512 then some (4, stAuth)
  else if f.num 12 1 < s.ymr.rollback then some (5, stAuth)
  else none

/-- FW_COMMIT (R413): the staged image is verified and its slot becomes pending. -/
def execFwCommit (h : PcpHdr) (length : Nat) (s : State) : Out :=
  pcpDo { op := 0x3B, role := .owner, scope := .module, need := 4, offOk := false } h (fun h s =>
    let f := s.inactiveFw
    if length = 0 then s.reply h 0x3B stOk []
    else
      match s.fwBad f length with
      | some (k, st) => ((s.logEvent 0x0009 whereModule k).setAlert 0x20).reply h 0x3B st []
      | none =>
        let f := { f with valid := true, version := BitVec.ofNat 32 (f.num 8 4), rollback := f.num 12 1 % 64,
                          advance := (f.num 13 1).testBit 0, pending := true, fails := 0 }
        ((s.setInactiveFw f).setAlert 0x20).reply h 0x3B stOk []) s

/-- A member is present: in the enumerated chain, or in the neighbour table or this module itself (R363). -/
def State.memberPresent (s : State) (eth : Bool) (m : Nat) : Bool :=
  if eth then s.eth.neighbours.contains m || s.ownAddrs.contains m
  else s.chain.addr.isSome && decide (m < s.chain.count)

/-- The status of a CAST_SET (R363, R443). -/
def State.castStatus (s : State) (p : Nat) (c : CastParams) : Nat :=
  let old := s.cast c.cast
  let own := if c.ethernet then c.members.any (fun m => s.ownAddrs.contains m) else c.members.any (fun m => decide (s.chain.addr = some m))
  let same := decide (old.ethernet = c.ethernet) && decide (old.members = c.members)
  if 255 < c.cast ∨ 64 < c.members.length ∨ c.epoch = 0xFFFFFFFF ∨ c.epoch.toNat < old.epoch.toNat ∨
      (c.epoch = old.epoch ∧ same = false) ∨ c.members.all (s.memberPresent c.ethernet) = false ∨ own = false then stRange
  else if (List.range 16).any (fun k => c.bind.getLsbD k && decide ((s.ctx p k).st = 4 ∨ (s.ctx p k).st = 5)) then stBusy
  else stOk

/-- CAST_SET (R363): the list takes its membership and epoch, and each bound context's BIND entry the epoch; a deadline
of 0 is 200 µs (R238). -/
def execCastSet (h : PcpHdr) (c : CastParams) (s : State) : Out :=
  let width := if c.ethernet then 16 else 1
  pcpDo { op := 0x40, role := .tenant, scope := .partition, need := 16 + width * c.members.length, offOk := false } h (fun h s =>
    let p := hdrPart h
    if c.members.isEmpty then s.reply h 0x40 stOk []
    else
      let st := s.castStatus p c
      if st ≠ stOk then s.reply h 0x40 st []
      else
        let l : CastList :=
          { ethernet := c.ethernet, carry := c.carry, deadline := if c.deadline = 0 then 200 else c.deadline, epoch := c.epoch,
            uplink := if c.ethernet then none else c.uplink, members := c.members }
        let s := s.setCast c.cast l
        let s := (List.range 16).foldl (fun s k =>
          if c.bind.getLsbD k then s.xput p k (0x100 + 4 * c.cast) 4 c.epoch.toNat else s) s
        s.reply h 0x40 stOk []) s

end Sys2Proof.Machine
end

