-- ==== Sys2Proof/Machine/Snapshots.lean ====
section
/-!
DEFINITION. Machine/Snapshots.lean: snapshots as bytes: the manifest and the chunks, the own slot in the reserve, and the
owner's reads and writes of it (R436 to R440).
-/
namespace Sys2Proof.Machine

/-- Bytes of a chunk, and of a signature (R402, R438). -/
def chunkBytes : Nat := 2 ^ 20
def sigBytes : Nat := 9893

/-- Chunks of a snapshot of so many bytes, and the bytes of the whole with its manifest (R438). -/
def chunksOf (n : Nat) : Nat := (n + chunkBytes - 1) / chunkBytes
def headOf (n : Nat) : Nat := 256 + 32 * chunksOf n + sigBytes
def snapBytes (n : Nat) : Nat := headOf n + chunkBytes * chunksOf n

def Snapshot.body (x : Snapshot) : Nat := x.image + x.state
def Snapshot.size (x : Snapshot) : Nat := snapBytes x.body

/-- Ciphertext of chunk i (R438). -/
def Snapshot.chunk (x : Snapshot) (i : Nat) : List Byte :=
  (List.range chunkBytes).map (fun j => Config.snapByte x.cipher (chunkBytes * i + j))

/-- The manifest up to its signature (Table 15.3). -/
def Snapshot.manifest (x : Snapshot) (signer : List Byte) : List Byte :=
  let n := chunksOf x.body
  toLE 4 0x4E535A4F ++ toLE 2 1 ++ toLE 2 0 ++ toLE 8 x.id.toNat ++ fitTo 64 x.measure ++ toLE 32 x.owner ++ fitTo 64 signer ++
    toLE 8 x.image ++ toLE 8 x.state ++ toLE 4 n ++ toLE 60 0 ++
    ((List.range n).map (fun i => toLE 32 (Config.digest (x.chunk i)))).flatten

/-- The whole snapshot: manifest, signature, chunks. -/
def Snapshot.bytes (x : Snapshot) (signer : List Byte) : List Byte :=
  x.manifest signer ++ fitTo sigBytes x.sig ++ ((List.range (chunksOf x.body)).map x.chunk).flatten

/-- Bytes of a snapshot from an offset, zero past its end. -/
def State.snapPart (s : State) (x : Snapshot) (off n : Nat) : List Byte :=
  fitTo n (((x.bytes (Config.identityKey s.fuse.identitySeed)).drop off).take n)

/-- The own slot holds a block of a snapshot at an address. -/
def Snapshot.holds (x : Snapshot) (a : Nat) : Bool := x.own && x.complete && decide (x.addr ≤ a) && decide (a < x.addr + x.size)

/-- A read of a block that lies in an own slot returns the snapshot's bytes while nothing else has been written there. -/
def State.snapRead (s : State) (a : Nat) (bs : List Byte) : List Byte :=
  match s.inter.snaps.find? (fun x => x.holds a) with
  | some x => if x.dirty.contains ((a - x.addr) / 256) then bs else s.snapPart x (a - x.addr) 256
  | none => bs

/-- A snapshot after a write of a block at an address: its own bytes mend the block, any others spoil it. -/
def Snapshot.written (x : Snapshot) (s : State) (a : Nat) (bs : List Byte) : Snapshot :=
  if x.holds a then
    let k := (a - x.addr) / 256
    let rest := x.dirty.filter (fun j => decide (j ≠ k))
    { x with dirty := if bs = s.snapPart x (a - x.addr) 256 then rest else rest ++ [k] }
  else x

/-- The owner has written n blocks from a (R437). -/
def State.snapWrite (s : State) (a n : Nat) (bs : List Byte) : State :=
  let one := fun (x : Snapshot) => (List.range n).foldl (fun (x : Snapshot) i => x.written s (a + 256 * i) ((bs.drop (256 * i)).take 256)) x
  { s with inter := { s.inter with snaps := s.inter.snaps.map one } }

/-- The snapshot in a context's own slot. -/
def State.ownSnap (s : State) (p c : Nat) : Option Snapshot :=
  s.inter.snaps.find? (fun x => x.own && decide (x.part = p) && decide (x.ctx = c))

/-- A replication goes to the buddy over VL3: the manifest and the chunks in ascending order, so the image first and the state
halves after (R435, R438; entry 203). While a reset is in progress it waits, to start from its beginning. -/
def State.replicate (s : State) : State :=
  match s.buddy, s.ownSnap s.inter.part s.inter.ctx with
  | some b, some x =>
    if decide (s.inter.phase = 4) && !s.inter.replicaSent && s.resets.all (fun r => decide (r.level = 0)) then
      let s := { s with inter := { s.inter with replicaSent := true, progressAt := s.clock.house } }
      s.chainSend (s.chain.portTo b) 3 b false (x.bytes (Config.identityKey s.fuse.identitySeed))
    else s
  | _, _ => s

/-- A place of n bytes in the reserve clear of the other contexts' own slots (R440). -/
def State.slotFits (s : State) (p c a n : Nat) : Bool :=
  let r := resvOf (s.reg (aFlt 0x2020))
  decide (r.1 ≤ a) && decide (a + n ≤ r.1 + r.2) &&
    s.inter.snaps.all (fun x => !x.own || (decide (x.part = p) && decide (x.ctx = c)) || !(rangesMeet a n x.addr x.slot))

/-- The own slot of a context for a snapshot of n bytes: the one it has if that is large enough, else a place the spec
leaves open (entry 33): a free one, or the first that fits when the free one does not. -/
def State.slotFor (s : State) (p c n : Nat) : Option (Nat × Nat) :=
  match (s.ownSnap p c).filter (fun x => decide (n ≤ x.slot)) with
  | some x => some (x.addr, x.slot)
  | none =>
    let r := resvOf (s.reg (aFlt 0x2020))
    let any := r.1 + 4096 * ((Config.freeValue 40 s.free).toNat % max 1 (r.2 / 4096))
    let ends := (s.inter.snaps.filter Snapshot.own).map (fun x => (x.addr + x.slot + 4095) / 4096 * 4096)
    (([any, r.1] ++ ends).find? (fun a => s.slotFits p c a n)).map (fun a => (a, n))

end Sys2Proof.Machine
end

