-- ==== Sys2Proof/Machine/Contexts.lean ====
section
/-!
DEFINITION. Machine/Contexts.lean: contexts under PCP: creation and destruction, start and stop, credit, and the host's
reads and writes of the data space (R268 to R270, R278, R279, R298, R352, R354, R409, R462).
-/
namespace Sys2Proof.Machine

/-- The contexts of the die that exist: partition, number, record. -/
def State.liveCtxs (s : State) : List (Nat × Nat × Context) :=
  (s.ctxs.filter (fun kv => decide (kv.2.st ≠ 0))).map (fun kv => (kv.1 / 16, kv.1 % 16, kv.2))

/-- DDR quotas with their partitions, rising by base. -/
def insertQuota (q : Nat × Nat × Nat) : List (Nat × Nat × Nat) → List (Nat × Nat × Nat)
  | [] => [q]
  | r :: l => if q.1 ≤ r.1 then q :: r :: l else r :: insertQuota q l

/-- Touching quotas of one partition share a range. -/
def mergeQuotas : List (Nat × Nat × Nat) → List (Nat × Nat × Nat)
  | [] => []
  | q :: l =>
    match mergeQuotas l with
    | r :: rest => if q.1 + q.2.1 = r.1 ∧ q.2.2 = r.2.2 then (q.1, q.2.1 + r.2.1, q.2.2) :: rest else q :: r :: rest
    | [] => [q]

/-- The key ranges for a die's contexts (R298): slot p for partition p. -/
def keyRangesOf (l : List (Nat × Nat × Context)) : List KeyRange :=
  let qs := l.foldl (fun m x => if x.2.2.ddrSize = 0 then m else insertQuota (x.2.2.ddrBase, x.2.2.ddrSize, x.1) m) []
  (mergeQuotas qs).map (fun q => { page := (q.1 - ddrBase) / 4096, pages := q.2.1 / 4096, slot := q.2.2 })

/-- Yemir writes the key ranges from its context records (R298). -/
def State.setKeyRanges (s : State) : State := { s with keyRanges := keyRangesOf s.liveCtxs }

/-- Bytes of a bay's scratchpad. -/
def bayBytes : Nat := 128 * 0x20000

/-- The record that CTX_CREATE makes (R269). -/
def ctxOf (x : CtxParams) : Context :=
  { Context.free with st := 1, dress := x.dress, parent := if x.dress then x.parent % 16 else 0, hbmBase := x.hbmBase,
                      hbmSize := x.hbmSize, ddrBase := x.ddrBase, ddrSize := x.ddrSize, spFirst := x.spFirst,
                      spBytes := x.spBytes, key := x.key }

/-- Quotas are whole pages within installed memory, clear of every other quota of the die and of the reserve
(R269, R440). -/
def State.quotasOk (s : State) (x : CtxParams) : Bool :=
  let resv := resvOf (s.reg (aFlt 0x2020))
  [x.hbmBase, x.hbmSize, x.ddrBase, x.ddrSize, x.spFirst, x.spBytes].all (fun v => decide (v % 4096 = 0)) &&
    (decide (x.hbmSize = 0) || s.inHbm x.hbmBase x.hbmSize) && (decide (x.ddrSize = 0) || s.inDdr x.ddrBase x.ddrSize) &&
    decide (x.spFirst + x.spBytes ≤ bayBytes) &&
    s.liveCtxs.all (fun k => !(rangesMeet x.hbmBase x.hbmSize k.2.2.hbmBase k.2.2.hbmSize) &&
      !(rangesMeet x.ddrBase x.ddrSize k.2.2.ddrBase k.2.2.ddrSize)) &&
    !(rangesMeet x.ddrBase x.ddrSize resv.1 resv.2)

/-- The status of a CTX_CREATE (R268, R269, R291, R462). -/
def State.createStatus (s : State) (p c : Nat) (x : CtxParams) : Nat :=
  let known := fun (n : Nat) => decide (n = 1 ∨ n = 2 ∨ n = 4)
  let ref := if s.shape = 0 then x.shape else s.shape
  let par := s.ctx p (x.parent % 16)
  if known ref && decide (ref ≤ p) then stNoEngine
  else if s.partFenced p then stFenced
  else if known x.shape = false then stRange
  else if s.shape ≠ 0 ∧ x.shape ≠ s.shape then stBusy
  else if x.hbmSize ≠ 0 ∧ s.hbmReady = false then stNoEngine
  else if (s.ctx p c).st ≠ 0 ∨ s.quotasOk x = false ∨ 16 < (keyRangesOf (s.liveCtxs ++ [(p, c, ctxOf x)])).length ∨
      (x.dress = true ∧ (par.st < 2 ∨ par.dress = true ∨ par.book = none)) then stRange
  else stOk

/-- A tenant seed is drawn for a partition that holds no context, and its DDR key installed (R409). -/
def State.drawSeed (s : State) (p : Nat) : State :=
  let (s, n) := s.draw
  let s := s.setPart p { s.part p with seed := n, seedTime := s.clock.house }
  { s with keySlots := sset 0 s.keySlots p n }

/-- A context is created (R268, R269, R298, R184). -/
def State.createCtx (s : State) (p c : Nat) (x : CtxParams) : State :=
  let s := if s.partUsed p then s else s.drawSeed p
  let s := State.setCtx { s with shape := x.shape } p c (ctxOf x)
  let s := if s.curCtx p = some c then s.clearLive p else s
  s.setKeyRanges.numberPlain (.clearAll p) s.clock.house

/-- CTX_CREATE (Table 12.6). -/
def execCtxCreate (h : PcpHdr) (c : CtxParams) (s : State) : Out :=
  pcpDo { op := 0x22, role := .owner, scope := .module, need := 64, offOk := false } h (fun h s =>
    let st := s.createStatus (hdrPart h) (hdrCtx h) c
    if st ≠ stOk then s.reply h 0x22 st []
    else (s.createCtx (hdrPart h) (hdrCtx h) c).reply h 0x22 stOk []) s

/-- A byte of the scratchpad window lies in the quota of a context of a partition, and in no other's. -/
def State.spOnly (s : State) (p c : Nat) (a : Nat) : Bool :=
  let x := spBayOff a
  decide (spBase ≤ a) && decide (s.partOfBay x.1 = p) && (s.ctx p c).spOk x.2 1 &&
    s.liveCtxs.all (fun k => decide (k.1 ≠ p) || decide (k.2.1 = c) || !(k.2.2.spOk x.2 1))

/-- Zero over the scratchpad quota where no other context's quota overlaps (Table 12.6). -/
def State.wipeSp (s : State) (p c : Nat) : State :=
  let hit := s.spOnly p c
  let s := (s.baysOf p).foldl (fun s b =>
    let y := s.bay b
    s.setBay b { y with writeBack := y.writeBack.filter (fun w => !(hit (8 * w))) }) s
  { s with mem := s.mem.filter (fun kv => !(hit kv.1)), memErr := s.memErr.filter (fun kv => !(hit (8 * kv.1))) }

/-- The intermission in progress ends, and the next waiting one can begin. -/
def State.endInter (s : State) : State :=
  { s with inter := { s.inter with phase := 0, pinned := false, pinHalves := [], copyHost := false,
                                   reqs := s.inter.reqs.drop 1 } }

/-- The first waiting intermission begins at once when its context is in state 2 or 3 (R431). -/
def State.startInter (s : State) : State :=
  match s.inter.reqs with
  | r :: _ =>
    let st := (s.ctx r.part r.ctx).st
    if s.inter.phase = 0 ∧ (st = 2 ∨ st = 3) then s.beginStop else s
  | [] => s

/-- Intermissions of a context that wait, or that stop its partition now, end without a snapshot. -/
def State.dropInter (s : State) (p c status : Nat) : State :=
  let s := s.dropIntermissions p c status
  if s.inter.phase = 2 ∧ s.inter.part = p ∧ s.inter.ctx = c then
    let hdrs := (s.inter.reqs.headD { part := p, ctx := c, cause := 0, copyHost := false, hdrs := [], expires := none }).hdrs
    (hdrs.foldl (fun s h => s.reply h 0x30 status []) s).endInter.startInter
  else s

/-- The intermission of a context that goes away ends with it, whatever it was doing. -/
def State.leaveInter (s : State) (p c : Nat) : State :=
  let s := s.dropInter p c stBusy
  if s.inter.phase ≠ 0 ∧ s.inter.part = p ∧ s.inter.ctx = c then s.endInter.startInter else s

/-- A context's own slot is freed, and the buddy told over VL1 to free its replica (R440): the spec gives the message no
layout, so its bytes are free. -/
def State.freeOwnSlot (s : State) (p c : Nat) : State :=
  let mine := fun (x : Snapshot) => decide (x.part = p) && decide (x.ctx = c)
  let told := s.inter.snaps.any (fun x => mine x && x.replicated)
  let s := { s with inter := { s.inter with snaps := s.inter.snaps.filter (fun x => !(mine x)) } }
  match if told then s.buddy else none with
  | some b =>
    let (s, bs) := s.freeBytes 16
    s.chainSend (s.chain.portTo b) 1 b false bs
  | none => s

/-- Context p, c goes: quotas, key, record and own slot (Table 12.6, R268, R409, R440). -/
def State.destroyCtx (s : State) (p c : Nat) : State :=
  let x := s.ctx p c
  let quiet := s.ctxQuiet p c
  let s := ((s.dropQueued p c).leaveInter p c).freeOwnSlot p c
  let s := if s.inHbm x.hbmBase x.hbmSize then s.wipe x.hbmBase x.hbmSize else s.zeroRange x.hbmBase x.hbmSize
  let s := s.wipeSp p c
  let s := ((s.setCtx p c Context.free).setFaultRec p c none).setKeyRanges
  let s := s.setLink p ({ (s.link p).dropBuckets c with
    gathers := (s.link p).gathers.filter (fun g => decide (g.ctx ≠ c)),
    carried := (s.link p).carried.filter (fun e => decide (e.ctx ≠ c)) })
  let s := if s.partUsed p then s
    else { s.setPart p { s.part p with seed := 0, seedTime := 0 } with keySlots := sset 0 s.keySlots p 0 }
  let y := s.part p
  let s := if y.cur = some c ∧ quiet then s.setPart p { y with cur := none } else s
  if s.ctxs.isEmpty then { s with shape := 0, cps := [] } else s.trySwitch p

/-- CTX_DESTROY (Table 12.6). -/
def execCtxDestroy (h : PcpHdr) (s : State) : Out :=
  pcpDo { op := 0x23, role := .tenant, scope := .context, need := 0, offOk := false } h (fun h s =>
    let st := (s.ctx (hdrPart h) (hdrCtx h)).st
    if st = 4 ∨ st = 5 then s.reply h 0x23 stBusy []
    else (s.destroyCtx (hdrPart h) (hdrCtx h)).reply h 0x23 stOk []) s

/-- START (Table 12.6, R267, R220). -/
def execStart (h : PcpHdr) (s : State) : Out :=
  pcpDo { op := 0x24, role := .tenant, scope := .context, need := 0, offOk := false } h (fun h s =>
    let p := hdrPart h
    let c := hdrCtx h
    let x := s.ctx p c
    if x.st = 1 ∨ x.st = 6 then s.reply h 0x24 stBusy []
    else if x.st ≠ 2 then s.reply h 0x24 stOk []
    else if x.allBound then
      let s := (s.setCtx p c { x with st := 3 }).settleState p c
      (s.trySwitch p).reply h 0x24 stOk []
    else s.reply h 0x24 stRange []) s

/-- STOP (R279): at the next boundary in state 4 or 5, at once in state 3, nothing where it is stopped. -/
def execStop (h : PcpHdr) (timeout : Nat) (s : State) : Out :=
  pcpDo { op := 0x25, role := .tenant, scope := .context, need := 4, offOk := false } h (fun h s =>
    let p := hdrPart h
    let c := hdrCtx h
    let x := s.ctx p c
    if x.st = 3 then
      (((s.stopNow p c).startInter).trySwitch p).reply h 0x25 stOk []
    else if x.st = 4 ∨ x.st = 5 then
      let until_ := if timeout = 0 then none else some (s.clock.house + 1000 * timeout)
      let s := s.setCtx p c { x with st := 5, stops := x.stops ++ [(h, until_)] }
      { s with ymr := { s.ymr with busy := s.ymr.busy ++ [(hdrKey h, 0x25)] } }
    else s.reply h 0x25 stOk []) s

/-- STOP_TIMEOUT (R353): TIMEOUT has passed before the boundary; the context stays in state 5. -/
def execStopTimeout (p : Fin 4) (c : Fin 16) (s : State) : Out :=
  let x := s.ctx p c
  let isLate := fun (q : PcpHdr × Option Nat) => q.2.elim false (fun t => decide (t < s.clock.house))
  let late := x.stops.filter isLate
  let s := s.setCtx p c { x with stops := x.stops.filter (fun q => !(isLate q)) }
  .next (late.foldl (fun s q => s.reply q.1 0x25 stTimeout []) s)

/-- Credit in every cue processor of the partition (R278). -/
def State.addCredit (s : State) (p c n : Nat) : State :=
  let x := s.ctx p c
  let credit := (cpsOf s.shape p).foldl (fun m k => sset 0 m k (min 0xFFFFFFFF (x.creditOf k + n))) x.credit
  s.setCtx p c { x with credit := credit }

/-- A DOORBELL of the parent of the dress run that is switched in (R220). -/
def State.noteParent (s : State) (p c : Nat) : State :=
  match s.curCtx p with
  | some d =>
    let x := s.ctx p d
    if x.dress ∧ x.parent = c then s.setPart p { s.part p with parentRang := true } else s
  | none => s

/-- DOORBELL (R278, R220). -/
def execDoorbell (h : PcpHdr) (count : Word) (s : State) : Out :=
  pcpDo { op := 0x26, role := .tenant, scope := .context, need := 4, offOk := false } h (fun h s =>
    let p := hdrPart h
    let c := hdrCtx h
    let x := s.ctx p c
    if count = 0 then s.reply h 0x26 stOk []
    else if x.st = 1 ∨ x.st = 6 then s.reply h 0x26 stBusy []
    else
      let s := (((s.addCredit p c count.toNat).noteParent p c).settleState p c).trySwitch p
      s.reply h 0x26 stOk []) s

/-- Blocks of 256 bytes from a. -/
def blockAddrs (a n : Nat) : List Nat := (List.range n).map (fun i => a + 256 * i)

/-- An address of the data map that may lie in HBM or DDR (Table 0.5). -/
def inWings (a : Nat) : Bool := decide (a < hbmBytes) || (decide (ddrBase ≤ a) && decide (a < ddrBase + 2 ^ 41))

/-- A block of the scratchpad window in an active bay. -/
def State.spBlock (s : State) (a : Nat) : Bool :=
  decide (spBase ≤ a) && decide (a + 256 ≤ spBase + 6144 * 0x20000) && s.bayActive (spBayOff a).1

/-- A tenant's access lies in the quotas of the header's context (Table 12.6). -/
def State.tenantMem (s : State) (p c a n : Nat) : Bool :=
  let x := s.ctx p c
  decide (x.st ≠ 0) && (x.hbmOk a n || x.ddrOk a n || s.spWindowOk p c a n)

/-- The status of a MEM_READ or MEM_WRITE of n blocks (R13, R318, R422). -/
def State.memStatus (s : State) (h : PcpHdr) (a n : Nat) : Nat :=
  let l := blockAddrs a n
  if a % 256 ≠ 0 ∨ l.all (fun b => inWings b || s.spBlock b) = false then stRange
  else if l.any (fun b => inWings b && s.memFenced) || l.any (fun b => !(inWings b) && s.partFenced (s.partOfBay (spBayOff b).1)) then stFenced
  else if l.all (fun b => s.inMem b 256 || s.spBlock b) = false then stRange
  else if s.roleOf h ≠ some 0 ∧ s.tenantMem (hdrPart h) (hdrCtx h) a (256 * n) = false then stRange
  else stOk

/-- Read blocks: an uncorrectable one is returned as zero, and its bit set. -/
def State.readBlocksZ (s : State) (i : Nat) : List Nat → State × Nat × List Byte
  | [] => (s, 0, [])
  | b :: l =>
    let r := s.dsRead b 256
    let t := State.readBlocksZ r.1 (i + 1) l
    match r.2 with
    | some bs => (t.1, t.2.1, s.snapRead b bs ++ t.2.2)
    | none => (t.1, t.2.1 + 2 ^ i, List.replicate 256 0 ++ t.2.2)

/-- MEM_READ (Table 12.6, R354). -/
def execMemRead (h : PcpHdr) (addr count : Nat) (s : State) : Out :=
  pcpDo { op := 0x12, role := .tenant, scope := .module, need := 9, offOk := false } h (fun h s =>
    let n := count % 32
    if n = 0 then s.reply h 0x12 stOk []
    else
      let st := s.memStatus h addr n
      if st ≠ stOk then s.reply h 0x12 st []
      else
        let r := s.readBlocksZ 0 (blockAddrs addr n)
        r.1.reply h 0x12 stOk (toLE 4 r.2.1 ++ r.2.2)) s

/-- MEM_WRITE (Table 12.6, R354). -/
def execMemWrite (h : PcpHdr) (addr count : Nat) (data : List Byte) (s : State) : Out :=
  let n := count % 32
  pcpDo { op := 0x13, role := .tenant, scope := .module, need := if n = 0 then 9 else 16 + 256 * n, offOk := false } h (fun h s =>
    if n = 0 then s.reply h 0x13 stOk []
    else
      let st := s.memStatus h addr n
      if st ≠ stOk then s.reply h 0x13 st []
      else
        let bs := fitTo (256 * n) data
        (((s.dsWrite addr bs).1).snapWrite addr n bs).reply h 0x13 stOk []) s

end Sys2Proof.Machine
end

