-- ==== Sys2Proof/Machine/Resets.lean ====
section
/-!
DEFINITION. Machine/Resets.lean: RESET L0 to L4: acceptance, the safety curtain's drain and what each level puts back
(R70, R422 to R429, Table 15.1), and isolation and the reserve (R430, R446).
-/
namespace Sys2Proof.Machine

/-- A reset's domain covers that of another request of its level or below (R429, Table 15.1). -/
def ResetOp.includes (r q : ResetOp) (s : State) : Bool :=
  decide (q.level ≤ r.level) &&
    (if 3 ≤ r.level then true
     else if r.level = 2 then
       (if q.level = 1 then decide (q.cls < 3) && decide (s.partOfBay q.bay = r.part) else decide (q.part = r.part))
     else if r.level = 1 then
       decide (q.level = 1) && decide (q.cls = r.cls) && (if r.cls = 3 then decide (q.index = r.index) else decide (q.bay = r.bay))
     else decide (q.part = r.part) && decide (q.ctx = r.ctx))

/-- A reset request is accepted, or answered with ST_BUSY under one that covers it; covered resets of a lower level are
superseded (R429). -/
def State.beginReset (s : State) (r : ResetOp) (go : State → State) : State :=
  if s.resets.any (fun x => x.includes r s) then s.reply r.hdr 0x32 stBusy []
  else
    let low := s.resets.filter (fun x => decide (x.level < r.level) && r.includes x s)
    let s := low.foldl (fun s x => s.closeReset x 2 stFenced) s
    let s := { s with resets := s.resets ++ [r] }
    go (s.setReg (aFlt 0x2004) (setFld (s.reg (aFlt 0x2004)) 30 28 r.level))

def State.newReset (s : State) (h : PcpHdr) (level cls bay index : Nat) : ResetOp :=
  { hdr := h, level := level, part := hdrPart h, ctx := hdrCtx h, cls := cls, bay := bay, index := index, since := s.clock.house,
    drained := false, hbmDone := false, ddrDone := false, tested := false, keysBack := false }

/-- An L0 reset begins: queued commands go, a started context goes to state 6 until it ends, and with no started command
it ends at once (R425). -/
def State.startL0 (s : State) (p c : Nat) : State :=
  let s := s.dropQueued p c
  let s := { s with cuePkts := s.cuePkts.filter (fun x => !(cmdOf p c x.pkt)), cueArrived := s.cueArrived.filter (fun x => !(cmdOf p c x)) }
  let x := s.ctx p c
  let s := if 3 ≤ x.st then s.setCtx p c { x with st := 6 } else s
  ((s.answerStops p c stOk).dropInter p c stBusy).commandDone p c

/-- A RESET of a level (Table 12.6): byte 0 of the payload names it; 5 or above is malformed. -/
def resetDo (level : Nat) (k : PcpOp) (h : PcpHdr) (body : PcpHdr → State → State) (s : State) : Out :=
  let lv := (h.body.headD (BitVec.ofNat 8 level)).toNat
  if 5 ≤ lv then pcpDo { k with role := .tenant, scope := .module } h (fun h s => s.reply h 0x32 stMalformed []) s
  else if lv = level then pcpDo k h body s
  else idle s

/-- RESET L0 (R425, R462). -/
def execResetCtx (h : PcpHdr) (s : State) : Out :=
  resetDo 0 { op := 0x32, role := .tenant, scope := .context, need := 4, offOk := false } h (fun h s =>
    if (s.ctx (hdrPart h) (hdrCtx h)).st = 1 then s.reply h 0x32 stBusy []
    else s.beginReset (s.newReset h 0 0 0 0) (fun s => s.startL0 (hdrPart h) (hdrCtx h))) s

/-- L0_WAIT_TIMEOUT (R425): a started command has not completed within 1 ms; the context stays in state 6. -/
def execL0WaitTimeout (p : Fin 4) (c : Fin 16) (s : State) : Out :=
  match s.l0Of p c with
  | some r => if r.since + 1000000 < s.clock.house then .next (s.closeReset r 1 stTimeout) else idle s
  | none => idle s

/-- RESET L1 (R427). -/
def execResetEngine (h : PcpHdr) (cls bay index : Nat) (s : State) : Out :=
  resetDo 1 { op := 0x32, role := .tenant, scope := .module, need := 4, offOk := false } h (fun h s =>
    let absent := decide (3 < cls) || (if cls = 3 then decide (2 < index) else !(decide (bay < 48)) || !(s.bayActive bay))
    if absent then s.reply h 0x32 stNoEngine []
    else s.beginReset (s.newReset h 1 cls bay index) id) s

/-- RESET L2 (R424). -/
def execResetPart (h : PcpHdr) (s : State) : Out :=
  resetDo 2 { op := 0x32, role := .tenant, scope := .partition, need := 4, offOk := false } h (fun h s =>
    s.beginReset (s.newReset h 2 0 0 0) id) s

/-- RESET L3 (R424). -/
def execResetChip (h : PcpHdr) (s : State) : Out :=
  resetDo 3 { op := 0x32, role := .owner, scope := .module, need := 4, offOk := false } h (fun h s =>
    s.beginReset (s.newReset h 3 0 0 0) id) s

/-- RESET L4 (R424). -/
def execResetChipFull (h : PcpHdr) (s : State) : Out :=
  resetDo 4 { op := 0x32, role := .owner, scope := .module, need := 4, offOk := false } h (fun h s =>
    s.beginReset (s.newReset h 4 0 0 0) id) s

/-- Partitions in the domain of an L2, L3 or L4 reset. -/
def ResetOp.parts (r : ResetOp) : List Nat := if r.level = 2 then [r.part] else List.range 4

/-- Queues of a bay engine in Bay.queues: from, and up to but not. -/
def engineQueues (cls : Nat) : Nat × Nat := if cls = 0 then (0, 4) else if cls = 1 then (4, 5) else (5, 9)
def inQueues (cls q : Nat) : Bool := decide ((engineQueues cls).1 ≤ q) && decide (q < (engineQueues cls).2)

/-- Contexts with commands queued or started in a bay engine (Table 15.1). -/
def Bay.engineCtxs (y : Bay) (cls : Nat) : List (Nat × Nat) :=
  ((y.queues.filter (fun kv => inQueues cls kv.1)).map (fun kv => kv.2.map (fun x => (x.part, x.ctx)))).flatten ++
    (y.started.filter (fun x => inQueues cls x.queue)).map (fun x => (x.part, x.ctx))

/-- Contexts with commands queued or started in a link engine, by INDEX of Table 9.10. -/
def LinkEng.engineCtxs (l : LinkEng) (p index : Nat) : List (Nat × Nat) :=
  ((List.range 3).map (fun k => (l.queue (linkQueue index k)).map (fun x => (p, x.ctx)))).flatten ++
    (if index = 1 then
      l.gathers.map (fun g => (p, g.ctx)) ++ (l.buckets.filter Bucket.inFlight).map (fun b => (p, b.ctx)) ++
        (match l.step with | some st => [(p, st.ctx)] | none => [])
     else [])

def State.engineCtxs (s : State) (r : ResetOp) : List (Nat × Nat) :=
  if r.cls = 3 then ((List.range 4).map (fun p => (s.link p).engineCtxs p r.index)).flatten
  else (s.bay r.bay).engineCtxs r.cls

/-- A packet under way to the engine of an L1 reset. -/
def ResetOp.aims (r : ResetOp) : CuePkt → Bool
  | .command c b i _ _ _ _ _ _ => decide (c = r.cls) && (if c = 3 then decide (i = r.index) else decide (b = r.bay))
  | _ => false

/-- Cue processors that wait for a slot of the engine of an L1 reset. -/
def State.cpsAt (s : State) (r : ResetOp) : List Nat :=
  (List.range 4).filter (fun n =>
    match (s.cp n).wait, (s.cp n).fetched.head? with
    | .slot _, some e =>
      let t := s.targetOf n e
      decide (t.cls = r.cls) && (if t.cls = 3 then decide (t.index = r.index) else decide (t.bay = r.bay))
    | _, _ => false)

/-- Work of a partition that a drain waits for (R422). -/
def State.partWork (s : State) (p : Nat) : Bool :=
  let l := s.link p
  (s.baysOf p).any (fun b => let y := s.bay b; !(y.queues.isEmpty && y.started.isEmpty && y.transfers.isEmpty)) ||
    s.stagehands.any (fun kv => kv.2.running && decide (kv.2.part = p)) || s.flits.any (fun f => decide (f.part = p)) ||
    !(l.queues.isEmpty && l.gathers.isEmpty && l.landing.isEmpty && l.step.isNone && l.reblocks.isEmpty) ||
    l.buckets.any Bucket.inFlight || (List.range 16).any (fun c => !((s.ctx p c).stops.isEmpty)) ||
    (s.inter.reqs.drop (if 3 ≤ s.inter.phase then 1 else 0)).any (fun q => decide (q.part = p))

/-- A request into the domain, or one of its own, is still outstanding (R422 step 2). -/
def State.drainLeft (s : State) (r : ResetOp) : Bool :=
  if r.level = 1 then
    !(s.engineCtxs r).isEmpty || s.cuePkts.any (fun x => r.aims x.pkt) || s.cueArrived.any r.aims || !(s.cpsAt r).isEmpty ||
      (decide (r.cls = 2) && !((s.bay r.bay).transfers.isEmpty)) ||
      (decide (r.cls = 3) && decide (r.index = 1) && (List.range 4).any (fun p => !(s.link p).reblocks.isEmpty))
  else r.parts.any s.partWork

/-- Count requests answered with an error after a drain. -/
def State.drainErr (s : State) (n : Nat) : State := s.countSat (aFlt 0x200C) n

/-- Every REBLOCK in progress on a partition is answered (R422). -/
def State.fenceReblock (s : State) (p : Nat) : State :=
  (s.link p).reblocks.foldl (fun s rb => (s.reply rb.hdr 0x41 stFenced []).drainErr 1)
    (s.setLink p { s.link p with reblocks := [] })

/-- Errors for what is still outstanding into an engine at the end of the drain (R422 step 3): the contexts faulted. -/
def State.fenceEngine (s : State) (r : ResetOp) : State × List (Nat × Nat) :=
  let pkts := (s.cuePkts.map CueTransit.pkt ++ s.cueArrived).filter r.aims
  let s := { s with cuePkts := s.cuePkts.filter (fun x => !(r.aims x.pkt)), cueArrived := s.cueArrived.filter (fun x => !(r.aims x)) }
  let step := fun (a : State × List (Nat × Nat)) (x : CuePkt) =>
    match x with
    | .command _ _ _ _ _ p c off cp => ((a.1.sendFault fltFenced p c 6 0xFF cp off 0 []).drainErr 1, a.2 ++ [(p, c)])
    | _ => a
  let a := pkts.foldl step (s, [])
  let cps := s.cpsAt r
  let a := cps.foldl (fun (a : State × List (Nat × Nat)) n =>
    let p := a.1.partOfCp n
    ((a.1.cpFault n fltFenced).drainErr 1, a.2 ++ [(p, (a.1.curCtx p).getD 0)])) a
  if r.cls = 3 ∧ r.index = 1 then ((List.range 4).foldl State.fenceReblock a.1, a.2) else a

/-- Errors for the PCP requests that wait on a partition at the end of the drain (R422 step 3). -/
def State.fencePart (s : State) (p : Nat) : State :=
  let waits := fun (s : State) (c : Nat) => ((s.ctx p c).stops.length + (s.inter.reqs.filter (fun q => decide (q.part = p) && decide (q.ctx = c))).foldl
    (fun n q => n + q.hdrs.length) 0)
  let s := (List.range 16).foldl (fun s c => ((s.drainErr (waits s c)).answerStops p c stFenced).dropInter p c stFenced) s
  s.fenceReblock p

/-- Requester numbers of R316 in a reset's domain (R422 step 4, Table 15.1). -/
def State.requesters (s : State) (r : ResetOp) : List Nat :=
  if 3 ≤ r.level then List.range 59
  else if r.level = 2 then s.baysOf r.part
  else if r.cls = 2 then [r.bay]
  else if r.cls = 3 then [56 + r.index] else []

/-- Their generations advance in all twenty controllers (R316, R422). -/
def State.bumpGens (s : State) (l : List Nat) : State :=
  (List.range 20).foldl (fun s n =>
    let x := s.ctl n
    let gens := l.foldl (fun m q => sset 0 m q ((sget 0 m q + 1) % 16)) x.gens
    s.setCtl n { x with gens := gens }) s

/-- A station back at reset, its mapping and links apart (R70, R427). -/
def Bay.dropStation (y : Bay) : Bay :=
  { y with queues := y.queues.filter (fun kv => !(inQueues 0 kv.1)), started := y.started.filter (fun x => !(inQueues 0 x.queue)),
           slots := y.slots.filter (fun kv => decide (16 ≤ kv.1)), tiles := [], acc := [], bankA := false, bankB := false, ledger := [],
           flags := 0, tapCw := none, tapCcw := none, carryCw := [], carryCcw := [], ramps := [], reIn := [],
           reGamma := none, reBeta := none, freeing := y.freeing.filter (fun x => !(inQueues 0 x.1)), ctx := 0, tapCount := 0 }

def stnResetRows : List RegRow := bayRows.filter (fun r => decide (r.off < 0x1000) && decide (r.off ≠ 0x04) && decide (r.off ≠ 0x08))

def State.resetStation (s : State) (b : Nat) : State :=
  let s := s.setBay b (s.bay b).dropStation
  let s := { s with revolve := s.revolve.filter (fun kv => decide (kv.1 / 8 ≠ stationOfBay b)) }
  s.resetRows (aBay b 0) stnResetRows

/-- A dispatcher with its bay's stagehands (R427). -/
def State.resetDispatcher (s : State) (b : Nat) : State :=
  let y := s.bay b
  let s := s.setBay b { y with queues := y.queues.filter (fun kv => !(inQueues 1 kv.1)),
                               started := y.started.filter (fun x => !(inQueues 1 x.queue)) }
  State.voidGets { s with stagehands := s.stagehands.filter (fun kv => decide (handBay kv.1 ≠ b)) } (fun l => decide (handBay l = b))

/-- A stream engine. -/
def State.resetStream (s : State) (b : Nat) : State :=
  let y := s.bay b
  s.setBay b { y with queues := y.queues.filter (fun kv => !(inQueues 2 kv.1)),
                      started := y.started.filter (fun x => !(inQueues 2 x.queue)),
                      slots := y.slots.filter (fun kv => decide (kv.1 < 16)), transfers := [] }

/-- A link engine's work for every partition (R427). -/
def State.resetLink (s : State) (index : Nat) : State :=
  (List.range 4).foldl (fun s p =>
    let l := (List.range 3).foldl (fun (l : LinkEng) k => l.setQueue (linkQueue index k) []) (s.link p)
    s.setLink p (if index = 1 then { LinkEng.idle with queues := l.queues, carried := l.carried } else l)) s

def State.resetEngine (s : State) (r : ResetOp) : State :=
  if r.cls = 0 then s.resetStation r.bay
  else if r.cls = 1 then s.resetDispatcher r.bay
  else if r.cls = 2 then s.resetStream r.bay
  else s.resetLink r.index

/-- A context becomes a suspect: state 6 without a fault record (R426). -/
def State.suspect (s : State) (p c : Nat) : State :=
  let x := s.ctx p c
  let k := ctxKey p c
  if decide (2 ≤ x.st ∧ x.st ≤ 6) && x.book.isSome && (s.faultRec p c).isNone then
    (s.setCtx p c { x with st := 6 }).orReg (aFlt (if k < 32 then 0x2010 else 0x2014)) (BitVec.ofNat 32 (2 ^ (k % 32)))
  else s

/-- An L1 reset at the end of its drain. -/
def State.runL1 (s : State) (r : ResetOp) : State :=
  let mine := s.engineCtxs r
  let (s, bad) := s.fenceEngine r
  let s := (s.bumpGens (s.requesters r)).resetEngine r
  mine.foldl (fun s k => if bad.contains k then s else s.suspect k.1 k.2) s

/-- The curtain block of a partition back at reset (R191): its events are no more, and the entries it has in the sequence
of the die clear its flags only. -/
def State.resetCurtains (s : State) (p : Nat) : State :=
  let n := s.crt
  let other := fun (e : CrtPend) => decide (evPart e.ev ≠ p)
  let quiet := fun (e : CrtNum) => if evPart e.ev = p then { e with ev := .clearAll p, release := none } else e
  let s := { s with crt := { n with
    waiting := n.waiting.filter other, toRoot := n.toRoot.filter other, numbered := n.numbered.map quiet,
    flags := smap 0 (fun _ f => f &&& ~~~(partMask p)) n.flags,
    releases := n.releases.filter (fun kv => decide (kv.1 % 64 / 16 ≠ p)), given := n.given.filter (fun kv => decide (kv.1 / 16 ≠ p)),
    joined := n.joined.filter (fun kv => decide (kv.1 % 4 ≠ p)),
    curtains := n.curtains.filter (fun kv => decide (kv.1 / 16 ≠ p)) } }
  s.resetRows (aCrt p 0) crtRows

/-- A partition's bays, cue processors, curtains and exchange back at reset (Table 15.1). -/
def State.resetPartition (s : State) (p : Nat) : State :=
  let s := (s.baysOf p).foldl (fun s b => ((s.resetStation b).resetDispatcher b).resetStream b) s
  let mine := fun (x : CuePkt) => match x with | .command _ _ _ _ _ q _ _ _ => decide (q = p) | _ => false
  let s := { s with flits := s.flits.filter (fun f => decide (f.part ≠ p)), cuePkts := s.cuePkts.filter (fun x => !(mine x.pkt)),
                    cueArrived := s.cueArrived.filter (fun x => !(mine x)) }
  let s := (cpsOf s.shape p).foldl (fun s n => s.setCp n CueProc.idle) s
  let s := (s.resetCurtains p).resetRows (aXch p 0) xchRows
  let s := s.setLink p { LinkEng.idle with carried := (s.link p).carried }
  s.setPart p { s.part p with cur := none, endOfPass := false, parentRang := false }

/-- Every context of a partition that holds a book becomes a suspect (R426). -/
def State.suspectAll (s : State) (p : Nat) : State := (List.range 16).foldl (fun s c => s.suspect p c) s

/-- A replication in progress starts again (R435). -/
def State.restartReplica (s : State) : State :=
  if s.inter.phase = 4 then { s with inter := { s.inter with progressAt := s.clock.house, replicaSent := false } } else s

/-- An L2 reset at the end of its drain. -/
def State.runL2 (s : State) (r : ResetOp) : State :=
  (((s.fencePart r.part).bumpGens (s.requesters r)).resetPartition r.part).suspectAll r.part

/-- A bay's registers at an L3 or L4 reset; BAY_SHREPAIR's reset value is what the self-test found (Table 5.10). -/
def bayResetRows : List RegRow := bayRows.filter (fun r => decide (r.off ≠ 0x1014))

/-- The compute part of the die back at reset (Table 15.1): every bay with its registers, the grid, the cue network and
processors, the curtain network, link and wing engines. Read positions, credit and progress are cue-processor registers
(R289). -/
def State.resetCompute (s : State) : State :=
  let faults := fun (x : CuePkt) => match x with | .fault _ _ _ _ _ _ _ _ _ _ => true | _ => false
  let s := { s with
    bays := [], stagehands := [], revolve := [], flits := [], slotUsed := [], cuePkts := s.cuePkts.filter (fun x => faults x.pkt),
    cueArrived := s.cueArrived.filter faults, cueLinks := [], cueTurn := [], crt := CurtNet.reset, cps := [],
    links := smap LinkEng.idle (fun _ l => { LinkEng.idle with carried := l.carried }) s.links,
    walkers := smap Walker.start (fun _ w => { w with passes := 0, lastPass := 0, forcedPeriod := 0 }) s.walkers,
    ctxs := smap Context.free (fun _ x => { x with credit := [], rdptr := [], progress := 0, midPass := false, stnFlags := [],
                                                   shFlags := [], curtains := [] }) s.ctxs,
    parts := smap Partition.empty (fun _ y => { y with cur := none, endOfPass := false, parentRang := false }) s.parts }
  let s := (List.range 48).foldl (fun s b => s.resetRows (aBay b 0) bayResetRows) s
  let s := (List.range 4).foldl (fun s n => ((s.resetRows (aCp n 0) cpRows).resetRows (aCrt n 0) crtRows).resetRows (aXch n 0) xchRows) s
  let s := (List.range 8).foldl (fun s c => s.resetRows (aMem (12 + c) 0) weRows) s
  let s := s.resetRows 0x708000 crtDieRows
  if s.clock.refLost then (List.range 48).foldl (fun s b => s.setClk b (fun c => { c with fallback := true })) s else s

/-- Surviving contexts get their registers and relocations again, curtains included (R271, R428). -/
def State.reloadAll (s : State) : State :=
  s.liveCtxs.foldl (fun s k =>
    match k.2.2.book with
    | some b => (s.reloadBook k.1 k.2.1).loadCurtains k.1 k.2.1 (planCurtains b.plan b.lstations)
    | none => s) s

/-- What an L3 and an L4 reset do at the end of their drain. -/
def State.runCompute (s : State) (r : ResetOp) : State :=
  let s := ((List.range 4).foldl State.fencePart s).bumpGens (s.requesters r)
  (List.range 4).foldl State.suspectAll s.resetCompute

/-- What L4 adds (Table 15.1, R291, R296, R299, R316, R319, R330, R366, R379, R385, R449): controllers and their registers,
keys, links; the die's clocks lock to the reference when it is good again. Fault records go (R287). -/
def State.runL4 (s : State) (r : ResetOp) : State :=
  let s := if s.clock.refOk then { s with clock := { s.clock with refLost := false } } else s
  let s := s.runCompute r
  let s := (List.range 20).foldl (fun s n =>
    let x := s.ctl n
    (s.setCtl n { MemCtl.idle with st := 1, slow := x.slow, size := x.size }).resetRows (aMem n 0) (if n < 12 then memRows else memRows ++ ddrRows)) s
  let s := { s with keySlots := [], keyRanges := [], faults := [] }
  let keepEth := [aEth 0x04, aEth 0x08, aEth 0x18]
  let kept := s.regs.filter (fun kv => keepEth.contains kv.1)
  let s := (((s.resetRows (aEth 0) ethRows).resetRows (aChn false 0) chnRows).resetRows (aChn true 0) chnRows)
  let s := kept.foldl (fun s kv => s.setReg kv.1 kv.2) s
  let port := { ChainPort.idle with downSince := s.clock.house }
  { s with eth := { Eth.reset with wire := s.eth.wire, delivered := s.eth.delivered },
           chain := { Chain.reset with w := port, e := port, head := s.pins.chainHead, enumAt := s.clock.house } }

/-- Partitions look for a context to run once a reset is over. -/
def State.switchAll (s : State) : State := (List.range 4).foldl State.trySwitch s

/-- A reset below L4 is over (R422, R424, R428). -/
def State.endReset (s : State) (r : ResetOp) : State :=
  let s := if 3 ≤ r.level then s.reloadAll else s
  (s.closeReset r 0 stOk).switchAll

/-- The drain of a reset has ended: errors, generations, then the reset itself; L4 goes on with training, self-test and
keys. -/
def State.afterDrain (s : State) (r : ResetOp) : State :=
  let s := s.restartReplica
  if r.level = 1 then (s.runL1 r).endReset r
  else if r.level = 2 then (s.runL2 r).endReset r
  else if r.level = 3 then (s.runCompute r).endReset r
  else
    let s := s.runL4 r
    { s with resets := s.resets.map (fun x => if x = r then { x with drained := true } else x) }

/-- FENCE_DRAIN_END (R422): the oldest fenced domain has nothing left, or 100 µs have passed. -/
def execFenceDrainEnd (s : State) : Out :=
  match s.resets.find? (fun r => decide (1 ≤ r.level) && !r.drained) with
  | some r => if !(s.drainLeft r) || decide (r.since + 100000 ≤ s.clock.house) then .next (s.afterDrain r) else idle s
  | none => idle s

/-- The longest time of each level, ns (Table 15.1). -/
def resetLimit (level : Nat) : Nat :=
  if level = 0 then 2000000 else if level = 1 then 5000000 else if level = 2 then 40000000 else if level = 3 then 150000000 else 12000000000

/-- RESET_TIMEOUT (R429): the oldest reset that has not completed within its time ends with ST_TIMEOUT. -/
def execResetTimeout (s : State) : Out :=
  match s.resets.find? (fun r => decide (r.since + resetLimit r.level < s.clock.house)) with
  | some r => .next (s.closeReset r 1 stTimeout)
  | none => idle s

/-- The L4 reset past its drain. -/
def State.l4 (s : State) : Option ResetOp := s.resets.find? (fun r => decide (r.level = 4) && r.drained)

/-- A context whose memory did not come back (R428). -/
def State.memLost (s : State) (x : Context) : Bool :=
  (decide (x.hbmSize ≠ 0) && !s.hbmReady) || (decide (x.ddrSize ≠ 0) && !s.ddrReady)

/-- YMR_STATE.STATE with the rails on (R457): 1 ready, 2 stand-alone, 3 degraded. -/
def State.moduleState (s : State) : Nat :=
  if s.hbmReady = false ∨ s.ddrReady = false ∨ s.badBays.isEmpty = false then 3 else if s.ymr.owner.isNone then 2 else 1

/-- Part of an L4 reset has been done; when all of it has, contexts whose memory is lost are destroyed, the others reloaded,
and the reset is over (R299, R424, R428). -/
def State.l4Did (s : State) (f : ResetOp → ResetOp) : State :=
  match s.l4 with
  | none => s
  | some r =>
    let r' := f r
    let s := { s with resets := s.resets.map (fun x => if x = r then r' else x) }
    if r'.hbmDone && r'.ddrDone && r'.tested && r'.keysBack then
      let gone := s.liveCtxs.filter (fun k => s.memLost k.2.2)
      let s := (gone.foldl (fun s k => s.destroyCtx k.1 k.2.1) s).endReset r'
      { s with ymr := { s.ymr with st := s.moduleState } }
    else s

/-- FLT_ISOLATE_WRITE (R430). -/
def execFltIsolateWrite (v : Word) (s : State) : Out := whenOn s (s.writeReg (aFlt 0x2018) v)

/-- FLT_RESV_WRITE (R446). -/
def execFltResvWrite (v : Word) (s : State) : Out := whenOn s (s.writeReg (aFlt 0x2020) v)

end Sys2Proof.Machine
end

