-- ==== Sys2Proof/Machine/Training.lean ====
section
/-!
DEFINITION. Machine/Training.lean: what power-up and an L4 reset have in common: training of HBM and DDR, the stagehand
self-test, and the installation of the DDR keys (R154, R155, R291, R294, R296 to R299, R446).
-/
namespace Sys2Proof.Machine

/-- Memory of some controllers trains: at power-up, or in an L4 reset past its drain (R291, R294). -/
def State.trainsNow (s : State) (n : Nat) : Bool :=
  (decide (s.power = .training) || s.l4.isSome) && decide ((s.ctl n).st = 1)

/-- Set the state and rate of controllers. -/
def State.setTrained (s : State) (ns : List Nat) (st : Nat) (slow : Bool) (size : Nat) : State :=
  ns.foldl (fun s n => s.setCtl n { s.ctl n with st := st, slow := slow, size := size }) s

/-- At power-up, once every memory has trained or failed, step 6 begins (Table 16.6). -/
def State.trained (s : State) : State :=
  if decide (s.power = .training) && (List.range 20).all (fun n => decide (2 ≤ (s.ctl n).st)) then { s with power := .testing false false }
  else s

/-- HBM_TRAINING (R291, R296): the stacks that fail at 8 Gb/s, and of those the ones that fail at 6.4 Gb/s too. -/
def execHbmTraining (fail8 fail64 : BitVec 12) (s : State) : Out :=
  if s.trainsNow 0 then
    let lost := fail8 &&& fail64
    let s :=
      if lost ≠ 0 then
        let s := State.logEvent (s.setTrained (List.range 12) 3 true 0) 0x0021 whereModule lost.toNat
        s.zeroRange 0 hbmBytes
      else if fail8 ≠ 0 then (s.setTrained (List.range 12) 2 true 0).logEvent 0x0020 whereModule fail8.toNat
      else s.setTrained (List.range 12) 2 false 0
    .next (s.l4Did (fun r => { r with hbmDone := true })).trained
  else idle s

/-- SIZE code of a DIMM (Table 10.10). -/
def sizeCode (gib : Nat) : Nat := if gib = 64 then 1 else if gib = 128 then 2 else if gib = 256 then 3 else 0

/-- The DIMMs that R294 accepts: eight of one listed capacity. -/
def dimmsOk (gib : List Nat) : Bool :=
  decide (gib.length = 8) && decide (sizeCode (gib.headD 0) ≠ 0) && gib.all (fun g => decide (g = gib.headD 0))

/-- DATA of EVT_DDR_POPULATION: the sockets that hold a DIMM, then the SIZE code of each socket in four bits. -/
def populationData (gib : List Nat) : Nat :=
  let at_ := fun (i : Nat) => gib.getD i 0
  (List.range 8).foldl (fun m i => m + (if at_ i = 0 then 0 else 2 ^ i) + sizeCode (at_ i) * 2 ^ (8 + 4 * i)) 0

/-- The reserve's reset value, taken at power-up (R446). -/
def State.reserveReset (s : State) (gib : Nat) : State :=
  let size := min 640 (8 * gib / 2)
  s.setReg (aFlt 0x2020) (wordOf [(8 * gib - size, 31, 16), (size, 15, 0)])

/-- DDR_TRAINING (R294, R296): the capacities found in the sockets, whether every DIMM reports 12,800 MT/s, and the DIMMs
that fail at that rate and at 8,800 MT/s. DDR that does not come back takes the snapshots it held with it. -/
def execDdrTraining (gib : List Nat) (report128 : Bool) (fail128 fail88 : BitVec 8) (s : State) : Out :=
  if s.trainsNow 12 then
    let ns := seqFromTo 12 19
    let slow := !report128 || decide (fail128 ≠ 0)
    let ok := dimmsOk gib && !(slow && decide (fail88 ≠ 0))
    let up := decide (s.power = .training)
    let s :=
      if ok then
        let s := s.setTrained ns 2 slow (sizeCode (gib.headD 0))
        if up then s.reserveReset (gib.headD 0) else s
      else
        let s := State.zeroRange (s.setTrained ns 3 slow 0) ddrBase (2 ^ 41)
        State.logEvent { s with inter := { s.inter with snaps := [] } } 0x0028 whereModule (populationData gib)
    .next (s.l4Did (fun r => { r with ddrDone := true, keysBack := !ok })).trained
  else idle s

/-- The mark of the device key in slot 4; its value is never needed, since it lasts as long as what it encrypts (R299). -/
def deviceKey : Nat := 1

/-- Slot 4, and the tenant slots and ranges of the contexts there are (R298, R299). -/
def State.installKeys (s : State) : State :=
  let tenant := (List.range 4).foldl (fun m p => if s.partUsed p then sset 0 m p (s.part p).seed else m) []
  State.setKeyRanges { s with keySlots := sset 0 tenant 4 deviceKey }

/-- DDR_KEY_INSTALL (R299, R409): the device key before the zero fill of power-up; every key after an L4 reset has
retrained DDR. -/
def execDdrKeyInstall (s : State) : Out :=
  match s.l4 with
  | some r => if r.ddrDone && !r.keysBack then .next (s.installKeys.l4Did (fun r => { r with keysBack := true })) else idle s
  | none =>
    match s.power with
    | .testing _ false => if s.ddrReady && decide (sget 0 s.keySlots 4 = 0) then .next s.installKeys else idle s
    | _ => idle s

/-- What the self-test finds in one bay, by the rows that fail: BAY_SHREPAIR (R154, R155, Table 5.10). Row 16 is the
understudies'. -/
def repairOf (rows : List Nat) : Word :=
  let base := (List.range 16).filter (fun r => rows.contains r)
  let spare := rows.contains 16
  match base with
  | [] => 0
  | [r] => if spare then 0x80000000 else wordOf [(r, 7, 4), (1, 0, 0)]
  | _ => 0x80000000

/-- The self-test of a bay. -/
def State.testBay (s : State) (failed : List (Nat × Nat)) (b : Nat) : State :=
  let rows := (failed.filter (fun f => decide (f.1 = b) && decide (f.2 < 17))).map Prod.snd
  let w := repairOf rows
  let s := s.setReg (aBay b 0x1014) w
  if bit w 31 then
    State.logEvent { s with badBays := s.badBays ++ [b] } 0x0010 (whereOf 0 0 b 0)
      ((List.range 17).foldl (fun m r => if rows.contains r then m + 2 ^ r else m) 0)
  else s

/-- All bays; the scratchpads read zero afterwards (R154, R427). -/
def State.selfTest (s : State) (failed : List (Nat × Nat)) : State :=
  let s := { s with badBays := [], mem := s.mem.filter (fun kv => decide (kv.1 < spBase)),
                    memErr := s.memErr.filter (fun kv => decide (8 * kv.1 < spBase)) }
  ((List.range 48).filter s.bayActive).foldl (fun s b => s.testBay failed b) s

/-- SELF_TEST (R154, R155): the rows that fail, by bay: at step 6 of power-up, and in an L4 reset. -/
def execSelfTest (failed : List (Nat × Nat)) (s : State) : Out :=
  match s.l4 with
  | some r => if r.tested then idle s else .next ((s.selfTest failed).l4Did (fun r => { r with tested := true }))
  | none =>
    match s.power with
    | .testing false filled => .next { s.selfTest failed with power := .testing true filled }
    | _ => idle s

end Sys2Proof.Machine
end

