-- ==== Sys2Proof/Machine/Power.lean ====
section
/-!
DEFINITION. Machine/Power.lean: the module's power: the tray's power and reset pins, the power-up sequence, the 54 V input,
sensors and thermal caps, and the boot of Yemir's firmware (R388, R389, R414, R417, R447 to R459).
-/
namespace Sys2Proof.Machine

/-- The die rails switch off (R453, R459): everything the die held is gone, and what waited for it. Yemir runs on. -/
def State.dieOff (s : State) : State :=
  let up := s.clock.uptime
  let back := fun (t : Nat) => up - (s.now - t)
  let z := State.reset
  { z with
    pending := s.pending, fuse := s.fuse, pins := { s.pins with modPgood := false }, power := .railsOff,
    clock := { z.clock with uptime := up, sag := s.clock.sag.map (fun x => (back x.1, x.2)), sagEnd := back s.clock.sagEnd },
    ymr := { s.ymr with dieOn := false, st := 3, busy := [], decayed := up / 60000000000, ceHist := [], lrHist := [],
                        sessions := s.ymr.sessions.map (fun x => { x with open_ := 0, lastTime := x.lastTime + up - s.now }),
                        thermTimeW := back s.ymr.thermTimeW, thermTimeE := back s.ymr.thermTimeE },
    inter := { Inter.reset with serial := s.inter.serial }, free := s.free }

/-- What Yemir keeps in flash and fuses through a restart (R387, R390, R403, R414, R418); the rest is lost (Table 14.1). -/
def Yemir.restart (y : Yemir) : Yemir :=
  { Yemir.reset with
    inRom := true, owner := y.owner, policy := y.policy, replies := y.replies, log := y.log, nextEvent := y.nextEvent,
    slotA := y.slotA, slotB := y.slotB, activeB := y.activeB, rollback := y.rollback, xmssReserved := y.xmssReserved,
    xmssNext := y.xmssReserved, wdogPending := y.wdogPending }

/-- Yemir restarts at step 1 of the sequence, with the die rails off (R417). -/
def State.restart (s : State) : State :=
  let s := s.dieOff
  { s with power := .yemir, ymr := s.ymr.restart, pins := { s.pins with i3cAddr := none, ibi := none },
           clock := { s.clock with uptime := 0, sag := s.clock.sag.map (fun (x : Nat × Nat) => (0, x.2)), sagEnd := 0 } }

/-- Everything off, Yemir too (R450, R459). -/
def State.powerOff (s : State) : State :=
  let s := s.restart
  { s with power := .off, ymr := { s.ymr with inRom := false } }

/-- TRAY_PWR_EN_RISE (R456 step 1). -/
def execTrayPwrEnRise (s : State) : Out :=
  if s.pins.pwrEn then idle s else .next { s.restart with pins := { s.restart.pins with pwrEn := true } }

/-- TRAY_PWR_EN_FALL (R458, R459). -/
def execTrayPwrEnFall (s : State) : Out := .next { s.powerOff with pins := { s.powerOff.pins with pwrEn := false } }

/-- TRAY_RESET_N (R417, R458): low for 10 µs and released. -/
def execTrayResetN (s : State) : Out := if s.power = .off then idle s else .next s.restart

/-- YEMIR_RAIL_FAILURE (R450): an input below 20 V. -/
def execYemirRailFailure (s : State) : Out := .next s.powerOff

/-- Each half's YMR cap is the lower of the tray's cap and Yemir's own thermal cap (R389). -/
def State.applyCaps (s : State) : State :=
  if s.ymrUp && s.ymr.dieOn then
    let put := fun (s : State) (east : Bool) (v : Nat) => s.setReg (halfCap east) (setFld (s.reg (halfCap east)) 14 8 v)
    put (put s false (min s.ymr.capW s.ymr.thermW)) true (min s.ymr.capE s.ymr.thermE)
  else s

/-- Steps 3 to 5 of power-up begin (Table 16.6): rails up with house time at 0 (R322), CHAIN_HEAD sampled (R449), memories in
training; a throttle request that stands is in force (R458). -/
def State.dieUp (s : State) : State :=
  let s : State := { s with
    power := .training, pins := { s.pins with modPgood := true },
    ymr := { s.ymr with dieOn := true, decayed := 0, thermTimeW := 0, thermTimeE := 0,
                        sessions := s.ymr.sessions.map (fun (x : Session) => { x with lastTime := x.lastTime - s.clock.uptime }) },
    clock := { s.clock with house := 0, frac := 0, sag := s.clock.sag.map (fun (x : Nat × Nat) => (0, x.2)), sagEnd := 0 },
    chain := { s.chain with head := s.pins.chainHead } }
  let s := (List.range 20).foldl (fun (s : State) n => s.setCtl n { s.ctl n with st := 1 }) s.applyCaps
  let s := if s.pins.throttleN then s else s.throttleOn false
  if s.clock.sag.isSome then s.throttleOn true else s

/-- The input lies within 44 to 60 V, in 10 mV (R456 step 2). -/
def inputOk (cv : Nat) : Bool := decide (4400 ≤ cv) && decide (cv ≤ 6000)

/-- A sensor's reading is kept (Table 14.3), and of a stack or DIMM shown in TEMP (Table 10.10). The coolant's is above 45 °C for the first time: EVT_COOLANT (R455). -/
def State.sample (s : State) (x : Sensor) (v v2 : Nat) : State :=
  let y := s.ymr.sensors
  let put := fun (z : Sensors) => ({ s with ymr := { s.ymr with sensors := z } } : State)
  match x with
  | .input => put { y with vin := v, iin := v2 }
  | .rail n => put { y with railV := sset 0 y.railV n v, railI := sset 0 y.railI n v2 }
  | .bayTemp b => put { y with bayTemp := sset 0 y.bayTemp b v }
  | .droopCount b => put { y with droop := sset 0 y.droop b (s.reg (aBay b 0x4008)).toNat }
  | .hbmTemp n => (put { y with hbmTemp := sset 0 y.hbmTemp n v }).setReg (aMem n 0x14) (BitVec.ofNat 32 (v % 256))
  | .dimmTemp n => (put { y with dimmTemp := sset 0 y.dimmTemp n v }).setReg (aMem (12 + n) 0x14) (BitVec.ofNat 32 (v / 4 % 256))
  | .coolant =>
    let hot := decide (450 < v)
    let s' := put { y with inlet := v, outlet := v2, coolantOver := hot }
    if hot && !y.coolantOver then (s'.setAlert 8).logEvent 0x0034 whereModule (packData [(2, v), (2, v2)]) else s'

/-- SENSOR_SAMPLE (R388); a good input lets the power-up sequence go on (R456). -/
def execSensorSample (x : Sensor) (v v2 : Nat) (s : State) : Out :=
  if s.ymrUp then
    let s := s.sample x v v2
    .next (if decide (s.power = .yemir) && decide (x = .input) && inputOk v then s.dieUp else s)
  else idle s

/-- Thermal state of a half: its cap, the time of the last change, and whether it is being lowered. -/
structure Therm where
  cap : Nat
  time : Nat
  logged : Bool
deriving DecidableEq, Repr

def State.therm (s : State) (east : Bool) : Therm :=
  let y := s.ymr
  if east then { cap := y.thermE, time := y.thermTimeE, logged := y.thermLogE } else { cap := y.thermW, time := y.thermTimeW, logged := y.thermLogW }

def State.setTherm (s : State) (east : Bool) (t : Therm) : State :=
  let y := s.ymr
  { s with ymr := if east then { y with thermE := t.cap, thermTimeE := t.time, thermLogE := t.logged }
                  else { y with thermW := t.cap, thermTimeW := t.time, thermLogW := t.logged } }

/-- THERMAL_CAP_ADJUST (R389): above 95 °C one code down every 10 ms, below 92 °C one code up every 100 ms. -/
def execThermalCapAdjust (east : Bool) (s : State) : Out :=
  let hot := s.hottest ((List.range 48).filter (fun b => bayEast b == east))
  let t := s.therm east
  let now := s.now
  if !s.ymrUp then idle s
  else if 380 < hot then
    if t.time + 10000000 ≤ now ∧ 0 < t.cap then
      let s := (s.setTherm east { cap := t.cap - 1, time := now, logged := true }).applyCaps.setAlert 2
      .next (if t.logged then s else s.logEvent 0x0033 whereModule (packData [(1, b2n east), (1, t.cap - 1), (1, hot / 4)]))
    else idle s
  else if hot < 368 then
    if t.time + 100000000 ≤ now ∧ t.cap < 0x5A then .next (s.setTherm east { cap := t.cap + 1, time := now, logged := false }).applyCaps
    else .next (s.setTherm east { t with logged := false })
  else .next (s.setTherm east { t with logged := false })

/-- THERMAL_TRIP (R455): the hardware trip, whatever Yemir's firmware does. -/
def execThermalTrip (bay : Fin 48) (s : State) : Out :=
  if s.ymr.dieOn then
    let temp := sget 0 s.ymr.sensors.bayTemp bay / 4
    .next ((s.dieOff.setAlert 2).logEvent 0x0033 whereModule (packData [(1, b2n (bayEast bay)), (1, 0x7F), (1, temp)]))
  else idle s

/-- EVT_SUPPLY_SAG: the duration in µs and the voltage in 10 mV; 64 points when longer than 50 ms (R452). -/
def State.logSag (s : State) (us cv : Nat) : State :=
  s.logPts 0x0032 whereModule (packData [(4, min us 0xFFFFFFFF), (2, cv)]) (if 50000 < us then 64 else 0)

/-- SAG_START (R450, R452): the input has fallen below 44 V. -/
def execSagStart (cv : Nat) (s : State) : Out :=
  if decide (s.power ≠ .off) && s.clock.sag.isNone && decide (cv < 4400) then
    let s := { s with clock := { s.clock with sag := some (s.now, cv) } }
    .next (if s.ymr.dieOn && !s.clock.thrSupply then s.throttleOn true else s.setAlert 4)
  else idle s

/-- SAG_END (R452): the input has reached 46 V; the lowest input that the supply monitor saw. -/
def execSagEnd (cv : Nat) (s : State) : Out :=
  match s.clock.sag with
  | some x =>
    let now := s.now
    let s := { s with clock := { s.clock with sag := none, sagEnd := now } }
    .next (s.logSag ((now - x.1) / 1000) (min cv x.2))
  | none => idle s

/-- BROWN_OUT (R450, R453): the die rails go off, and the sag so far is logged with the lowest input. -/
def execBrownOut (cv : Nat) (s : State) : Out :=
  if s.ymr.dieOn then
    let us := s.clock.sag.elim 0 (fun x => (s.now - x.1) / 1000)
    let low := s.clock.sag.elim cv (fun x => min cv x.2)
    .next ((s.dieOff.setAlert 4).logSag us low)
  else idle s

/-- OVERVOLTAGE (R450, R453): the duration field all ones, and the highest input. -/
def execOvervoltage (cv : Nat) (s : State) : Out :=
  if s.ymr.dieOn then .next ((s.dieOff.setAlert 4).logSag 0xFFFFFFFF cv) else idle s

/-- A slot by letter: false A, true B. -/
def State.fwSlot (s : State) (b : Bool) : FwSlot := if b then s.ymr.slotB else s.ymr.slotA

/-- The slot that the boot ROM runs (R404, R414), of those whose signature holds and whose ROLLBACK is not below the counter: a pending one that has not failed three boots, else the active one, else
the other; none when neither passes. -/
def State.bootSlot (s : State) (okA okB : Bool) : Option Bool :=
  let other := !s.ymr.activeB
  let ok := fun (b : Bool) => (if b then okB else okA) && decide (s.ymr.rollback ≤ (s.fwSlot b).rollback)
  if s.inactiveFw.pending && decide (s.inactiveFw.fails < 3) && ok other then some other
  else if ok s.ymr.activeB then some s.ymr.activeB
  else if ok other then some other else none

/-- Yemir's firmware starts (R390, R403, R414, R418): what the boots before left to be logged is logged. -/
def State.bootFw (s : State) (b : Bool) : State :=
  let f := s.inactiveFw
  let gone := f.pending && decide (b = s.ymr.activeB)
  let s := if gone then s.setInactiveFw { f with pending := false, fails := 0 } else s
  let swap := decide (b ≠ s.ymr.activeB) && !s.inactiveFw.pending
  let wdog := s.ymr.wdogPending
  let up := s.clock.uptime
  let s := { s with ymr := { s.ymr with inRom := false, halted := false, activeB := if swap then b else s.ymr.activeB,
                                        watchdogAt := up, bootAt := up, xmssNext := s.ymr.xmssReserved, wdogPending := none } }
  let s := s.logEvent 0x0001 whereModule (packData [(1, b2n b), (4, (s.fwSlot b).version.toNat)])
  let s := match wdog with | some n => s.logEvent 0x0002 whereModule n.toNat | none => s
  if gone then s.logEvent 0x000A whereModule f.version.toNat else s

/-- YEMIR_BOOT (R404, R414): whether the signatures of slot A and slot B verify under the vendor root. -/
def execYemirBoot (slotAOk slotBOk : Bool) (s : State) : Out :=
  if decide (s.power ≠ .off) && s.ymr.inRom then
    match s.bootSlot slotAOk slotBOk with
    | some b => .next (s.bootFw b)
    | none => .next (s.setAlert 0x20)
  else idle s

/-- BOOT_READY_TIMEOUT (R414): a pending slot has not reached ready within 60 s of its boot; Yemir boots again. -/
def execBootReadyTimeout (s : State) : Out :=
  if s.ymrUp && s.poweringUp && s.inactiveFw.pending && decide (s.ymr.bootAt + 60000000000 ≤ s.clock.uptime) then .next s.failBoot.restart
  else idle s

/-- A pending slot that has reached ready is active; a higher rollback number is blown into the fuses (R414). -/
def State.promote (s : State) : State :=
  let f := s.inactiveFw
  if f.pending then
    let up := f.advance && decide (s.ymr.rollback < f.rollback)
    let s := s.setInactiveFw { f with pending := false, fails := 0 }
    let s := { s with ymr := { s.ymr with activeB := !s.ymr.activeB, rollback := if up then f.rollback else s.ymr.rollback } }
    if up then s.logEvent 0x0008 whereModule (packData [(4, f.version.toNat), (1, f.rollback)]) else s
  else s

/-- MODULE_READY (R456 step 7, R457). -/
def execModuleReady (s : State) : Out :=
  if s.ymrUp && decide (s.power = .testing true true) then
    let s := { s with power := .ready, ymr := { s.ymr with st := s.moduleState },
                      chain := { s.chain with enumSt := 0, enumAt := s.clock.house } }
    .next (s.logEvent 0x0003 whereModule (s.clock.uptime / 1000000)).promote
  else idle s

end Sys2Proof.Machine
end

