-- ==== Sys2Proof/Machine/Intermissions.lean ====
section
/-!
DEFINITION. Machine/Intermissions.lean: intermissions: the request, the stop with its copy, the state halves, the
replication, the handover of the seed and the host's copy (R396, R431 to R440).
-/
namespace Sys2Proof.Machine

/-- Physical bays of a context's logical stations. -/
def State.lbays (s : State) (p c : Nat) : List Nat := (s.loopBays p).take ((s.ctx p c).book.elim 0 Book.lstations)

/-- IMAGE and STATE of a context's snapshot (Tables 15.2 and 15.3). -/
def State.imageBytes (s : State) (p c : Nat) : Nat :=
  let x := s.ctx p c
  let n := x.book.elim 0 Book.lstations
  chunkBytes + x.hbmSize + n * x.spBytes + n * 1114112 + s.xget p c 0x048 8
def State.stateBytes (s : State) (p c : Nat) : Nat := (s.odescs p c).foldl (fun m d => m + 7 * d.nshard) 0

/-- The own slot that the context's next snapshot would take. -/
def State.nextSlot (s : State) (p c : Nat) : Option (Nat × Nat) := s.slotFor p c (snapBytes (s.imageBytes p c + s.stateBytes p c))

/-- INTERMISSION (Table 12.6, R431, R440): a free value says whether the buddy's reserve has room. -/
def execIntermission (h : PcpHdr) (copyHost : Bool) (timeout : Nat) (s : State) : Out :=
  pcpDo { op := 0x30, role := .tenant, scope := .context, need := 8, offOk := false } h (fun h s =>
    let p := hdrPart h
    let c := hdrCtx h
    let st := (s.ctx p c).st
    let (s, n) := s.draw
    let full := s.buddy.isSome && decide (Config.freeValue 1 n = 1)
    if st ≤ 1 ∨ st = 6 then s.reply h 0x30 stBusy []
    else if !s.canSign then s.reply h 0x30 stAuth []
    else if (s.nextSlot p c).isNone || full then s.reply h 0x30 stRange []
    else
      let until_ := if timeout = 0 then none else some (s.clock.house + 1000 * timeout)
      let r : IReq := { part := p, ctx := c, cause := 0, copyHost := copyHost, hdrs := [h], expires := until_ }
      let s := { s with ymr := { s.ymr with busy := s.ymr.busy ++ [(hdrKey h, 0x30)] } }
      (s.askIntermission r).startInter) s

/-- INTERMISSION_TIMEOUT (R431, R353): TIMEOUT of waiting request i has passed before its stop began. -/
def execIntermissionTimeout (i : Nat) (s : State) : Out :=
  match s.inter.reqs[i]? with
  | some r =>
    if r.expires.elim false (fun t => decide (t < s.clock.house)) && !(decide (i = 0) && decide (s.inter.phase ≠ 0)) then
      let s := { s with inter := { s.inter with reqs := listDrop s.inter.reqs i } }
      .next (r.hdrs.foldl (fun s h => s.reply h 0x30 stTimeout []) s).startInter
    else idle s
  | none => idle s

/-- The listed non-zero bytes of n bytes of memory, as an engine reads them. -/
def State.memCells (s : State) (a n : Nat) : Sparse Byte :=
  (List.range n).filterMap (fun i => let v := s.memByte (a + i); if v = 0 then none else some (i, v))

/-- The listed bytes of a bay's scratchpad from an offset. -/
def State.spCells (s : State) (b lo n : Nat) : Sparse Byte :=
  s.mem.filterMap (fun kv =>
    let o := spBayOff kv.1
    if spBase ≤ kv.1 ∧ o.1 = b ∧ lo ≤ o.2 ∧ o.2 < lo + n then some (o.2 - lo, kv.2) else none)

/-- A context's curtains, station flags by logical station and stagehand flags by logical bay: live while it is switched in,
else as saved. -/
def State.curtainsOf (s : State) (p c : Nat) : Sparse Curtain :=
  if s.curCtx p = some c then (List.range 16).foldl (fun m n => sset Curtain.off m n (s.curtain p n)) [] else (s.ctx p c).curtains
def State.stnFlagsOf (s : State) (p c : Nat) : Sparse (BitVec 5) :=
  let l := s.lbays p c
  let f := fun b => if s.curCtx p = some c then (s.bay b).flags else sget 0 (s.ctx p c).stnFlags (stationOfBay b)
  (List.range l.length).foldl (fun m j => sset 0 m j (f (l.getD j 0))) []
def State.shFlagsOf (s : State) (p c : Nat) : Sparse (BitVec 5) :=
  let l := s.lbays p c
  let f := fun k => if s.curCtx p = some c then (s.hand k).flags else sget 0 (s.ctx p c).shFlags k
  (List.range l.length).foldl (fun m j => (List.range 128).foldl (fun m i => sset 0 m (128 * j + i) (f (handOf (l.getD j 0) i))) m) []

/-- The snapshot id (Table 15.4). -/
def State.snapId (s : State) (p c : Nat) : BitVec 64 :=
  let a := fun (x : Option Nat) => x.getD 0xFF
  BitVec.ofNat 64 (packData [(4, (s.stepOf p c).toNat), (1, a s.chain.addr), (1, a s.buddy), (1, p + 16 * c), (1, s.inter.serial)])

/-- The parts of Table 15.2 that are taken during the stop, in own slot (addr, slot). -/
def State.takeImage (s : State) (p c addr slot : Nat) : Snapshot :=
  let x := s.ctx p c
  let bays := s.lbays p c
  { id := s.snapId p c, part := p, ctx := c, own := true, replicated := false, complete := false, addr := addr, slot := slot,
    image := s.imageBytes p c, state := s.stateBytes p c, cipher := s.free, sig := [], sigOk := false,
    owner := s.ymr.owner.getD 0, dirty := [], measure := x.book.elim [] Book.measure, shape := s.shape,
    lstations := bays.length, hbmSize := x.hbmSize, ddrSize := x.ddrSize, spBytes := x.spBytes, key := x.key,
    seed := (s.part p).seed, seedTime := (s.part p).seedTime, credit := x.credit, progress := x.progress,
    curtains := s.curtainsOf p c, stnFlags := s.stnFlagsOf p c, shFlags := s.shFlagsOf p c, casts := s.boundCasts p c,
    hbm := s.rangeCells x.hbmBase x.hbmSize, sp := bays.map (fun b => s.spCells b x.spFirst x.spBytes),
    carry := s.memCells (s.xget p c 0x040 8) (s.xget p c 0x048 8),
    carried := (s.link p).carried.filter (fun e => decide (e.ctx = c)), halves := [],
    accs := bays.map (fun b => (s.bay b).acc), ledgers := bays.map (fun b => (s.bay b).ledger) }

/-- The context's earlier snapshots as its own slot is rewritten: what the buddy holds stays (R436). -/
def oldSnaps (p c : Nat) (l : List Snapshot) : List Snapshot :=
  (l.map (fun x => if x.part = p ∧ x.ctx = c then { x with own := false } else x)).filter (fun x => x.own || x.replicated)

/-- The stop ends: the image is in the own slot, the state halves are pinned, the request is answered and the partition
resumes (R434, R435). The 64-bit DATA of EVT_INTERMISSION cannot hold the id and the cause apart: it is free (entry 34). -/
def State.endStop (s : State) (r : IReq) (slot : Nat × Nat) : State :=
  let p := r.part
  let c := r.ctx
  let (s, n) := s.draw
  let x := s.takeImage p c slot.1 slot.2
  let us := (s.clock.house - s.inter.stopAt) / 1000
  let pins := (s.odescs p c).map ODesc.live
  let s := (s.zeroRange slot.1 slot.2).countUnits (s.ctx p c).hbmBase (s.ctx p c).hbmSize 0x18
  let s := { s with inter := { s.inter with
    snaps := oldSnaps p c s.inter.snaps ++ [x], phase := 3, replica := false, pinned := !pins.isEmpty, pinHalves := pins,
    serial := (s.inter.serial + 1) % 256, copyPeer := (r.hdrs.head?).elim 0 PcpHdr.peer, reqs := { r with hdrs := [] } :: s.inter.reqs.drop 1 } }
  let s := ((s.setReg (aFlt 0x202C) (BitVec.ofNat 32 us)).setReg (aFlt 0x2038) (lo32 slot.1)).setReg (aFlt 0x203C) (hi32 slot.1 &&& 0xFFFF)
  let s := s.logEvent 0x0062 (whereOf p c 0 0) (Config.freeValue 64 n).toNat
  (r.hdrs.foldl (fun s h => s.reply h 0x30 stOk (toLE 8 x.id.toNat)) s).trySwitch p

/-- No slot can be had when the stop's copy would begin: the intermission ends without a snapshot. -/
def State.noSlot (s : State) (r : IReq) : State :=
  ((r.hdrs.foldl (fun s h => s.reply h 0x30 stRange []) s).endInter.startInter).trySwitch r.part

/-- INTERMISSION_STOP (R434). -/
def execIntermissionStop (s : State) : Out :=
  match s.inter.reqs with
  | r :: _ =>
    if decide (s.inter.phase = 2) && s.ymrUp && s.ymr.dieOn then
      .next (match s.nextSlot r.part r.ctx with | some slot => s.endStop r slot | none => s.noSlot r)
    else idle s
  | [] => idle s

/-- Change the snapshot that the intermission in progress has taken. -/
def State.modSnap (s : State) (f : Snapshot → Snapshot) : State :=
  let hit := fun (x : Snapshot) => x.own && decide (x.part = s.inter.part) && decide (x.ctx = s.inter.ctx)
  { s with inter := { s.inter with snaps := s.inter.snaps.map (fun x => if hit x then f x else x) } }

/-- The pin ends, and the copy to the host is next, or the intermission is over (Table 15.7). -/
def State.afterCopies (s : State) : State :=
  let s := { s with inter := { s.inter with pinned := false, pinHalves := [] } }
  if s.inter.copyHost then { s with inter := { s.inter with phase := 5 } } else s.endInter.startInter

/-- Bytes of the pinned halves. -/
def State.takeHalves (s : State) (p c : Nat) : List (Sparse Byte) :=
  let l := s.odescs p c
  (List.range l.length).map (fun i =>
    match l[i]?, s.inter.pinHalves[i]? with
    | some d, some live =>
      (match s.tensor p c d.tensor with
       | some t => s.memCells (t.stateBase + live * d.halfStride) (7 * d.nshard)
       | none => [])
    | _, _ => [])

/-- STATE_COPY_DONE (R435, R436, R438): the own slot holds the whole snapshot, signed; the buddy's slot is next. -/
def execStateCopyDone (s : State) : Out :=
  let p := s.inter.part
  let c := s.inter.ctx
  if decide (s.inter.phase = 3) && s.ymrUp && s.ymr.dieOn then
    match s.ownSnap p c with
    | none => .next s.afterCopies
    | some x =>
      let halves := s.takeHalves p c
      let (s, sig) := s.sign (x.manifest (Config.identityKey s.fuse.identitySeed))
      let s := s.modSnap (fun x => { x with halves := halves, complete := true, sig := sig.getD [], sigOk := sig.isSome })
      let s := s.countSat (aFlt 0x2030) 1
      .next (match s.buddy with
        | some _ =>
          let mine := fun (y : Snapshot) => decide (y.part = p) && decide (y.ctx = c) && !y.own
          State.replicate { s with inter := { s.inter with phase := 4, progressAt := s.clock.house, replicaSent := false,
                                                           snaps := s.inter.snaps.filter (fun y => !(mine y)) } }
        | none => s.afterCopies)
  else idle s

/-- REPLICATION_DONE (R435). -/
def execReplicationDone (s : State) : Out :=
  if s.inter.phase = 4 then
    let s := s.modSnap (fun x => { x with replicated := true })
    .next (State.afterCopies { s with inter := { s.inter with replica := true } })
  else idle s

/-- REPLICATION_ABANDON (R435): no progress for 1 s; the snapshot stays local. -/
def execReplicationAbandon (s : State) : Out :=
  if s.inter.phase = 4 ∧ s.inter.progressAt + 1000000000 ≤ s.clock.house then
    .next (State.afterCopies { s with inter := { s.inter with replica := false } })
  else idle s

/-- SEED_HANDOVER (R439): during replication the tenant seed goes to the buddy over VL1, in an exchange that both sides
sign; the spec gives the message no layout, so its bytes are free. -/
def execSeedHandover (p : Fin 4) (s : State) : Out :=
  match s.buddy with
  | some b =>
    if decide (s.inter.phase = 4) && decide (s.inter.part = p) && s.ymrUp && (s.part p).seed ≠ 0 then
      let (s, bs) := s.freeBytes 32
      match s.sign bs with
      | (s, some sig) =>
        let held := s.inter.seeds.filter (fun x => decide (x.1 ≠ p.val))
        let s := { s with inter := { s.inter with seeds := held ++ [(p.val, (s.part p).seed)] } }
        .next (s.chainSend (s.chain.portTo b) 1 b false (bs ++ sig))
      | (s, none) => .next s
    else idle s
  | none => idle s

/-- Packets of the copy to the host: id, byte offset, up to 8,176 bytes (R437). -/
def hostPackets (id : BitVec 64) : Nat → Nat → List Byte → List (List Byte)
  | 0, _, _ => []
  | _ + 1, _, [] => []
  | fuel + 1, off, bs =>
    (toLE 8 id.toNat ++ toLE 8 off ++ bs.take 8176) :: hostPackets id fuel (off + 8176) (bs.drop 8176)

/-- HOST_COPY_DONE (R437): every packet of the copy has been handed to class 3. -/
def execHostCopyDone (s : State) : Out :=
  if s.inter.phase = 5 then
    let p := s.inter.part
    .next (match s.ownSnap p s.inter.ctx with
      | some x =>
        let bs := x.bytes (Config.identityKey s.fuse.identitySeed)
        ((hostPackets x.id bs.length 0 bs).foldl (fun s k => s.ethSend 3 s.inter.copyPeer 0 k) s).endInter.startInter
      | none => s.endInter.startInter)
  else idle s

end Sys2Proof.Machine
end

