-- ==== Sys2Proof/Machine/Restore.lean ====
section
/-!
DEFINITION. Machine/Restore.lean: RESTORE: its checks, the copies it takes chunks from, and the rebuilt context
(R441 to R444).
-/

/-- What a manifest and its chunks hold when the copy is not one this module knows: a snapshot of a module that was here
before, or one that the owner has written back from the host (R437, R442): its id and the number of the restore.
UNVERIFIED (entry 35). -/
opaque Sys2Proof.Config.foreignSnapshot : BitVec 64 → Nat → Sys2Proof.Machine.Snapshot

namespace Sys2Proof.Machine

/-- What a restore has to take from. -/
structure Source where
  snap : Snapshot
  /-- the context's own slot holds the id; the buddy named in the id holds it -/
  home : Bool
  away : Bool
  /-- a manifest whose signature verifies can be had (check 3) -/
  manifestOk : Bool
  /-- the seed is the partition's own; the buddy hands it over (R441) -/
  seedHeld : Bool
  seedSent : Bool
  /-- chunks of the own slot that do not match their digest; the buddy's chunks match -/
  badHome : List Nat
  awayOk : Bool
deriving DecidableEq, Repr

/-- The 256-byte blocks of the own slot that bytes from lo up to hi touch are as they were written. -/
def State.slotIntact (s : State) (x : Snapshot) (lo hi : Nat) : Bool :=
  (seqFromTo (lo / 256) ((hi - 1) / 256)).all (fun k => !(x.dirty.contains k) && decide (s.blockErr (x.addr + 256 * k) ≠ 2))

/-- Chunks of a snapshot that its own slot no longer holds. -/
def State.spoilt (s : State) (x : Snapshot) : List Nat :=
  let lo := fun (i : Nat) => headOf x.body + chunkBytes * i
  (List.range (chunksOf x.body)).filter (fun i => !(s.slotIntact x (lo i) (lo (i + 1))))

/-- The buddy that an id names can be reached. -/
def State.buddyThere (s : State) (id : BitVec 64) : Bool :=
  let b := id.toNat / 2 ^ 40 % 256
  s.chain.addr.isSome && decide (b < s.chain.count) && decide (s.chain.addr ≠ some b)

/-- The own slot of a context holds, as written back by the owner, the manifest of an id (R437). -/
def State.writtenBack (s : State) (p c : Nat) (id : BitVec 64) : Bool :=
  match s.ownSnap p c with
  | some x => x.dirty.contains 0 && decide (leNat (s.memBytes x.addr 4) = 0x4E535A4F) && decide (leNat (s.memBytes (x.addr + 8) 8) = id.toNat)
  | none => false

/-- Where a restore of an id on a context finds its snapshot; what another module holds or does is free. -/
def State.source (s : State) (p c : Nat) (id : BitVec 64) : Source :=
  let flip := fun (k : Nat) => decide (Config.freeValue 1 (s.free + k) = 1)
  let reach := s.buddyThere id
  match s.inter.snaps.find? (fun x => decide (x.id = id) && x.complete) with
  | some x =>
    let home := x.own && decide (x.part = p) && decide (x.ctx = c)
    let away := x.replicated && reach
    let y := s.part p
    { snap := x, home := home, away := away, manifestOk := x.sigOk && ((home && s.slotIntact x 0 (headOf x.body)) || away),
      seedHeld := decide (x.part = p) && decide (y.seed = x.seed) && decide (y.seedTime = x.seedTime),
      seedSent := away && s.inter.seeds.contains (x.part, x.seed), badHome := s.spoilt x, awayOk := flip 0 }
  | none =>
    let x := Config.foreignSnapshot id s.free
    let away := reach && flip 1
    { snap := x, home := s.writtenBack p c id, away := away, manifestOk := x.sigOk, seedHeld := false, seedSent := away && flip 2,
      badHome := x.dirty, awayOk := flip 0 }

/-- The checks of Table 15.5, in order: the status of the first that fails. -/
def State.restoreStatus (s : State) (p c : Nat) (src : Source) : Nat :=
  let x := s.ctx p c
  let n := src.snap
  let others := (List.range 16).filter (fun d => decide (d ≠ c) && decide ((s.ctx p d).st ≠ 0))
  if (x.st ≠ 2 ∧ x.st ≠ 3) ∨ others.any (fun d => decide ((s.ctx p d).st = 4 ∨ (s.ctx p d).st = 5)) = true ∨
      s.inter.reqs.any (fun r => decide (r.part = p) && decide (r.ctx = c)) = true then stBusy
  else if src.home = false ∧ src.away = false then stRange
  else if src.manifestOk = false ∨ s.ymr.owner ≠ some n.owner then stAuth
  else if some n.measure ≠ x.book.map Book.measure ∨ x.allBound = false then stRange
  else if x.hbmSize < n.hbmSize ∨ x.ddrSize < n.ddrSize ∨ x.spBytes < n.spBytes ∨
      x.book.map Book.lstations ≠ some n.lstations ∨ s.shape ≠ n.shape then stRange
  else if src.seedHeld = false ∧ src.seedSent = false then stAuth
  else if src.seedHeld = false ∧ others.isEmpty = false then stBusy
  else stOk

/-- Chunks that come from the buddy (R442). -/
def Source.fromBuddy (src : Source) : List Nat :=
  let l := List.range (chunksOf src.snap.body)
  if src.home then l.filter (fun i => src.badHome.contains i) else l

/-- A range of memory made equal to a saved part, but for the addresses that a test keeps; what is written to DDR is
written under the key in force. -/
def State.putBack (s : State) (a n : Nat) (cells : Sparse Byte) (keep : Nat → Bool) : State :=
  let edges := (blocksOf a n).filter (fun b => decide (b < a) || decide (a + n < b + 256))
  let s := edges.foldl State.rekeyBlock s
  let out := fun (x : Nat) => !(decide (a ≤ x) && decide (x < a + n)) || keep x
  let s := { s with mem := s.mem.filter (fun kv => out kv.1), memErr := s.memErr.filter (fun kv => out (8 * kv.1)) }
  let s := (blocksOf a n).foldl (fun (s : State) b => { s with ddrKeyed := sset 0 s.ddrKeyed (b / 256) (s.keyOf b) }) s
  cells.foldl (fun s kv => if decide (kv.1 < n) && !(keep (a + kv.1)) then s.putByte (a + kv.1) kv.2 else s) s

/-- A bay's scratchpad from an offset made equal to a saved part. -/
def State.putSp (s : State) (b lo n : Nat) (cells : Sparse Byte) : State :=
  let hit := fun (a : Nat) => decide (spBase ≤ a) && decide ((spBayOff a).1 = b) && decide (lo ≤ (spBayOff a).2) && decide ((spBayOff a).2 < lo + n)
  let y := s.bay b
  let s := s.setBay b { y with writeBack := y.writeBack.filter (fun w => !(hit (8 * w))) }
  let s := { s with mem := s.mem.filter (fun kv => !(hit kv.1)), memErr := s.memErr.filter (fun kv => !(hit (8 * kv.1))) }
  cells.foldl (fun s kv => if kv.1 < n then s.putByte (spAddr b (lo + kv.1)) kv.2 else s) s

/-- The ranges that the new load keeps: SHEETS, STREAMS, SHPROG, TENSORS, OPTPROG (R443). -/
def keptByLoad (b : Option Book) (a : Nat) : Bool :=
  (b.elim [] Book.placed).any (fun x => decide (x.1 ∈ [1, 2, 3, 4, 6]) && decide (x.2.2.1 ≤ a) && decide (a < x.2.2.1 + x.2.2.2))

/-- A snapshot's curtains and sticky flags in a context: live while it is switched in, else as saved with it. -/
def State.putFlags (s : State) (p c : Nat) (n : Snapshot) : State :=
  let l := s.lbays p c
  let js := List.range l.length
  let s := s.setCtx p c { s.ctx p c with
    curtains := n.curtains,
    stnFlags := js.foldl (fun m j => sset 0 m (stationOfBay (l.getD j 0)) (sget 0 n.stnFlags j)) [],
    shFlags := js.foldl (fun m j => (List.range 128).foldl (fun m i => sset 0 m (handOf (l.getD j 0) i) (sget 0 n.shFlags (128 * j + i))) m) [] }
  if s.curCtx p = some c then s.loadCtx p c else s

/-- The accumulators and ledger of each logical station, after R77, R89 and R153 have been applied to them (R443). -/
def State.putStations (s : State) (p c : Nat) (n : Snapshot) : State :=
  let l := s.lbays p c
  let s := s.clearPart p
  (List.range l.length).foldl (fun s j =>
    let b := l.getD j 0
    s.setBay b { s.bay b with acc := n.accs.getD j [], ledger := n.ledgers.getD j [] }) s

/-- A cast list is rebuilt with its saved membership, its epoch 1 above the higher of the two (R443). -/
def State.putCast (s : State) (g : Nat × CastList) : State :=
  let e := max g.2.epoch.toNat (s.cast g.1).epoch.toNat + 1
  s.setCast g.1 { g.2 with epoch := BitVec.ofNat 32 e }

/-- The carry area and the state halves that the restored LIVE bits name (R443). -/
def State.putDdr (s : State) (p c : Nat) (n : Snapshot) : State :=
  let s := s.putBack (s.xget p c 0x040 8) (s.xget p c 0x048 8) n.carry (fun _ => false)
  let l := s.link p
  let s := s.setLink p { l with carried := l.carried.filter (fun e => decide (e.ctx ≠ c)) ++ n.carried.map (fun e => { e with ctx := c }) }
  let ds := s.odescs p c
  (List.range ds.length).foldl (fun s i =>
    match ds[i]? with
    | some d =>
      (match s.tensor p c d.tensor with
       | some t => s.putBack (t.stateBase + d.live * d.halfStride) (7 * d.nshard) (n.halves.getD i []) (fun _ => false)
       | none => s)
    | none => s) s

/-- The suspect bit of a context is cleared (R443). -/
def State.clearSuspect (s : State) (p c : Nat) : State :=
  let k := ctxKey p c
  let a := aFlt (if k < 32 then 0x2010 else 0x2014)
  s.setReg a (s.reg a &&& ~~~(BitVec.ofNat 32 (2 ^ (k % 32))))

/-- The seed of a snapshot replaces the partition's, and its DDR key slot is rewritten (R441). -/
def State.takeSeed (s : State) (p : Nat) (n : Snapshot) : State :=
  { s.setPart p { s.part p with seed := n.seed, seedTime := n.seedTime } with keySlots := sset 0 s.keySlots p n.seed }

/-- The context rebuilt (R443): what chunk 0 saved of it, its memory, its stations, its cast lists and bindings. -/
def State.rebuild (s : State) (p c : Nat) (n : Snapshot) : State :=
  let x := s.ctx p c
  let s := s.setCtx p c { x with
    st := 2, key := n.key, credit := n.credit, progress := n.progress,
    passes := if x.dress then n.id.toNat % 2 ^ 32 else x.passes }
  let s := s.putBack x.hbmBase n.hbmSize n.hbm (keptByLoad x.book)
  let l := s.lbays p c
  let s := (List.range l.length).foldl (fun s j => s.putSp (l.getD j 0) x.spFirst n.spBytes (n.sp.getD j [])) s
  let s := s.putDdr p c n
  let s := (s.putStations p c n).putFlags p c n
  let s := n.casts.foldl State.putCast s
  let s := (List.range 256).foldl (fun s g => s.xput p c (0x100 + 4 * g) 4 0xFFFFFFFF) s
  (s.setFaultRec p c none).clearSuspect p c

/-- n free cells, by offset. -/
def State.freeCells (s : State) (n : Nat) : State × Sparse Byte :=
  ({ s with free := s.free + n }, (List.range n).filterMap (fun i => let v := Config.freeValue 8 (s.free + i); if v = 0 then none else some (i, v)))

/-- A restore that finds a chunk in neither copy leaves the context in state 2 with unpredictable contents (R442): its
quotas, accumulators and ledgers are free. -/
def State.ruin (s : State) (p c : Nat) : State :=
  let x := s.ctx p c
  let s := s.setCtx p c { x with st := 2 }
  let (s, h) := s.freeCells x.hbmSize
  let s := s.putBack x.hbmBase x.hbmSize h (fun _ => false)
  let (s, d) := s.freeCells x.ddrSize
  let s := s.putBack x.ddrBase x.ddrSize d (fun _ => false)
  (s.lbays p c).foldl (fun (s : State) b =>
    let (s, q) := s.freeCells x.spBytes
    let s := s.putSp b x.spFirst x.spBytes q
    let acc := (List.range 262144).foldl (fun m k => sset 0 m k (Config.freeValue 28 (s.free + k))) []
    let led := (List.range 16384).foldl (fun m k => sset 0 m k (Config.freeValue 32 (s.free + 262144 + k))) []
    { s.setBay b { s.bay b with acc := acc, ledger := led } with free := s.free + 278528 }) s

/-- A restore past its checks (R442, R443). The 64-bit DATA of EVT_RESTORE cannot hold the id and the copy apart: it is
free (entry 34). -/
def State.restore (s : State) (h : PcpHdr) (p c : Nat) (src : Source) : State :=
  let n := src.snap
  let l := src.fromBuddy
  let s := if src.seedHeld then s else s.takeSeed p n
  if l.isEmpty = false ∧ (src.away && src.awayOk) = false then
    ((s.ruin p c).logEvent 0x0064 (whereOf p c 0 0) n.id.toNat).reply h 0x31 stAuth []
  else
    let (s, k) := (s.rebuild p c n).draw
    let s := s.countSat (aFlt 0x2034) l.length
    (s.logEvent 0x0063 (whereOf p c 0 0) (Config.freeValue 64 k).toNat).reply h 0x31 stOk []

/-- RESTORE (Table 12.6, R441 to R444). -/
def execRestore (h : PcpHdr) (id : BitVec 64) (s : State) : Out :=
  pcpDo { op := 0x31, role := .tenant, scope := .context, need := 8, offOk := false } h (fun h s =>
    let p := hdrPart h
    let c := hdrCtx h
    let src := s.source p c id
    let s := { s with free := s.free + 3 }
    let st := s.restoreStatus p c src
    if st ≠ stOk then s.reply h 0x31 st [] else s.restore h p c src) s

end Sys2Proof.Machine
end

