-- ==== Sys2Proof/Machine/ShConvert.lean ====
section
/-!
DEFINITION. Machine/ShConvert.lean: format conversion and random numbers of a stagehand (R144, R146).
-/
namespace Sys2Proof.Machine

/-- The draw for lane i (R146): the running context's key and step, stream s29, index s31:s30 + i. -/
def State.shDraw (s : State) (l i : Nat) : Word × Word × Word × Word :=
  let h := s.hand l
  let base := (h.getS 30).toNat + 2 ^ 32 * (h.getS 31).toNat
  crg (s.ctx h.part h.ctx).key (h.getS 29) (s.stepOf h.part h.ctx) ((base + i) % 2 ^ 64)

/-- The rounding of lane i under RND. -/
def State.shRnd (s : State) (l rnd i : Nat) : Rnd :=
  if rnd = 2 then .sr ((s.shDraw l i).1.toNat >>> 20) else rndOf rnd 0

/-- The stored element i of a block register (R144): bytes, nibbles of E2M1, halves of G16. -/
def storedElem (fmt : Nat) (x : BitVec 512) (i : Nat) : Nat :=
  if fmt = 4 then (x.toNat >>> (4 * i)) % 16
  else if fmt = 9 then (lane16 x i).toNat
  else (x.toNat >>> (8 * i)) % 256

/-- 32 stored elements as a block register, unused bits zero (R144). -/
def packElems (fmt : Nat) (l : List Nat) : BitVec 512 :=
  BitVec.ofNat 512 (packNat (if fmt = 4 then 4 else if fmt = 9 then 16 else 8) l)

/-- The exact value of a stored element, under its scale (R105, R109). -/
def storedValue (fmt : Nat) (scale : Byte) (code : Nat) : Num :=
  match elemFmt fmt with
  | some f =>
    let v := f.decode (if fmt = 2 ∨ fmt = 3 then code % 64 else code)
    if fmt = 6 ∨ fmt = 7 then v else scaled scale v
  | none => .nan

/-- VUNPK (R144): the stored block in vA to BF16 lanes of vD, under the scale in sB[7:0] (Table 4.9); a bucket scale of
0xFF faults. -/
def execVunpk (sh : Fin 6144) (s : State) : Out :=
  shIssue 0x68 (fun f s =>
    let h := s.hand sh
    let sc : Byte := (h.getS f.b).setWidth 8
    let rs := (List.range 32).map (fun i =>
      fmtBF16.narrow false (s.shRnd sh f.rnd i) (storedValue f.fmt sc (storedElem f.fmt (h.getV f.a) i)))
    if f.fmt = 9 ∧ sc = 0xFF then .fault s fltOperandCase 0
    else .done (s.setHand sh
      (h.put f 4 (fun g => (g.setV f.d (vec16 (rs.map (fun r => BitVec.ofNat 16 r.1)))).flag (orFlags rs))).nextPc)) sh s

/-- VPACK (R144): BF16 lanes of vA to the stored format in vD; an MX format's scale goes to sB. -/
def execVpack (sh : Fin 6144) (s : State) : Out :=
  shIssue 0x69 (fun f s =>
    let h := s.hand sh
    let vals := (List.range 32).map (fun i => bf16 (lane16 (h.getV f.a) i))
    let mode := s.shRnd sh f.rnd
    if f.fmt = 9 then
      let g := (h.getS f.b).toNat % 256
      if g = 255 then .fault s fltOperandCase 0
      else
        let rs := (vals.zip (List.range 32)).map
          (fun p => fmtG16.narrow false (mode p.2) (p.1.scale (127 - (g : Int))))
        .done (s.setHand sh (h.put f 4 (fun y => (y.setV f.d (packElems 9 (rs.map Prod.fst))).flag (orFlags rs))).nextPc)
    else
      match elemFmt f.fmt with
      | some (.fp g) =>
        if f.fmt = 6 ∨ f.fmt = 7 then
          let rs := (vals.zip (List.range 32)).map (fun p => g.narrow false (mode p.2) p.1)
          .done (s.setHand sh (h.put f 4 (fun y => (y.setV f.d (packElems f.fmt (rs.map Prod.fst))).flag (orFlags rs))).nextPc)
        else
          let r := narrowBlock (.fp g) mode vals
          .done (s.setHand sh
            (h.put f 4 (fun y => ((y.setV f.d (packElems f.fmt r.2.1)).setS f.b (r.1.setWidth 32)).flag r.2.2)).nextPc)
      | some .int8 =>
        let r := narrowBlock .int8 mode vals
        .done (s.setHand sh
          (h.put f 4 (fun y => ((y.setV f.d (packElems f.fmt r.2.1)).setS f.b (r.1.setWidth 32)).flag r.2.2)).nextPc)
      | none => .done s) sh s

/-- BF16 to INT32 (Table 5.8). -/
def toInt32 (mode : Rnd) (x : Num) : Word × StickyFlags :=
  match x with
  | .nan => (0, flagInv)
  | .inf n => ((if n then 0x80000000 else 0x7FFFFFFF), flagInv)
  | .fin n m e =>
    let r := roundInt mode n m e
    if r.1 < -(2 ^ 31 : Nat) then (0x80000000, flagInv)
    else if (2 ^ 31 : Nat) - 1 < r.1 then (0x7FFFFFFF, flagInv)
    else (BitVec.ofInt 32 r.1, if r.2 then flagInx else 0)

/-- INT32 to BF16 (Table 5.8). -/
def ofInt32 (mode : Rnd) (w : Word) : BitVec 16 × StickyFlags :=
  let r := fmtBF16.narrow false mode (.fin (w.toInt < 0) w.toInt.natAbs 0)
  (BitVec.ofNat 16 r.1, r.2)

/-- VCVTI (R144, Table 5.8): FMT 0 and 1 read BF16 lanes 0-15 and 16-31 into INT32 lanes; FMT 2 and 3 write them. -/
def execVcvti (sh : Fin 6144) (s : State) : Out :=
  shIssue 0x6A (fun f s =>
    let h := s.hand sh
    let lo := if f.fmt % 2 = 1 then 16 else 0
    if f.fmt < 2 then
      let rs := (List.range 16).map (fun i => toInt32 (s.shRnd sh f.rnd i) (bf16 (lane16 (h.getV f.a) (lo + i))))
      .done (s.setHand sh
        (h.put f 4 (fun y => (y.setV f.d (vec32 (rs.map Prod.fst))).flag (rs.foldl (fun a r => a ||| r.2) 0))).nextPc)
    else
      let rs := (List.range 16).map (fun i => ofInt32 (s.shRnd sh f.rnd (lo + i)) (lane32 (h.getV f.a) i))
      let lanes := (List.range 32).map (fun i =>
        if lo ≤ i ∧ i < lo + 16 then (rs.getD (i - lo) (0, 0)).1 else lane16 (h.getV f.d) i)
      .done (s.setHand sh
        (h.put f 4 (fun y => (y.setV f.d (vec16 lanes)).flag (rs.foldl (fun a r => a ||| r.2) 0))).nextPc)) sh s

/-- VRAND (R146): word 0 of crg at element index base + i into INT32 lane i. -/
def execVrand (sh : Fin 6144) (s : State) : Out :=
  shIssue 0x6C (fun f s =>
    .done (s.setHand sh
      ((s.hand sh).put f 8 (fun g => g.setV f.d (vec32 ((List.range 16).map (fun i => (s.shDraw sh i).1))))).nextPc)) sh s

end Sys2Proof.Machine
end

