-- ==== Sys2Proof/Machine/ShMemory.lean ====
section
/-!
DEFINITION. Machine/ShMemory.lean: the memory instructions of a stagehand in its own bay (R138, R139, Table 5.4).
-/
namespace Sys2Proof.Machine

/-- The check of an address (R139): the quota, then the alignment (entry 12). -/
def State.shAddrBad (s : State) (l off len align : Nat) : Option Nat :=
  let h := s.hand l
  if !((s.ctx h.part h.ctx).spOk off len) then some fltRange
  else if off % align ≠ 0 then some fltAlign
  else none

/-- The bay offset a + IMM times the access's size unit, modulo 2^32. -/
def shOffset (a : Word) (imm : Int) (unit : Nat) : Nat := (((a.toNat : Int) + imm * (unit : Int)) % (2 ^ 32 : Nat)).toNat

/-- How far the slice of a bay offset lies from a stagehand (R138, Table 5.4): 0 its own, 2 its quarter, 4 elsewhere. -/
def shDistance (l off : Nat) : Nat :=
  let t := off / 0x20000 % 128
  if t = handLocal l then 0 else if t / 32 = handLocal l / 32 then 2 else 4

/-- The latency of a memory instruction of opcode opc to the farthest of its slices (Table 5.4). -/
def shMemLatency (opc l : Nat) (offs : List Nat) : Nat := shPort opc + 1 + offs.foldl (fun m o => max m (shDistance l o)) 0

/-- The narrow accesses of n bytes from a bay offset: a word of 8 bytes in each port cycle (R138, R158). -/
def narrowBanks (opc off : Nat) : List Nat := (List.range (shPort opc)).map (fun i => bankOf (off + 8 * i))

/-- A load of n bytes at a + IMM · unit: the bytes go to the destination (R138, R139). -/
def shLoad (opc n align unit : Nat) (put : ShFields → Stagehand → List Byte → Stagehand) (l : Nat) (s : State) : Out :=
  shIssue opc (fun f s =>
    let h := s.hand l
    let off := shOffset (h.getS f.a) f.imm unit
    match s.shAddrBad l off n align with
    | some r => .fault s r (spAddr (handBay l) off)
    | none =>
      match s.spRead (handBay l) off n with
      | (s', some v) =>
        .done (s'.setHand l (h.access f (shMemLatency opc l [off]) (narrowBanks opc off) (some (fun g => put f g v))).nextPc)
      | (s', none) => .fault s' fltEccUncorr (spAddr (handBay l) off)) l s

/-- A store of n bytes at a + IMM · unit (R138, R139, R163). -/
def shStore (opc n align unit : Nat) (get : ShFields → Stagehand → List Byte) (l : Nat) (s : State) : Out :=
  shIssue opc (fun f s =>
    let h := s.hand l
    let off := shOffset (h.getS f.a) f.imm unit
    match s.shAddrBad l off n align with
    | some r => .fault s r (spAddr (handBay l) off)
    | none =>
      match s.spWrite (handBay l) off (get f h) with
      | (s', true) => .done (s'.setHand l (h.access f (shMemLatency opc l [off]) (narrowBanks opc off) none).nextPc)
      | (s', false) => .fault s' fltEccUncorr (spAddr (handBay l) off)) l s

/-- A scalar load's result: sign- or zero-extended. -/
def putScalar (n : Nat) (sgn : Bool) (f : ShFields) (h : Stagehand) (v : List Byte) : Stagehand :=
  h.setS f.d (if sgn then BitVec.ofInt 32 (signed (8 * n) (leNat v)) else BitVec.ofNat 32 (leNat v))

/-- A scalar store's data: the low bytes of the register D names (R136). -/
def getScalar (n : Nat) (f : ShFields) (h : Stagehand) : List Byte := toLE n (h.getS f.d).toNat

/-- A vector load's result; VLDH leaves the upper half zero. -/
def putVec (f : ShFields) (h : Stagehand) (v : List Byte) : Stagehand := h.setV f.d (vecBytes v)

/-- A vector store's data. -/
def getVec (n : Nat) (f : ShFields) (h : Stagehand) : List Byte := bytesOfVec n (h.getV f.d)

/-- LB (Table 5.3): byte, sign-extended. -/
def execLb (sh : Fin 6144) (s : State) : Out := shLoad 0x30 1 1 1 (putScalar 1 true) sh s

/-- LBU (Table 5.3): byte, zero-extended. -/
def execLbu (sh : Fin 6144) (s : State) : Out := shLoad 0x31 1 1 1 (putScalar 1 false) sh s

/-- LH (Table 5.3): half, sign-extended. -/
def execLh (sh : Fin 6144) (s : State) : Out := shLoad 0x32 2 2 1 (putScalar 2 true) sh s

/-- LHU (Table 5.3): half, zero-extended. -/
def execLhu (sh : Fin 6144) (s : State) : Out := shLoad 0x33 2 2 1 (putScalar 2 false) sh s

/-- LW (Table 5.3): word. -/
def execLw (sh : Fin 6144) (s : State) : Out := shLoad 0x34 4 4 1 (putScalar 4 false) sh s

/-- SB (Table 5.3): the low 8 bits of d. -/
def execSb (sh : Fin 6144) (s : State) : Out := shStore 0x35 1 1 1 (getScalar 1) sh s

/-- SH (Table 5.3): the low 16 bits of d. -/
def execSh (sh : Fin 6144) (s : State) : Out := shStore 0x36 2 2 1 (getScalar 2) sh s

/-- SW (Table 5.3): the 32 bits of d. -/
def execSw (sh : Fin 6144) (s : State) : Out := shStore 0x37 4 4 1 (getScalar 4) sh s

/-- VLD (Table 5.3): 64 B at a + IMM times 64 into vD. -/
def execVld (sh : Fin 6144) (s : State) : Out := shLoad 0x38 64 64 64 putVec sh s

/-- VST (Table 5.3): vD to the 64 B at a + IMM times 64. -/
def execVst (sh : Fin 6144) (s : State) : Out := shStore 0x39 64 64 64 (getVec 64) sh s

/-- VLDH (Table 5.3): 32 B at a + IMM times 32 into bits 255:0 of vD, zero above. -/
def execVldh (sh : Fin 6144) (s : State) : Out := shLoad 0x3A 32 32 32 putVec sh s

/-- VSTH (Table 5.3): bits 255:0 of vD to the 32 B at a + IMM times 32. -/
def execVsth (sh : Fin 6144) (s : State) : Out := shStore 0x3B 32 32 32 (getVec 32) sh s

/-- The bay offset of each lane of a gather or scatter: b + 4 times INT32 lane i of vA. -/
def laneOffsets (h : Stagehand) (f : ShFields) : List Nat :=
  (List.range 16).map (fun i => (h.getS f.b + 4 * lane32 (h.getV f.a) i).toNat)

/-- The first lane whose address breaks a rule of R139, with its code. -/
def State.firstBadLane (s : State) (l : Nat) : List Nat → Option (Nat × Nat)
  | [] => none
  | off :: offs =>
    match s.shAddrBad l off 4 4 with
    | some r => some (r, off)
    | none => s.firstBadLane l offs

/-- Read the words of the lanes; the first uncorrectable one stops with its offset. -/
def State.gatherWords (s : State) (bay : Nat) : List Nat → State × Except Nat (List Word)
  | [] => (s, .ok [])
  | off :: offs =>
    match s.spRead bay off 4 with
    | (s', none) => (s', .error off)
    | (s', some v) =>
      match s'.gatherWords bay offs with
      | (s'', .ok vs) => (s'', .ok (BitVec.ofNat 32 (leNat v) :: vs))
      | (s'', .error e) => (s'', .error e)

/-- VGATHER (Table 5.3): INT32 lane i of vD from the word at b + 4 times INT32 lane i of vA. -/
def execVgather (sh : Fin 6144) (s : State) : Out :=
  shIssue 0x3C (fun f s =>
    let h := s.hand sh
    let offs := laneOffsets h f
    match s.firstBadLane sh offs with
    | some (r, off) => .fault s r (spAddr (handBay sh) off)
    | none =>
      match s.gatherWords (handBay sh) offs with
      | (s', .ok vs) =>
        .done (s'.setHand sh (h.access f (shMemLatency 0x3C sh offs) (offs.map bankOf) (some (fun g => g.setV f.d (vec32 vs)))).nextPc)
      | (s', .error off) => .fault s' fltEccUncorr (spAddr (handBay sh) off)) sh s

/-- Write the lanes in rising order: coinciding addresses keep the highest lane's value (R139). -/
def State.scatterWords (s : State) (bay : Nat) : List (Nat × Word) → State
  | [] => s
  | (off, v) :: rest =>
    State.scatterWords ((s.freshWords (wordsOf (spAddr bay off) 4)).putBytes (spAddr bay off) (toLE 4 v.toNat)) bay rest

/-- VSCATTER (Table 5.3, R139): INT32 lane i of vD to the word at b + 4 times INT32 lane i of vA. -/
def execVscatter (sh : Fin 6144) (s : State) : Out :=
  shIssue 0x3D (fun f s =>
    let h := s.hand sh
    let offs := laneOffsets h f
    match s.firstBadLane sh offs with
    | some (r, off) => .fault s r (spAddr (handBay sh) off)
    | none =>
      -- each store of 4 bytes reads its word first (R163)
      match s.checkWords (offs.map (fun off => spAddr (handBay sh) off / 8)) with
      | (s', true) =>
        .done ((s'.scatterWords (handBay sh) (offs.zip ((List.range 16).map (lane32 (h.getV f.d))))).setHand sh
          (h.access f (shMemLatency 0x3D sh offs) (offs.map bankOf) none).nextPc)
      | (s', false) =>
        let bad := (offs.find? (fun off => decide (sget 0 s.memErr (spAddr (handBay sh) off / 8) = 2))).getD 0
        .fault s' fltEccUncorr (spAddr (handBay sh) bad)) sh s

end Sys2Proof.Machine
end

