-- ==== Sys2Proof/Machine/ShScalar.lean ====
section
/-!
DEFINITION. Machine/ShScalar.lean: the scalar, branch and loop instructions of a stagehand (Table 5.3, R137, R149).
-/
namespace Sys2Proof.Machine

/-- d = a op b (Table 5.3). -/
def shAlu (opc : Nat) (op : Word → Word → Word) (l : Nat) (s : State) : Out :=
  shReg opc (fun f h => h.setS f.d (op (h.getS f.a) (h.getS f.b))) l s

/-- d = a op IMM (Table 5.3). -/
def shAluImm (opc : Nat) (op : Word → Word → Word) (l : Nat) (s : State) : Out :=
  shReg opc (fun f h => h.setS f.d (op (h.getS f.a) (BitVec.ofInt 32 f.imm))) l s

/-- The operations of the scalar unit. -/
def opSll (a b : Word) : Word := a <<< (b.toNat % 32)
def opSrl (a b : Word) : Word := a >>> (b.toNat % 32)
def opSra (a b : Word) : Word := a.sshiftRight (b.toNat % 32)
def opSlt (a b : Word) : Word := if a.slt b then 1 else 0
def opSltu (a b : Word) : Word := if a.ult b then 1 else 0

/-- A program counter moved by an offset; a target outside 0 to 1,023 faults when it would issue (R137). -/
def pcPlus (pc : Nat) (off : Int) : Nat := (((pc : Int) + off) % (2 ^ 32 : Nat)).toNat

/-- ADD (Table 5.3): d = a + b, modulo 2^32. -/
def execAdd (sh : Fin 6144) (s : State) : Out := shAlu 0x01 (· + ·) sh s

/-- SUB (Table 5.3): d = a - b. -/
def execSub (sh : Fin 6144) (s : State) : Out := shAlu 0x02 (· - ·) sh s

/-- AND (Table 5.3): d = a and b. -/
def execAnd (sh : Fin 6144) (s : State) : Out := shAlu 0x03 (· &&& ·) sh s

/-- OR (Table 5.3): d = a or b. -/
def execOr (sh : Fin 6144) (s : State) : Out := shAlu 0x04 (· ||| ·) sh s

/-- XOR (Table 5.3): d = a xor b. -/
def execXor (sh : Fin 6144) (s : State) : Out := shAlu 0x05 (· ^^^ ·) sh s

/-- SLL (Table 5.3): d = a shifted left by b[4:0]. -/
def execSll (sh : Fin 6144) (s : State) : Out := shAlu 0x06 opSll sh s

/-- SRL (Table 5.3): d = a shifted right by b[4:0]. -/
def execSrl (sh : Fin 6144) (s : State) : Out := shAlu 0x07 opSrl sh s

/-- SRA (Table 5.3): d = a shifted right by b[4:0], sign kept. -/
def execSra (sh : Fin 6144) (s : State) : Out := shAlu 0x08 opSra sh s

/-- SLT (Table 5.3): d = 1 if a < b, signed. -/
def execSlt (sh : Fin 6144) (s : State) : Out := shAlu 0x09 opSlt sh s

/-- SLTU (Table 5.3): d = 1 if a < b, unsigned. -/
def execSltu (sh : Fin 6144) (s : State) : Out := shAlu 0x0A opSltu sh s

/-- MUL (Table 5.3): d = bits 31:0 of a times b. -/
def execMul (sh : Fin 6144) (s : State) : Out := shAlu 0x0B (· * ·) sh s

/-- ADDI (Table 5.3): d = a + IMM. -/
def execAddi (sh : Fin 6144) (s : State) : Out := shAluImm 0x10 (· + ·) sh s

/-- ANDI (Table 5.3): d = a and IMM. -/
def execAndi (sh : Fin 6144) (s : State) : Out := shAluImm 0x11 (· &&& ·) sh s

/-- ORI (Table 5.3): d = a or IMM. -/
def execOri (sh : Fin 6144) (s : State) : Out := shAluImm 0x12 (· ||| ·) sh s

/-- XORI (Table 5.3): d = a xor IMM. -/
def execXori (sh : Fin 6144) (s : State) : Out := shAluImm 0x13 (· ^^^ ·) sh s

/-- SLLI (Table 5.3): d = a shifted left by IMM[4:0]. -/
def execSlli (sh : Fin 6144) (s : State) : Out := shAluImm 0x14 opSll sh s

/-- SRLI (Table 5.3): d = a shifted right by IMM[4:0]. -/
def execSrli (sh : Fin 6144) (s : State) : Out := shAluImm 0x15 opSrl sh s

/-- SRAI (Table 5.3): d = a shifted right by IMM[4:0], sign kept. -/
def execSrai (sh : Fin 6144) (s : State) : Out := shAluImm 0x16 opSra sh s

/-- SLTI (Table 5.3): d = 1 if a < IMM, signed. -/
def execSlti (sh : Fin 6144) (s : State) : Out := shAluImm 0x17 opSlt sh s

/-- LUI (Table 5.3): d = IMM times 2^13. -/
def execLui (sh : Fin 6144) (s : State) : Out :=
  shReg 0x18 (fun f h => h.setS f.d (BitVec.ofInt 32 (f.imm19 * 8192))) sh s

/-- A branch (Table 5.3): pc = pc + OFF when the condition on a and b holds; a branch that is taken takes two cycles. In the B format the register A stands in
bits 23:19 and B in bits 18:14 (Table 5.2). -/
def shBr (opc : Nat) (l : Nat) (s : State) : Out :=
  shIssue opc (fun f s =>
    let h := s.hand l
    .done (s.setHand l
      (if shBranch opc (h.getS f.d) (h.getS f.a) then { h with pc := pcPlus h.pc f.imm, issue := h.issue + 1 }
       else h.nextPc))) l s

/-- BEQ: branch if equal. -/
def execBeq (sh : Fin 6144) (s : State) : Out := shBr 0x20 sh s

/-- BNE: branch if not equal. -/
def execBne (sh : Fin 6144) (s : State) : Out := shBr 0x21 sh s

/-- BLT: branch if a < b, signed. -/
def execBlt (sh : Fin 6144) (s : State) : Out := shBr 0x22 sh s

/-- BGE: branch if a ≥ b, signed. -/
def execBge (sh : Fin 6144) (s : State) : Out := shBr 0x23 sh s

/-- BLTU: branch if a < b, unsigned. -/
def execBltu (sh : Fin 6144) (s : State) : Out := shBr 0x24 sh s

/-- BGEU: branch if a ≥ b, unsigned. -/
def execBgeu (sh : Fin 6144) (s : State) : Out := shBr 0x25 sh s

/-- JAL (Table 5.3): d = pc + 1; pc = pc + IMM. -/
def execJal (sh : Fin 6144) (s : State) : Out :=
  shIssue 0x26 (fun f s =>
    let h := s.hand sh
    .done (s.setHand sh { h.put f 2 (fun g => g.setS f.d (BitVec.ofNat 32 (h.pc + 1))) with
      pc := pcPlus h.pc f.imm19, issue := h.issue + 1 })) sh s

/-- JR (Table 5.3): d = pc + 1; pc = a + IMM, a as it was at issue (R134). -/
def execJr (sh : Fin 6144) (s : State) : Out :=
  shIssue 0x27 (fun f s =>
    let h := s.hand sh
    .done (s.setHand sh { h.put f 2 (fun g => g.setS f.d (BitVec.ofNat 32 (h.pc + 1))) with
      pc := pcPlus (h.getS f.a).toNat f.imm, issue := h.issue + 1 })) sh s

/-- LOOP (R137): the next IMM instructions run as many times as sA says; a count of 0 skips the body. -/
def execLoop (sh : Fin 6144) (s : State) : Out :=
  shIssue 0x28 (fun f s =>
    let h := s.hand sh
    let n := (h.getS f.a).toNat
    let len := f.imm.toNat
    .done (s.setHand sh
      (if n = 0 then { h with pc := h.pc + len + 1 }
       else { h with pc := h.pc + 1, loop := some { first := h.pc + 1, last := h.pc + len, left := n } }))) sh s

/-- HALT (R149): the program ends; what it issued before goes on to its end. -/
def execHalt (sh : Fin 6144) (s : State) : Out :=
  shIssue 0x2F (fun _ s => .done (s.setHand sh { s.hand sh with running := false, loop := none })) sh s

/-- NOP (Table 5.3): nothing. -/
def execNop (sh : Fin 6144) (s : State) : Out := shReg 0x7B (fun _ h => h) sh s

/-- RDFL (R145): sD = the sticky flags as written by its issue, in the bit positions of STN_FLAGS. -/
def execRdfl (sh : Fin 6144) (s : State) : Out :=
  shIssue 0x70 (fun f s =>
    let h := s.hand sh
    .done (s.setHand sh (h.put f 1 (fun g => g.setS f.d (h.flags.setWidth 32))).nextPc)) sh s

/-- CLRFL (R145): each flag whose bit is 1 in sA is cleared, at the latency of Table 5.3; a later instruction that sets
it in that cycle leaves it set. -/
def execClrfl (sh : Fin 6144) (s : State) : Out :=
  shIssue 0x71 (fun f s =>
    let h := s.hand sh
    let w : ShWrite := { due := h.issue, s := [], v := [], p := [], flags := 0, clear := (h.getS f.a).setWidth 5, load := false,
                         store := false, words := [], ask := 0, age := 0 }
    .done (s.setHand sh ({ h with flight := insertWrite w h.flight } : Stagehand).nextPc)) sh s

end Sys2Proof.Machine
end

