-- ==== Sys2Proof/Machine/ShSync.lean ====
section
/-!
DEFINITION. Machine/ShSync.lean: cue flags and curtains of a stagehand (R151, R185 to R187).
-/
namespace Sys2Proof.Machine

/-- WAITF k (R151): goes on when flag k is set at the stagehand's bay node, else waits for it at issue. -/
def execWaitf (sh : Fin 6144) (s : State) : Out :=
  shIssue 0x78 (fun f s =>
    let h := s.hand sh
    let k := f.imm.toNat
    .done (s.setHand sh (if s.flagAt (handBay sh) h.part k then h.nextPc else { h with wait := .flag k }))) sh s

/-- The crossing from a bay's engines to its curtain-network node holds 16 events: the sender waits (R332). -/
def State.crtFull (s : State) (node : Nat) : Bool :=
  decide (16 ≤ (s.crt.waiting.filter (fun e => decide (e.node = node))).length)

/-- SETF k (R151): when every earlier store and RPUT has completed, sets flag k; until then it waits at issue. -/
def execSetf (sh : Fin 6144) (s : State) : Out :=
  shIssue 0x79 (fun f s =>
    let h := s.hand sh
    if s.crtFull (handBay sh) then .wait
    else .done ((s.setHand sh h.nextPc).sendCrt (handBay sh) (.flagSet h.part f.imm.toNat))) sh s

/-- CURT n (R151, R187): when every earlier store and RPUT has completed, arrives at curtain n with payload 0 and waits
for its release. -/
def execCurt (sh : Fin 6144) (s : State) : Out :=
  shIssue 0x7A (fun f s =>
    let h := s.hand sh
    let n := f.imm.toNat
    if s.crtFull (handBay sh) then .wait
    else .done ((s.setHand sh { h with wait := .curtain n }).sendCrt (handBay sh) (.arrive h.part n 0 h.ctx 2 sh))) sh s

end Sys2Proof.Machine
end

