-- ==== Sys2Proof/Machine/ShVector.lean ====
section
/-!
DEFINITION. Machine/ShVector.lean: the vector, predicate and integer-lane instructions of a stagehand (R141 to R143).
-/
namespace Sys2Proof.Machine

/-- A BF16 lane operation on vA and vB under pP: the result to vD, its flags to the sticky flags (R136, R141). -/
def shLane (opc : Nat) (op : BitVec 16 → BitVec 16 → BitVec 16 → BitVec 16 × StickyFlags) (l : Nat) (s : State) : Out :=
  shReg opc (fun f h =>
    let r := mapLanes16 (h.getP f.p) (h.getV f.d)
      (fun i => op (lane16 (h.getV f.a) i) (lane16 (h.getV f.b) i) (lane16 (h.getV f.d) i))
    (h.setV f.d r.1).flag r.2) l s

/-- d = a × b + c on BF16, rounded once (Table 5.5). -/
def bfFma (a b c : BitVec 16) : BitVec 16 × StickyFlags :=
  let r := fmaNum (bf16 a) (bf16 b) (bf16 c)
  let w := toBf16 r.1
  (w.1, r.2 ||| w.2)

/-- VADD is VFMA with b = 1; VSUB is VADD with the sign of b inverted; VMUL is VFMA with d = −0 (R141). -/
def bfAdd (a b : BitVec 16) : BitVec 16 × StickyFlags := bfFma a 0x3F80 b
def bfSub (a b : BitVec 16) : BitVec 16 × StickyFlags := bfAdd a (b ^^^ 0x8000)
def bfMul (a b : BitVec 16) : BitVec 16 × StickyFlags := bfFma a b 0x8000

/-- The BF16 code of a value that is exact, NF set when it is a NaN or an infinity (Table 5.6, R117). -/
def bfExact (x : Num) : BitVec 16 × StickyFlags := toBf16 x

/-- Sign bit cleared or inverted; a NaN becomes the canonical NaN (Table 5.3). -/
def bfAbs (a : BitVec 16) : BitVec 16 × StickyFlags :=
  if (bf16 a).isNan then (0x7FC0, flagNf) else (a &&& 0x7FFF, if (bf16 a).isInf then flagNf else 0)
def bfNeg (a : BitVec 16) : BitVec 16 × StickyFlags :=
  if (bf16 a).isNan then (0x7FC0, flagNf) else (a ^^^ 0x8000, if (bf16 a).isInf then flagNf else 0)

/-- The BF16 result of an algorithm: the stored value, INX unless it is exact, UNF if the exact result is tiny. -/
def bfResult (x : Num) (exact : Num → Bool) (tiny : Bool) : BitVec 16 × StickyFlags :=
  let w := toBf16 x
  if (bf16 w.1).isInf then w
  else (w.1, if exact (bf16 w.1) then 0 else if tiny then flagInx ||| flagUnf else flagInx)

/-- VEXP on one lane (Table 5.7). -/
def bfExp (a : BitVec 16) : BitVec 16 × StickyFlags :=
  match bf16 a with
  | .nan => (0x7FC0, flagNf)
  | .inf false => (0x7F80, flagNf)
  | .inf true => (0x0000, 0)
  | .fin n 0 e => let _ := (n, e); (0x3F80, 0)
  | x => let r := expRef x; bfResult (expNum x) (fun _ => false) (magLt r.1 r.2 1 (-126))

/-- VRCP on one lane (Table 5.7). -/
def bfRcp (a : BitVec 16) : BitVec 16 × StickyFlags :=
  match bf16 a with
  | .nan => (0x7FC0, flagNf)
  | .inf false => (0x0000, 0)
  | .inf true => (0x8000, 0)
  | .fin n 0 _ => ((if n then 0xFF80 else 0x7F80), flagNf)
  | .fin n m e =>
    bfResult (rcpNum (.fin n m e))
      (fun y => match y with
        | .fin _ m' e' => let q := mulNum (.fin false m e) (.fin false m' e'); eqNum q.1 (.fin false 1 0)
        | _ => false)
      (magLt 1 126 m e)

/-- VRSQ on one lane (Table 5.7). -/
def bfRsq (a : BitVec 16) : BitVec 16 × StickyFlags :=
  match bf16 a with
  | .nan => (0x7FC0, flagNf)
  | .inf false => (0x0000, 0)
  | .inf true => (0x7FC0, flagInv ||| flagNf)
  | .fin n 0 _ => ((if n then 0xFF80 else 0x7F80), flagNf)
  | .fin true _ _ => (0x7FC0, flagInv ||| flagNf)
  | .fin false m e =>
    bfResult (rsqNum (.fin false m e))
      (fun y => match y with
        | .fin _ m' e' => eqNum (.fin false (m * m' * m') (e + e' + e')) (.fin false 1 0)
        | _ => false) false

/-- A comparison: predicate bits of the lanes under pP, no flag (R142). -/
def shCompare (opc : Nat) (cmp : Num → Num → Bool) (l : Nat) (s : State) : Out :=
  shReg opc (fun f h =>
    let bits := (List.range 32).foldl (fun (acc : Word) i =>
      let v := if (h.getP f.p).getLsbD i then cmp (bf16 (lane16 (h.getV f.a) i)) (bf16 (lane16 (h.getV f.b) i))
               else (h.getP f.d).getLsbD i
      if v then acc ||| (1 <<< i) else acc) 0
    h.setP f.d bits) l s

/-- An INT32 lane operation under pP, no flags (Table 5.3). -/
def shIntLane (opc : Nat) (op : Stagehand → ShFields → Nat → Word) (l : Nat) (s : State) : Out :=
  shReg opc (fun f h => h.setV f.d (mapLanes32 (h.getP f.p) (h.getV f.d) (op h f))) l s

/-- VADD (Table 5.5): d = a + b. -/
def execVadd (sh : Fin 6144) (s : State) : Out :=
  shLane 0x40 (fun a b _ => bfAdd a b) sh s

/-- VSUB (R141): d = a − b. -/
def execVsub (sh : Fin 6144) (s : State) : Out :=
  shLane 0x41 (fun a b _ => bfSub a b) sh s

/-- VMUL (R141): d = a × b. -/
def execVmul (sh : Fin 6144) (s : State) : Out :=
  shLane 0x42 (fun a b _ => bfMul a b) sh s

/-- VFMA (Table 5.5): d = a × b + d. -/
def execVfma (sh : Fin 6144) (s : State) : Out :=
  shLane 0x43 (fun a b d => bfFma a b d) sh s

/-- VMAX (Table 5.6). -/
def execVmax (sh : Fin 6144) (s : State) : Out :=
  shLane 0x44 (fun a b _ => bfExact (maxNum (bf16 a) (bf16 b))) sh s

/-- VMIN (Table 5.6). -/
def execVmin (sh : Fin 6144) (s : State) : Out :=
  shLane 0x45 (fun a b _ => bfExact (minNum (bf16 a) (bf16 b))) sh s

/-- VABS (Table 5.3, R117). -/
def execVabs (sh : Fin 6144) (s : State) : Out :=
  shLane 0x46 (fun a _ _ => bfAbs a) sh s

/-- VNEG (Table 5.3, R117). -/
def execVneg (sh : Fin 6144) (s : State) : Out :=
  shLane 0x47 (fun a _ _ => bfNeg a) sh s

/-- VEXP (Table 5.7). -/
def execVexp (sh : Fin 6144) (s : State) : Out :=
  shLane 0x48 (fun a _ _ => bfExp a) sh s

/-- VRCP (Table 5.7). -/
def execVrcp (sh : Fin 6144) (s : State) : Out :=
  shLane 0x49 (fun a _ _ => bfRcp a) sh s

/-- VRSQ (Table 5.7). -/
def execVrsq (sh : Fin 6144) (s : State) : Out :=
  shLane 0x4A (fun a _ _ => bfRsq a) sh s

/-- VCMPLT (Table 5.6). -/
def execVcmplt (sh : Fin 6144) (s : State) : Out :=
  shCompare 0x4C ltNum sh s

/-- VCMPLE (Table 5.6). -/
def execVcmple (sh : Fin 6144) (s : State) : Out :=
  shCompare 0x4D (fun a b => ltNum a b || eqNum a b) sh s

/-- VCMPEQ (Table 5.6). -/
def execVcmpeq (sh : Fin 6144) (s : State) : Out :=
  shCompare 0x4E eqNum sh s

/-- VSEL (Table 5.3): lane i of d = lane i of a if bit i of pP is 1, else lane i of b; no flag (R117). -/
def execVsel (sh : Fin 6144) (s : State) : Out :=
  shReg 0x4F (fun f h => h.setV f.d (vec16 ((List.range 32).map (fun i =>
    if (h.getP f.p).getLsbD i then lane16 (h.getV f.a) i else lane16 (h.getV f.b) i)))) sh s

/-- The lanes of vA that pP selects. -/
def maskedLanes (h : Stagehand) (f : ShFields) : List Num :=
  (List.range 32).filterMap (fun i => if (h.getP f.p).getLsbD i then some (bf16 (lane16 (h.getV f.a) i)) else none)

/-- VRSUM (R143): the exact sum of the lanes under pP and sB[15:0], rounded once. -/
def execVrsum (sh : Fin 6144) (s : State) : Out :=
  shReg 0x50 (fun f h =>
    let t := sumNum (maskedLanes h f ++ [bf16 ((h.getS f.b).setWidth 16)])
    let w := toBf16 t.1
    (h.setS f.d (w.1.setWidth 32)).flag (t.2 ||| w.2)) sh s

/-- VRMAX (Table 5.6): the maximum of the lanes under pP and sB[15:0]. -/
def execVrmax (sh : Fin 6144) (s : State) : Out :=
  shReg 0x51 (fun f h =>
    let w := bfExact ((maskedLanes h f).foldl maxNum (bf16 ((h.getS f.b).setWidth 16)))
    (h.setS f.d (w.1.setWidth 32)).flag w.2) sh s

/-- VBCAST (Table 5.3): every BF16 lane of vD = sA[15:0], under pP. -/
def execVbcast (sh : Fin 6144) (s : State) : Out :=
  shReg 0x52 (fun f h => h.setV f.d
    (mapLanes16 (h.getP f.p) (h.getV f.d) (fun _ => ((h.getS f.a).setWidth 16, 0))).1) sh s

/-- VEXTR (Table 5.3): sD = BF16 lane sB[4:0] of vA, zero-extended. -/
def execVextr (sh : Fin 6144) (s : State) : Out :=
  shReg 0x53 (fun f h => h.setS f.d ((lane16 (h.getV f.a) ((h.getS f.b).toNat % 32)).setWidth 32)) sh s

/-- VIADD (Table 5.3). -/
def execViadd (sh : Fin 6144) (s : State) : Out :=
  shIntLane 0x58 (fun h f i => lane32 (h.getV f.a) i + lane32 (h.getV f.b) i) sh s

/-- VISUB (Table 5.3). -/
def execVisub (sh : Fin 6144) (s : State) : Out :=
  shIntLane 0x59 (fun h f i => lane32 (h.getV f.a) i - lane32 (h.getV f.b) i) sh s

/-- VIMUL (Table 5.3). -/
def execVimul (sh : Fin 6144) (s : State) : Out :=
  shIntLane 0x5A (fun h f i => lane32 (h.getV f.a) i * lane32 (h.getV f.b) i) sh s

/-- VISHL (Table 5.3): lanes of vA shifted left by sB[4:0]. -/
def execVishl (sh : Fin 6144) (s : State) : Out :=
  shIntLane 0x5B (fun h f i => lane32 (h.getV f.a) i <<< ((h.getS f.b).toNat % 32)) sh s

/-- VIOTA (Table 5.3): lane i of vD = a + i. -/
def execViota (sh : Fin 6144) (s : State) : Out :=
  shIntLane 0x5C (fun h f i => h.getS f.a + BitVec.ofNat 32 i) sh s

/-- PAND (Table 5.3). -/
def execPand (sh : Fin 6144) (s : State) : Out :=
  shReg 0x60 (fun f h => h.setP f.d (h.getP f.a &&& h.getP f.b)) sh s

/-- POR (Table 5.3). -/
def execPor (sh : Fin 6144) (s : State) : Out :=
  shReg 0x61 (fun f h => h.setP f.d (h.getP f.a ||| h.getP f.b)) sh s

/-- PNOT (Table 5.3). -/
def execPnot (sh : Fin 6144) (s : State) : Out :=
  shReg 0x62 (fun f h => h.setP f.d (~~~ h.getP f.a)) sh s

/-- PSET (Table 5.3): pD = sA. -/
def execPset (sh : Fin 6144) (s : State) : Out :=
  shReg 0x63 (fun f h => h.setP f.d (h.getS f.a)) sh s

/-- PGET (Table 5.3): sD = pA. -/
def execPget (sh : Fin 6144) (s : State) : Out :=
  shReg 0x64 (fun f h => h.setS f.d (h.getP f.a)) sh s

end Sys2Proof.Machine
end

