-- ==== Sys2Proof/Machine/YemirIo.lean ====
section
/-!
DEFINITION. Machine/YemirIo.lean: the mailbox registers' commands, and the tray controller's I3C registers: caps, alerts,
enrolment and clearing of an owner, and the owner's policy (R389, R397 to R401, R405, R406, R415 to R417).
-/
namespace Sys2Proof.Machine

/-- MBX_PUSH (R399): a write of MBX_WDATA15 pushes the staged entry, or meets the full policy. -/
def execMbxPush (n : Fin 16) (v : Word) (s : State) : Out := if s.mbxOn then .next (s.writeReg (aMbx n 0x7C) v) else idle s

/-- MBX_DOORBELL (R398): the ring goes into its event crossing. -/
def execMbxDoorbell (n : Fin 16) (s : State) : Out := if s.mbxOn then .next (s.writeReg (aMbx n 0x08) 1) else idle s

/-- MBX_POP (R398): a read of MBX_RDATA15 removes the head entry. -/
def execMbxPop (n : Fin 16) (s : State) : Out := if s.mbxOn then .next (s.readReg (aMbx n 0xBC)).1 else idle s

/-- MAILBOX_RETRY (R399): the cue processor of channel 0 to 3 pushes its oldest kept entry again, 1 µs after the last
time; no other writer keeps one. -/
def execMailboxRetry (n : Fin 16) (s : State) : Out :=
  match (s.cp n).mbxRetry with
  | e :: rest =>
    if s.mbxOn && decide (n.val < 4) && decide ((s.cp n).mbxAt + 1000 ≤ s.clock.house) then
      let r := s.mbxPush n e
      .next (if r.2 then State.ringMail (r.1.setCp n { s.cp n with mbxRetry := rest }) n
        else r.1.setCp n { s.cp n with mbxAt := s.clock.house })
    else idle s
  | [] => idle s

/-- YMR_RISK.LEVEL (Table 14.12): the highest threshold at or below the score. -/
def riskLevelOf (score : Nat) : Nat := if 224 ≤ score then 3 else if 160 ≤ score then 2 else if 96 ≤ score then 1 else 0

/-- Hottest stack, whole degrees. -/
def Sensors.hottestHbm (x : Sensors) : Nat := (List.range 12).foldl (fun m n => max m (sget 0 x.hbmTemp n)) 0

/-- What an I3C register reads as (Table 14.12); write-only fields and unlisted indices read 0 (R10, R416). -/
def State.i3cValue (s : State) (i : Nat) : Word :=
  let y := s.ymr
  let x := y.sensors
  if i = 0x00 then 0x41580A01
  else if i = 0x04 then wordOf [(b2n y.owner.isSome, 9, 9), (b2n y.dieOn, 8, 8), (y.st, 7, 0)]
  else if i = 0x08 then y.heartbeat
  else if i = 0x0C then wordOf [(riskLevelOf y.score, 9, 8), (y.score, 7, 0)]
  else if i = 0x10 then wordOf [(x.hottestHbm, 31, 24), (s.hottestBay, 23, 16), (x.outlet / 10, 15, 8), (x.inlet / 10, 7, 0)]
  else if i = 0x14 then wordOf [(min 0xFFFF x.vin, 31, 16), (min 0xFFFF x.watts, 15, 0)]
  else if i = 0x18 then wordOf [(b2n y.wdog, 31, 31), (y.alert.toNat, 5, 0)]
  else if i = 0x1C then lo32 y.alertMask.toNat
  else if i = 0x20 then wordOf [(y.capE, 14, 8), (y.capW, 6, 0)]
  else if i = 0x48 then wordOf [(y.ownerResult, 31, 30)]
  else 0

/-- The result of a command in YMR_OWNERCMD: 1 done, 2 refused. -/
def State.ownerResult (s : State) (cmd r : Nat) : State := { s with ymr := { s.ymr with ownerCmd := cmd, ownerResult := r } }

/-- The enrolment digest of YMR_OWNERKEY0 to 7, word 0 lowest. -/
def Yemir.enrolDigest (y : Yemir) : Nat := (List.range 8).foldl (fun a k => a + (sget 0 y.ownerKeyW k).toNat * 2 ^ (32 * k)) 0

/-- Enrolment stores the digest and the policy (R405); refused while an owner is enrolled. -/
def State.enrol (s : State) : State :=
  if s.ymr.owner.isSome then s.ownerResult 1 2
  else
    let y := s.ymr
    let s := { s with ymr := { y with owner := some y.enrolDigest, policy := y.ownerPolW &&& 0xFF03, st := if y.st = 2 then 1 else y.st } }
    (s.ownerResult 1 1).logEvent 0x0071 whereModule 1

/-- Clearing erases the owner record and every tenant seed, and closes every session (R405); refused while any context
exists. -/
def State.clearOwner (s : State) : State :=
  if s.liveCtxs.isEmpty then
    let y := s.ymr
    let s := { s with
      ymr := { y with owner := none, policy := 0, sessions := [], st := if y.st = 1 then 2 else y.st },
      parts := smap Partition.empty (fun _ p => { p with seed := 0, seedTime := 0 }) s.parts }
    (s.ownerResult 2 1).logEvent 0x0071 whereModule 2
  else s.ownerResult 2 2

/-- ENROL (R405): CMD = 1 of YMR_OWNERCMD. -/
def execEnrol (s : State) : Out := if s.ymrUp then .next s.enrol else idle s

/-- CLEAR_OWNER (R405): CMD = 2 of YMR_OWNERCMD. -/
def execClearOwner (s : State) : Out := if s.ymrUp then .next s.clearOwner else idle s

/-- YMR_POLICY_WRITE (R406): the owner's write, which needs an owner and the register's bus. -/
def execYmrPolicyWrite (v : Word) (s : State) : Out :=
  if s.ymrUp && s.ymr.dieOn && s.ymr.owner.isSome then .next (s.writePolicy v) else idle s

/-- A tray write of the half caps: a code above 0x5A leaves its field (R416); each half takes the lower cap (R389). -/
def State.writeTrayCap (s : State) (v : Word) : State :=
  let e := fld v 14 8
  let w := fld v 6 0
  let y := s.ymr
  State.applyCaps { s with ymr := { y with capE := if e ≤ 0x5A then e else y.capE, capW := if w ≤ 0x5A then w else y.capW } }

/-- YMR_CAP_WRITE (R416). -/
def execYmrCapWrite (v : Word) (s : State) : Out := if s.power = .off then idle s else .next (s.writeTrayCap v)

/-- One word of an I3C private write (Table 14.12); unlisted indices ignore it. -/
def State.i3cPut (s : State) (i : Nat) (v : Word) : State :=
  let y := s.ymr
  if i = 0x18 then { s with ymr := { y with alert := y.alert &&& ~~~(v.setWidth 6) } }
  else if i = 0x1C then { s with ymr := { y with alertMask := v.setWidth 6 } }
  else if i = 0x20 then s.writeTrayCap v
  else if 0x24 ≤ i ∧ i ≤ 0x40 ∧ i % 4 = 0 then { s with ymr := { y with ownerKeyW := sset 0 y.ownerKeyW ((i - 0x24) / 4) v } }
  else if i = 0x44 then { s with ymr := { y with ownerPolW := v } }
  else if i = 0x48 then
    (if !s.ymrUp then s else if fld v 1 0 = 1 then s.enrol else if fld v 1 0 = 2 then s.clearOwner else s)
  else s

/-- The words of a private write, from an index onward: the index advances by 4 per word, over its 8 bits. -/
def State.i3cPutAll (s : State) (i : Nat) : List Word → State
  | [] => { s with ymr := { s.ymr with i3cIndex := i } }
  | v :: vs => (s.i3cPut i v).i3cPutAll ((i + 4) % 256) vs

/-- Yemir's I3C target answers: it has an address, halted or not (R415). -/
def State.i3cOn (s : State) : Bool := decide (s.power ≠ .off) && s.pins.i3cAddr.isSome

/-- I3C_PRIVATE_WRITE (R415). -/
def execI3cPrivateWrite (index : Nat) (values : List Word) (s : State) : Out :=
  if s.i3cOn then .next (s.i3cPutAll (index % 256) values) else idle s

/-- I3C_PRIVATE_READ (R415). -/
def execI3cPrivateRead (words : Nat) (s : State) : Out :=
  if s.i3cOn then
    let i := s.ymr.i3cIndex
    let out := (List.range words).map (fun k => s.i3cValue ((i + 4 * k) % 256))
    .next { s with ymr := { s.ymr with i3cOut := out, i3cIndex := (i + 4 * words) % 256 } }
  else idle s

/-- DYNAMIC_ADDRESS_ASSIGNMENT (R415): SETDASA through the static address 0x2C, or ENTDAA; either gives the
target the address, in place of one it had. -/
def execDynamicAddressAssignment (_dasa : Bool) (addr : BitVec 7) (s : State) : Out :=
  if s.power = .off then idle s
  else .next { s with pins := { s.pins with i3cAddr := some addr } }

end Sys2Proof.Machine
end

