-- ==== Sys2Proof/Machine/Dispatch.lean ====
section
/-!
DEFINITION. Machine/Dispatch.lean: one arm per command, each one direct call of that command's meaning.
-/
namespace Sys2Proof.Machine

/-- The command's effect on everything but the queue. -/
def exec (i : Instr) (s : State) : Host.Outcome State Fault Refusal :=
  match i with
  | .stnNop bay q => Sys2Proof.Machine.execStnNop bay q s
  | .stnAgen bay q => Sys2Proof.Machine.execStnAgen bay q s
  | .stnTload bay q => Sys2Proof.Machine.execStnTload bay q s
  | .stnInject bay q => Sys2Proof.Machine.execStnInject bay q s
  | .stnMma bay q => Sys2Proof.Machine.execStnMma bay q s
  | .stnCarry bay q => Sys2Proof.Machine.execStnCarry bay q s
  | .stnDrain bay q => Sys2Proof.Machine.execStnDrain bay q s
  | .stnSpill bay q => Sys2Proof.Machine.execStnSpill bay q s
  | .stnFill bay q => Sys2Proof.Machine.execStnFill bay q s
  | .reNorm bay q => Sys2Proof.Machine.execReNorm bay q s
  | .reRms bay q => Sys2Proof.Machine.execReRms bay q s
  | .reSmax bay q => Sys2Proof.Machine.execReSmax bay q s
  | .reNormBwd bay q => Sys2Proof.Machine.execReNormBwd bay q s
  | .reRmsBwd bay q => Sys2Proof.Machine.execReRmsBwd bay q s
  | .reSmaxBwd bay q => Sys2Proof.Machine.execReSmaxBwd bay q s
  | .reRowdot bay q => Sys2Proof.Machine.execReRowdot bay q s
  | .commandArrival idx => Sys2Proof.Machine.execCommandArrival idx s
  | .commandCompletion bay id => Sys2Proof.Machine.execCommandCompletion bay id s
  | .rowInjection st dir => Sys2Proof.Machine.execRowInjection st dir s
  | .passRowArrival st dir ecc => Sys2Proof.Machine.execPassRowArrival st dir ecc s
  | .carryBeatArrival st dir ecc => Sys2Proof.Machine.execCarryBeatArrival st dir ecc s
  | .rampStep arr => Sys2Proof.Machine.execRampStep arr s
  | .rampDownStart arr => Sys2Proof.Machine.execRampDownStart arr s
  | .stnLinkcfgWrite bay v => Sys2Proof.Machine.execStnLinkcfgWrite bay v s
  | .stnRampcfgWrite bay v => Sys2Proof.Machine.execStnRampcfgWrite bay v s
  | .stnCntctlClear bay => Sys2Proof.Machine.execStnCntctlClear bay s
  | .stnCntctlFreeze bay on => Sys2Proof.Machine.execStnCntctlFreeze bay on s
  | .add sh => Sys2Proof.Machine.execAdd sh s
  | .sub sh => Sys2Proof.Machine.execSub sh s
  | .and sh => Sys2Proof.Machine.execAnd sh s
  | .or sh => Sys2Proof.Machine.execOr sh s
  | .xor sh => Sys2Proof.Machine.execXor sh s
  | .sll sh => Sys2Proof.Machine.execSll sh s
  | .srl sh => Sys2Proof.Machine.execSrl sh s
  | .sra sh => Sys2Proof.Machine.execSra sh s
  | .slt sh => Sys2Proof.Machine.execSlt sh s
  | .sltu sh => Sys2Proof.Machine.execSltu sh s
  | .mul sh => Sys2Proof.Machine.execMul sh s
  | .addi sh => Sys2Proof.Machine.execAddi sh s
  | .andi sh => Sys2Proof.Machine.execAndi sh s
  | .ori sh => Sys2Proof.Machine.execOri sh s
  | .xori sh => Sys2Proof.Machine.execXori sh s
  | .slli sh => Sys2Proof.Machine.execSlli sh s
  | .srli sh => Sys2Proof.Machine.execSrli sh s
  | .srai sh => Sys2Proof.Machine.execSrai sh s
  | .slti sh => Sys2Proof.Machine.execSlti sh s
  | .lui sh => Sys2Proof.Machine.execLui sh s
  | .beq sh => Sys2Proof.Machine.execBeq sh s
  | .bne sh => Sys2Proof.Machine.execBne sh s
  | .blt sh => Sys2Proof.Machine.execBlt sh s
  | .bge sh => Sys2Proof.Machine.execBge sh s
  | .bltu sh => Sys2Proof.Machine.execBltu sh s
  | .bgeu sh => Sys2Proof.Machine.execBgeu sh s
  | .jal sh => Sys2Proof.Machine.execJal sh s
  | .jr sh => Sys2Proof.Machine.execJr sh s
  | .loop sh => Sys2Proof.Machine.execLoop sh s
  | .halt sh => Sys2Proof.Machine.execHalt sh s
  | .lb sh => Sys2Proof.Machine.execLb sh s
  | .lbu sh => Sys2Proof.Machine.execLbu sh s
  | .lh sh => Sys2Proof.Machine.execLh sh s
  | .lhu sh => Sys2Proof.Machine.execLhu sh s
  | .lw sh => Sys2Proof.Machine.execLw sh s
  | .sb sh => Sys2Proof.Machine.execSb sh s
  | .sh sh => Sys2Proof.Machine.execSh sh s
  | .sw sh => Sys2Proof.Machine.execSw sh s
  | .vld sh => Sys2Proof.Machine.execVld sh s
  | .vst sh => Sys2Proof.Machine.execVst sh s
  | .vldh sh => Sys2Proof.Machine.execVldh sh s
  | .vsth sh => Sys2Proof.Machine.execVsth sh s
  | .vgather sh => Sys2Proof.Machine.execVgather sh s
  | .vscatter sh => Sys2Proof.Machine.execVscatter sh s
  | .rget sh => Sys2Proof.Machine.execRget sh s
  | .rput sh => Sys2Proof.Machine.execRput sh s
  | .rgetDataArrival idx => Sys2Proof.Machine.execRgetDataArrival idx s
  | .vadd sh => Sys2Proof.Machine.execVadd sh s
  | .vsub sh => Sys2Proof.Machine.execVsub sh s
  | .vmul sh => Sys2Proof.Machine.execVmul sh s
  | .vfma sh => Sys2Proof.Machine.execVfma sh s
  | .vmax sh => Sys2Proof.Machine.execVmax sh s
  | .vmin sh => Sys2Proof.Machine.execVmin sh s
  | .vabs sh => Sys2Proof.Machine.execVabs sh s
  | .vneg sh => Sys2Proof.Machine.execVneg sh s
  | .vexp sh => Sys2Proof.Machine.execVexp sh s
  | .vrcp sh => Sys2Proof.Machine.execVrcp sh s
  | .vrsq sh => Sys2Proof.Machine.execVrsq sh s
  | .vcmplt sh => Sys2Proof.Machine.execVcmplt sh s
  | .vcmple sh => Sys2Proof.Machine.execVcmple sh s
  | .vcmpeq sh => Sys2Proof.Machine.execVcmpeq sh s
  | .vsel sh => Sys2Proof.Machine.execVsel sh s
  | .vrsum sh => Sys2Proof.Machine.execVrsum sh s
  | .vrmax sh => Sys2Proof.Machine.execVrmax sh s
  | .vbcast sh => Sys2Proof.Machine.execVbcast sh s
  | .vextr sh => Sys2Proof.Machine.execVextr sh s
  | .viadd sh => Sys2Proof.Machine.execViadd sh s
  | .visub sh => Sys2Proof.Machine.execVisub sh s
  | .vimul sh => Sys2Proof.Machine.execVimul sh s
  | .vishl sh => Sys2Proof.Machine.execVishl sh s
  | .viota sh => Sys2Proof.Machine.execViota sh s
  | .pand sh => Sys2Proof.Machine.execPand sh s
  | .por sh => Sys2Proof.Machine.execPor sh s
  | .pnot sh => Sys2Proof.Machine.execPnot sh s
  | .pset sh => Sys2Proof.Machine.execPset sh s
  | .pget sh => Sys2Proof.Machine.execPget sh s
  | .vunpk sh => Sys2Proof.Machine.execVunpk sh s
  | .vpack sh => Sys2Proof.Machine.execVpack sh s
  | .vcvti sh => Sys2Proof.Machine.execVcvti sh s
  | .vrand sh => Sys2Proof.Machine.execVrand sh s
  | .rdfl sh => Sys2Proof.Machine.execRdfl sh s
  | .clrfl sh => Sys2Proof.Machine.execClrfl sh s
  | .waitf sh => Sys2Proof.Machine.execWaitf sh s
  | .setf sh => Sys2Proof.Machine.execSetf sh s
  | .curt sh => Sys2Proof.Machine.execCurt sh s
  | .nop sh => Sys2Proof.Machine.execNop sh s
  | .shLoad bay => Sys2Proof.Machine.execShLoad bay s
  | .shStart bay => Sys2Proof.Machine.execShStart bay s
  | .shStop bay => Sys2Proof.Machine.execShStop bay s
  | .bayShflagsWrite bay v => Sys2Proof.Machine.execBayShflagsWrite bay v s
  | .flitHop idx ecc => Sys2Proof.Machine.execFlitHop idx ecc s
  | .readRequestArrival idx => Sys2Proof.Machine.execReadRequestArrival idx s
  | .sliceWriteArrival idx => Sys2Proof.Machine.execSliceWriteArrival idx s
  | .writeAckArrival idx => Sys2Proof.Machine.execWriteAckArrival idx s
  | .crossingSlotTake router port => Sys2Proof.Machine.execCrossingSlotTake router port s
  | .injectionRetry sh => Sys2Proof.Machine.execInjectionRetry sh s
  | .bayXslotWrite bay we v => Sys2Proof.Machine.execBayXslotWrite bay we v s
  | .scrubVisit sh bank => Sys2Proof.Machine.execScrubVisit sh bank s
  | .forcedScrubPeriod sh bank => Sys2Proof.Machine.execForcedScrubPeriod sh bank s
  | .scrubTimerWake bay => Sys2Proof.Machine.execScrubTimerWake bay s
  | .correctionWriteBack bay => Sys2Proof.Machine.execCorrectionWriteBack bay s
  | .eventRegistration idx => Sys2Proof.Machine.execEventRegistration idx s
  | .rootNumbering idx => Sys2Proof.Machine.execRootNumbering idx s
  | .eventApplication bay => Sys2Proof.Machine.execEventApplication bay s
  | .crtFlagset p hi v => Sys2Proof.Machine.execCrtFlagset p hi v s
  | .crtFlagclr p hi v => Sys2Proof.Machine.execCrtFlagclr p hi v s
  | .crtCurtcfgWrite p n v => Sys2Proof.Machine.execCrtCurtcfgWrite p n v s
  | .cuePacketArrival idx => Sys2Proof.Machine.execCuePacketArrival idx s
  | .entryFetch cp => Sys2Proof.Machine.execEntryFetch cp s
  | .csNop cp => Sys2Proof.Machine.execCsNop cp s
  | .cmd cp => Sys2Proof.Machine.execCmd cp s
  | .batch cp => Sys2Proof.Machine.execBatch cp s
  | .wait cp => Sys2Proof.Machine.execWait cp s
  | .csSetf cp => Sys2Proof.Machine.execCsSetf cp s
  | .clrf cp => Sys2Proof.Machine.execClrf cp s
  | .csCurt cp => Sys2Proof.Machine.execCsCurt cp s
  | .scene cp => Sys2Proof.Machine.execScene cp s
  | .endPass cp => Sys2Proof.Machine.execEndPass cp s
  | .queueSlotGrant cp => Sys2Proof.Machine.execQueueSlotGrant cp s
  | .passStart cp => Sys2Proof.Machine.execPassStart cp s
  | .sceneBoundary p => Sys2Proof.Machine.execSceneBoundary p s
  | .cpRegisterWrite cp off v => Sys2Proof.Machine.execCpRegisterWrite cp off v s
  | .faultReport idx => Sys2Proof.Machine.execFaultReport idx s
  | .fltClear rec => Sys2Proof.Machine.execFltClear rec s
  | .leGather p => Sys2Proof.Machine.execLeGather p s
  | .shardArrival p m => Sys2Proof.Machine.execShardArrival p m s
  | .leReduce p => Sys2Proof.Machine.execLeReduce p s
  | .bucketTransferArrival p ctx h data => Sys2Proof.Machine.execBucketTransferArrival p ctx h data s
  | .bucketDeadline p idx level => Sys2Proof.Machine.execBucketDeadline p idx level s
  | .partLanding p idx => Sys2Proof.Machine.execPartLanding p idx s
  | .sampledChunkCompare p idx chunk => Sys2Proof.Machine.execSampledChunkCompare p idx chunk s
  | .recomp p idx => Sys2Proof.Machine.execRecomp p idx s
  | .bucketConfirmed p idx => Sys2Proof.Machine.execBucketConfirmed p idx s
  | .wingApplyPart we p idx => Sys2Proof.Machine.execWingApplyPart we p idx s
  | .leStep p => Sys2Proof.Machine.execLeStep p s
  | .stepCurtainArrival p => Sys2Proof.Machine.execStepCurtainArrival p s
  | .stepVerdict p => Sys2Proof.Machine.execStepVerdict p s
  | .reblock h plan => Sys2Proof.Machine.execReblock h plan s
  | .reblockTransferArrival p m => Sys2Proof.Machine.execReblockTransferArrival p m s
  | .reblockComplete p => Sys2Proof.Machine.execReblockComplete p s
  | .seAgen bay q => Sys2Proof.Machine.execSeAgen bay q s
  | .seRead bay q => Sys2Proof.Machine.execSeRead bay q s
  | .seWrite bay q => Sys2Proof.Machine.execSeWrite bay q s
  | .seGather bay q => Sys2Proof.Machine.execSeGather bay q s
  | .seScatter bay q => Sys2Proof.Machine.execSeScatter bay q s
  | .transferIssue bay id => Sys2Proof.Machine.execTransferIssue bay id s
  | .streamTransferComplete bay tag => Sys2Proof.Machine.execStreamTransferComplete bay tag s
  | .memoryRequestArrival ctl idx => Sys2Proof.Machine.execMemoryRequestArrival ctl idx s
  | .readBlockDelivery ctl idx parityFails corrected => Sys2Proof.Machine.execReadBlockDelivery ctl idx parityFails corrected s
  | .writeCommit ctl w => Sys2Proof.Machine.execWriteCommit ctl w s
  | .patrolVisit ctl => Sys2Proof.Machine.execPatrolVisit ctl s
  | .hbmTraining fail8 fail64 => Sys2Proof.Machine.execHbmTraining fail8 fail64 s
  | .ddrTraining gib report128 fail128 fail88 => Sys2Proof.Machine.execDdrTraining gib report128 fail128 fail88 s
  | .zeroFill => Sys2Proof.Machine.execZeroFill s
  | .ddrKeyInstall => Sys2Proof.Machine.execDdrKeyInstall s
  | .droopStretch bay deep => Sys2Proof.Machine.execDroopStretch bay deep s
  | .frequencyMove bay => Sys2Proof.Machine.execFrequencyMove bay s
  | .adaptiveWindow bay => Sys2Proof.Machine.execAdaptiveWindow bay s
  | .adaptiveDrop bay => Sys2Proof.Machine.execAdaptiveDrop bay s
  | .clkCapWrite east v => Sys2Proof.Machine.execClkCapWrite east v s
  | .bayClkcfgWrite bay v => Sys2Proof.Machine.execBayClkcfgWrite bay v s
  | .throttleStart supply => Sys2Proof.Machine.execThrottleStart supply s
  | .throttleEnd supply => Sys2Proof.Machine.execThrottleEnd supply s
  | .referenceLoss => Sys2Proof.Machine.execReferenceLoss s
  | .referenceOk => Sys2Proof.Machine.execReferenceOk s
  | .eventCrossing x => Sys2Proof.Machine.execEventCrossing x s
  | .wakeRequest bay => Sys2Proof.Machine.execWakeRequest bay s
  | .autostop bay => Sys2Proof.Machine.execAutostop bay s
  | .clkHtLoRead => Sys2Proof.Machine.execClkHtLoRead s
  | .bayCycLoRead bay => Sys2Proof.Machine.execBayCycLoRead bay s
  | .frameReceive f => Sys2Proof.Machine.execFrameReceive f s
  | .transportPacket t => Sys2Proof.Machine.execTransportPacket t s
  | .ackTimer idx => Sys2Proof.Machine.execAckTimer idx s
  | .retransmitTimer idx psn => Sys2Proof.Machine.execRetransmitTimer idx psn s
  | .egressFrame => Sys2Proof.Machine.execEgressFrame s
  | .pfcFrame prio pause => Sys2Proof.Machine.execPfcFrame prio pause s
  | .ethLinkDown => Sys2Proof.Machine.execEthLinkDown s
  | .ethLinkTrained full => Sys2Proof.Machine.execEthLinkTrained full s
  | .syncMessage m => Sys2Proof.Machine.execSyncMessage m s
  | .discover h => Sys2Proof.Machine.execDiscover h s
  | .attest h nonce mask => Sys2Proof.Machine.execAttest h nonce mask s
  | .sessionOpen h role encap nonce cred => Sys2Proof.Machine.execSessionOpen h role encap nonce cred s
  | .sessionClose h => Sys2Proof.Machine.execSessionClose h s
  | .sessionIdleTimeout idx => Sys2Proof.Machine.execSessionIdleTimeout idx s
  | .regRead h addr count => Sys2Proof.Machine.execRegRead h addr count s
  | .regWrite h addr count values => Sys2Proof.Machine.execRegWrite h addr count values s
  | .registerAccessTimeout h write addr values => Sys2Proof.Machine.execRegisterAccessTimeout h write addr values s
  | .memRead h addr count => Sys2Proof.Machine.execMemRead h addr count s
  | .memWrite h addr count data => Sys2Proof.Machine.execMemWrite h addr count data s
  | .loadBook h addr length => Sys2Proof.Machine.execLoadBook h addr length s
  | .patch h entries => Sys2Proof.Machine.execPatch h entries s
  | .ctxCreate h c => Sys2Proof.Machine.execCtxCreate h c s
  | .ctxDestroy h => Sys2Proof.Machine.execCtxDestroy h s
  | .start h => Sys2Proof.Machine.execStart h s
  | .stop h timeout => Sys2Proof.Machine.execStop h timeout s
  | .stopTimeout p c => Sys2Proof.Machine.execStopTimeout p c s
  | .doorbell h count => Sys2Proof.Machine.execDoorbell h count s
  | .health h => Sys2Proof.Machine.execHealth h s
  | .logRead h first max => Sys2Proof.Machine.execLogRead h first max s
  | .fwStage h offset image => Sys2Proof.Machine.execFwStage h offset image s
  | .fwCommit h length => Sys2Proof.Machine.execFwCommit h length s
  | .castSet h c => Sys2Proof.Machine.execCastSet h c s
  | .clusterArrive m => Sys2Proof.Machine.execClusterArrive m s
  | .clusterRelease m => Sys2Proof.Machine.execClusterRelease m s
  | .ethCfgWrite v => Sys2Proof.Machine.execEthCfgWrite v s
  | .chainFlitReceive port f => Sys2Proof.Machine.execChainFlitReceive port f s
  | .flitNak port seq => Sys2Proof.Machine.execFlitNak port seq s
  | .chainLinkDown port => Sys2Proof.Machine.execChainLinkDown port s
  | .chainLinkTrained port => Sys2Proof.Machine.execChainLinkTrained port s
  | .chainLinkLost port => Sys2Proof.Machine.execChainLinkLost port s
  | .linkLost port b => Sys2Proof.Machine.execLinkLost port b s
  | .chainArrive port c => Sys2Proof.Machine.execChainArrive port c s
  | .chainRelease port c => Sys2Proof.Machine.execChainRelease port c s
  | .curtainAck port c => Sys2Proof.Machine.execCurtainAck port c s
  | .curtainSliceResend port cseq => Sys2Proof.Machine.execCurtainSliceResend port cseq s
  | .timeExchangeTimer port => Sys2Proof.Machine.execTimeExchangeTimer port s
  | .timeMsg port c => Sys2Proof.Machine.execTimeMsg port c s
  | .timeReply port c => Sys2Proof.Machine.execTimeReply port c s
  | .enumStart => Sys2Proof.Machine.execEnumStart s
  | .enum port a rejoin => Sys2Proof.Machine.execEnum port a rejoin s
  | .enumEnd count => Sys2Proof.Machine.execEnumEnd count s
  | .enumDone count isLoop => Sys2Proof.Machine.execEnumDone count isLoop s
  | .enumFail port => Sys2Proof.Machine.execEnumFail port s
  | .enumTimeout => Sys2Proof.Machine.execEnumTimeout s
  | .chnCfgWrite port v => Sys2Proof.Machine.execChnCfgWrite port v s
  | .sensorSample x v v2 => Sys2Proof.Machine.execSensorSample x v v2 s
  | .thermalCapAdjust east => Sys2Proof.Machine.execThermalCapAdjust east s
  | .riskScoreUpdate => Sys2Proof.Machine.execRiskScoreUpdate s
  | .riskDecay => Sys2Proof.Machine.execRiskDecay s
  | .heartbeat => Sys2Proof.Machine.execHeartbeat s
  | .watchdogExpiry => Sys2Proof.Machine.execWatchdogExpiry s
  | .yemirBoot slotAOk slotBOk => Sys2Proof.Machine.execYemirBoot slotAOk slotBOk s
  | .mbxPush n word15 => Sys2Proof.Machine.execMbxPush n word15 s
  | .mbxDoorbell n => Sys2Proof.Machine.execMbxDoorbell n s
  | .mbxPop n => Sys2Proof.Machine.execMbxPop n s
  | .mailboxRetry n => Sys2Proof.Machine.execMailboxRetry n s
  | .i3cPrivateWrite index values => Sys2Proof.Machine.execI3cPrivateWrite index values s
  | .i3cPrivateRead words => Sys2Proof.Machine.execI3cPrivateRead words s
  | .dynamicAddressAssignment dasa addr => Sys2Proof.Machine.execDynamicAddressAssignment dasa addr s
  | .enrol => Sys2Proof.Machine.execEnrol s
  | .clearOwner => Sys2Proof.Machine.execClearOwner s
  | .ymrPolicyWrite v => Sys2Proof.Machine.execYmrPolicyWrite v s
  | .ymrCapWrite v => Sys2Proof.Machine.execYmrCapWrite v s
  | .resetCtx h => Sys2Proof.Machine.execResetCtx h s
  | .resetEngine h cls bay index => Sys2Proof.Machine.execResetEngine h cls bay index s
  | .resetPart h => Sys2Proof.Machine.execResetPart h s
  | .resetChip h => Sys2Proof.Machine.execResetChip h s
  | .resetChipFull h => Sys2Proof.Machine.execResetChipFull h s
  | .fenceDrainEnd => Sys2Proof.Machine.execFenceDrainEnd s
  | .l0WaitTimeout p c => Sys2Proof.Machine.execL0WaitTimeout p c s
  | .resetTimeout => Sys2Proof.Machine.execResetTimeout s
  | .selfTest failed => Sys2Proof.Machine.execSelfTest failed s
  | .fltIsolateWrite v => Sys2Proof.Machine.execFltIsolateWrite v s
  | .fltResvWrite v => Sys2Proof.Machine.execFltResvWrite v s
  | .intermission h copyHost timeout => Sys2Proof.Machine.execIntermission h copyHost timeout s
  | .intermissionTimeout idx => Sys2Proof.Machine.execIntermissionTimeout idx s
  | .intermissionStop => Sys2Proof.Machine.execIntermissionStop s
  | .stateCopyDone => Sys2Proof.Machine.execStateCopyDone s
  | .replicationDone => Sys2Proof.Machine.execReplicationDone s
  | .replicationAbandon => Sys2Proof.Machine.execReplicationAbandon s
  | .seedHandover p => Sys2Proof.Machine.execSeedHandover p s
  | .restore h id => Sys2Proof.Machine.execRestore h id s
  | .trayPwrEnRise => Sys2Proof.Machine.execTrayPwrEnRise s
  | .trayPwrEnFall => Sys2Proof.Machine.execTrayPwrEnFall s
  | .trayResetN => Sys2Proof.Machine.execTrayResetN s
  | .moduleReady => Sys2Proof.Machine.execModuleReady s
  | .sagStart cv => Sys2Proof.Machine.execSagStart cv s
  | .sagEnd cv => Sys2Proof.Machine.execSagEnd cv s
  | .brownOut cv => Sys2Proof.Machine.execBrownOut cv s
  | .overvoltage cv => Sys2Proof.Machine.execOvervoltage cv s
  | .thermalTrip bay => Sys2Proof.Machine.execThermalTrip bay s
  | .registerWrite addr v => Sys2Proof.Machine.execRegisterWrite addr v s
  | .yemirRailFailure => Sys2Proof.Machine.execYemirRailFailure s
  | .bootReadyTimeout => Sys2Proof.Machine.execBootReadyTimeout s
  | .hostCopyDone => Sys2Proof.Machine.execHostCopyDone s

end Sys2Proof.Machine
end

