-- ==== Sys2Proof/Machine/Tick.lean ====
section
/-!
DEFINITION. Machine/Tick.lean: the nanosecond that passes on an empty queue (entry 1), with the counters of cycles in
which something waited (entry 42).
-/
namespace Sys2Proof.Machine

/-- A started STN_MMA, or a STN_CARRY that does not inject, waits for a row: none is at hand in a direction it takes
(STN_STALL_IN, R62). -/
def State.waitsRow (s : State) (b : Nat) : Bool :=
  let y := s.bay b
  let st := stationOfBay b
  let bare := fun (d : Dir) => (y.tap d).isNone && (s.revQ st d (s.inSel st d)).isEmpty
  y.started.any (fun c =>
    let w3 := cword c.words 3
    c.isStation && decide (0 < c.left) &&
      ((decide (c.op = 0x05) && (!(bit w3 19) || bare .cw) && (!(bit w3 20) || bare .ccw)) ||
        (decide (c.op = 0x06) && !(bit w3 17) && (!(bit w3 18) || bare .cw) && (!(bit w3 19) || bare .ccw))))

/-- A beat that would be forwarded in a direction finds no room on the output (STN_STALL_OUT, R42); an output that is off
counts as one without room (DESIGN CHOICE, entry 178). -/
def State.waitsOut (s : State) (b : Nat) (d : Dir) : Bool :=
  let y := s.bay b
  let st := stationOfBay b
  match y.tap d with
  | some r =>
    if s.participating b then
      decide (r.remain - 1 ≠ 0) &&
        ((decide (r.kind = 0) && y.started.any (fun c => c.mmaMatches r d) && !(s.room st d 1)) ||
          (decide (r.kind = 1) && y.started.any (fun c => c.carryMatches r.row.toNat r.ctx.toNat d) && !(s.room st d 4)))
    else !(s.room st d 1)
  | none => false

/-- The head flit of a crossing queue of a bay waits for a reservation (BAY_XWAIT, R178). -/
def State.waitsCross (s : State) (b : Nat) : Bool :=
  s.flits.any (fun f =>
    match f.loc with
    | .crossing p _ =>
      decide (handBay f.at_ = b) && (s.crossHead f.at_ p f.cls).isSome && (s.headOk (s.crossHead f.at_ p f.cls)).isNone
    | _ => false)

/-- A transfer waits for a free tag of its command (SE_TAGWAIT, R310). -/
def State.waitsTag (s : State) (b : Nat) : Bool :=
  let y := s.bay b
  y.started.any (fun c => decide (5 ≤ c.queue) && (y.nextTransfer c).isSome && (y.freeTag c).isNone)

/-- A counter of waiting cycles moves on by n. -/
def State.countIf (s : State) (w : Bool) (a n : Nat) : State := if w then s.countWrap a n else s

/-- The access of a stagehand that asks for a bank in a cycle: of its writes with accesses still to make the one that asks
first (R138). -/
def Stagehand.asking (h : Stagehand) (j : Nat) : Option ShWrite :=
  (h.flight.filter (fun w => !w.words.isEmpty && decide (w.ask ≤ j))).foldl
    (fun m w => match m with | some x => if w.ask < x.ask then some w else m | none => some w) none

/-- The access that asks is served in cycle j: the next one of its instruction asks in the cycle after. -/
def Stagehand.served (h : Stagehand) (x : ShWrite) (j : Nat) : Stagehand :=
  { h with flight := h.flight.map (fun w => if w = x then { w with words := w.words.drop 1, ask := j + 1, age := j + 1 } else w) }

/-- The access that asks is not served in cycle j: it keeps its age, and it and what comes after it move by a cycle. -/
def Stagehand.delayed (h : Stagehand) (x : ShWrite) (j : Nat) : Stagehand :=
  let later := fun (w : ShWrite) =>
    if w = x then { w with due := w.due + 1, ask := j + 1 }
    else if w.words.isEmpty then w else { w with due := w.due + 1, ask := w.ask + 1, age := w.age + 1 }
  { h with flight := (h.flight.map later).foldl (fun l w => insertWrite w l) [] }

/-- An asker takes its place by age, then by bay-local index (Table 6.1, order 6). -/
def insertAsk (x : Nat × Nat × Nat × ShWrite) : List (Nat × Nat × Nat × ShWrite) → List (Nat × Nat × Nat × ShWrite)
  | [] => [x]
  | y :: ys => if y.1 < x.1 ∨ (y.1 = x.1 ∧ y.2.1 < x.2.1) then y :: insertAsk x ys else x :: y :: ys

/-- One cycle of a bay's narrow accesses (R138, R159): in their order, each whose bank nothing has taken is served; the
banks that are taken, and the number of accesses that wait. -/
def State.narrowCycle (s : State) (b j : Nat) (taken : List Nat) : State × Nat :=
  let asks := s.stagehands.foldl (fun l kv =>
    if handBay kv.1 = b then
      (match kv.2.asking j with | some w => insertAsk (w.age, handLocal kv.1, kv.1, w) l | none => l)
    else l) []
  let one := fun (a : State × List Nat × Nat) (x : Nat × Nat × Nat × ShWrite) =>
    let l := x.2.2.1
    let w := x.2.2.2
    let k := w.words.headD 0
    if a.2.1.contains k then (a.1.setHand l ((a.1.hand l).delayed w j), a.2.1, a.2.2 + 1)
    else (a.1.setHand l ((a.1.hand l).served w j), k :: a.2.1, a.2.2)
  let r := asks.foldl one (s, taken, 0)
  (r.1, r.2.2)

/-- The cycles of the nanosecond that ends, for a bay's stagehands (R138, R159): their accesses are served or wait, the
waits counted in BAY_SHSTALL. The wide accesses of the nanosecond stand in its first cycle. -/
def State.narrowCycles (s : State) (b : Nat) : State :=
  let c := (s.bay b).clk
  let wide := (s.bay b).served.map Prod.fst
  let r := (List.range c.adv).foldl (fun (a : State × Nat) i =>
    let q := a.1.narrowCycle b (c.cyc + 1 - c.adv + i) (if i = 0 then wide else [])
    (q.1, a.2 + q.2)) (s, 0)
  if 0 < r.2 then r.1.countWrap (aBay b 0x101C) r.2 else r.1

/-- Results that come due with the first cycle of the new nanosecond are written (R134). -/
def State.landHands (s : State) (b : Nat) : State :=
  let c := (s.bay b).clk
  let land := fun (l : Nat) (h : Stagehand) => if handBay l = b then h.landed (c.cyc + 1 - max 1 c.adv) else h
  { s with stagehands := smap Stagehand.idle land s.stagehands }

/-- An SH_LOAD whose read a higher access kept from a bank takes a cycle more (R148). -/
def Bay.delayLoads (y : Bay) : Bay :=
  let hit := fun (c : Started) =>
    let w5 := cword c.words 5
    decide (c.queue = 4) && decide (c.op = 0x20) && decide (y.clk.cyc < c.earliest) &&
      !(y.banksFree 40 (fld (cword c.words 3) 23 0) (min 128 (4 * fld w5 10 0)))
  { y with started := y.started.map (fun c => if hit c then { c with earliest := c.earliest + 1 } else c) }

/-- The stall counters of a station, which FREEZE holds (Table 2.10). -/
def State.tickStation (s : State) (b n : Nat) : State :=
  let s := if s.waitsRow b then s.stnCount b 0x0028 n else s
  if s.waitsOut b .cw || s.waitsOut b .ccw then s.stnCount b 0x002C n else s

/-- Cycles pass for the arrays of a bay (R95). -/
def Bay.rampCycles (y : Bay) (n : Nat) : Bay := { y with ramps := smap Ramp.down (fun _ r => r.cycles n) y.ramps }

/-- Some bank of a bay has gone 16 consecutive periods of 4,096 cycles without a forced visit (R165). -/
def State.starved (s : State) (b : Nat) : Bool :=
  (List.range 512).any (fun k => decide ((s.walker (handOf b (k / 4)) (k % 4)).forcedPeriod + 16 ≤ (s.bay b).clk.cyc / 4096))

/-- BAY_SCRUB.STARVED is looked at as a period of 4,096 cycles ends (R165). -/
def State.checkStarved (s : State) (b before : Nat) : State :=
  if before / 4096 ≠ (s.bay b).clk.cyc / 4096 ∧ s.bayActive b = true ∧ s.starved b = true then s.orReg (aBay b 0x200C) 0x40000000
  else s

/-- One nanosecond of a bay: the accesses of the one that ends, its clock, the results that come due, the heads that are
ready, the stretch count, its stall counters and the time it last was busy. -/
def State.tickBay (s : State) (b : Nat) : State :=
  let c := (s.bay b).clk
  if c.stopped then s
  else
    let busy := !(s.bayIdle b)
    let t := c.tick
    let n := t.cyc - c.cyc
    let s := if 0 < n then s.narrowCycles b else s
    let c' := if 0 < n then { t with adv := n } else t
    let str := c'.winStretch - c.winStretch
    let s0 := s.setClk b (fun _ => if busy then { c' with busyCyc := c'.cyc } else c')
    let s1 := if 0 < n then s0.setBay b { ((s0.bay b).delayLoads.rampCycles n).markReady with served := [] } else s0
    let s2 := if 0 < str then s1.countSat (aBay b 0x4008) str else s1
    let s3 := ((s2.landHands b).checkStarved b c.cyc).tickStation b n
    ((s3.countIf (decide (0 < s.sbWaiting b)) (aBay b 0x2024) n).countIf (s.waitsCross b) (aBay b 0x2058) n).countIf
      (s.waitsTag b) (aBay b 0x3010) n

/-- Cue-network cycles of 1.2 GHz in a nanosecond, 1.0 GHz on the fallback: cycles that end at an uptime. -/
def cueCycles (fallback : Bool) (t : Nat) : Nat := if fallback then 1 else (t + 1) * 6 / 5 - t * 6 / 5

/-- The output a packet takes at a node (R181: x first; ports as in R170), 0 at its target. -/
def cuePort (node target : Nat) : Nat :=
  if target % 12 < node % 12 then 1 else if node % 12 < target % 12 then 2
  else if target / 12 < node / 12 then 3 else if node / 12 < target / 12 then 4 else 0

/-- The node behind an output. -/
def cueNext (node : Nat) : Nat → Nat
  | 1 => node - 1
  | 2 => node + 1
  | 3 => node - 12
  | 4 => node + 12
  | _ => node

/-- Cycles of a hop: 3, and 4 more over the half seam or the field seam (R182). -/
def cueHop (a b : Nat) : Nat := if bayField a = bayField b then 3 else 7

/-- The packets of one output in their order: the first of each input and priority asks (R181). -/
def cueAsks (l : List CueTransit) (node port cyc : Nat) : List (Nat × CueTransit) :=
  let here := (List.range l.length).filterMap (fun i => match l[i]? with
    | some x => if x.node = node then some (i, x) else none
    | none => none)
  here.filter (fun x => decide (cuePort node x.2.pkt.target = port) && decide (x.2.ready ≤ cyc) &&
    here.all (fun y => decide (x.1 ≤ y.1) || decide (y.2.inp ≠ x.2.inp) || decide (y.2.pkt.high ≠ x.2.pkt.high)))

/-- Of the packets that ask, the one that goes: high priority first, then the inputs in turn after the one served last
(R181). -/
def cuePick (asks : List (Nat × CueTransit)) (last : Nat) : Option (Nat × CueTransit) :=
  let high := asks.filter (fun x => x.2.pkt.high)
  let place := fun (x : Nat × CueTransit) => (x.2.inp + 4 - last) % 5
  (if high.isEmpty then asks else high).foldl
    (fun m x => match m with | some y => if place x < place y then some x else m | none => some x) none

/-- The input by which a packet comes in that left by an output. -/
def cueOpp : Nat → Nat
  | 1 => 2
  | 2 => 1
  | 3 => 4
  | 4 => 3
  | p => p

/-- One output of a node in a cue-network cycle: a packet whose next node has room among its 16 words goes on, a word in
each cycle (R181, R332). -/
def State.cueOutput (s : State) (node port : Nat) : State :=
  let k := 4 * node + port - 1
  if s.cueCyc < sget 0 s.cueLinks k then s
  else
    let n := cueNext node port
    let used := (s.cuePkts.filter (fun x => decide (x.node = n) && decide (x.inp = cueOpp port))).foldl
      (fun m x => m + x.pkt.words) 0
    let asks := (cueAsks s.cuePkts node port s.cueCyc).filter (fun x => decide (used + x.2.pkt.words ≤ 16))
    match cuePick asks (sget 0 s.cueTurn k) with
    | some (i, x) =>
      { s with
        cuePkts := listDrop s.cuePkts i ++ [{ x with node := n, inp := cueOpp port, ready := s.cueCyc + cueHop node n }]
        cueLinks := sset 0 s.cueLinks k (s.cueCyc + x.pkt.words)
        cueTurn := sset 0 s.cueTurn k x.inp }
    | none => s

/-- The outputs that packets of the cue network ask for, each once. -/
def State.cueWants (s : State) : List (Nat × Nat) :=
  (s.cuePkts.map (fun x => (x.node, cuePort x.node x.pkt.target))).foldl
    (fun l x => if x.2 = 0 ∨ x ∈ l then l else l ++ [x]) []

/-- Cycles of the cue network (R181, R182). -/
def State.cueRun (s : State) : Nat → State
  | 0 => s
  | n + 1 =>
    let t := s.cueWants.foldl (fun s x => s.cueOutput x.1 x.2) s
    State.cueRun { t with cueCyc := t.cueCyc + 1 } n

/-- CP_STALLQ counts the cycles a cue processor waits for a queue slot (R276). -/
def State.tickCp (s : State) (n : Nat) : State :=
  match (s.cp n).wait with
  | .slot _ => s.countWrap (aCp n 0x0C) (cueCycles s.clock.refLost s.clock.uptime)
  | _ => s

/-- Lanes of a port that is up whose first flit waits for a credit (CHN_CREDWAIT, R371). -/
def ChainPort.waitsCredit (x : ChainPort) : Nat :=
  if x.up then
    ([1, 2, 3].filter (fun vl => x.txQueue.any (fun f => decide (f.vl = vl)) && decide (x.credits vl = 0))).length
  else 0

/-- A splice record to which no beat came in the cycle after its last closes (R376). -/
def State.closeIdle (s : State) (e : Bool) (d : Dir) : State :=
  let r := (s.port e).record d
  if r.beats.isEmpty = false ∧ r.at_ + 1 < (s.bay (bayOfStation (spliceFrom e d))).clk.cyc then s.closeRecord e d else s

/-- A nanosecond of a chain port. -/
def State.tickPort (s : State) (e : Bool) : State :=
  ((s.countWrap (aChn e 0x20) (s.port e).waitsCredit).closeIdle e .cw).closeIdle e .ccw

/-- A nanosecond passes (entry 1). -/
def State.tick (s : State) : State :=
  if s.power = .off then s
  else
    let die := s.ymr.dieOn
    let thr := s.throttling && decide (s.clock.thrNs = 999) && die
    let s := { s with clock := s.clock.tick die }
    let s := if thr then s.countWrap (aClk 0x28) 1 else s
    let s := if die then s.cueRun (cueCycles s.clock.refLost s.clock.uptime) else s
    if die then ((((List.range 4).foldl State.tickCp ((List.range 48).foldl State.tickBay s)).tickPort false).tickPort true).replicate
    else s

end Sys2Proof.Machine
end

