-- ==== Sys2Proof/Safety.lean ====
section
/-!
DEFINITION. Safety.lean: the words that the statements use: when a command completes normally, and what it then leaves.
-/
namespace Sys2Proof.Machine

/-- The rails of the die are on. -/
def State.on (s : State) : Prop := s.ymr.dieOn = true

/-- No replication is under way and no splice record is open: nothing of the block's own leaves on a chain port. -/
structure QuietLine (s : State) : Prop where
  phase : s.inter.phase ≠ 4
  records : ∀ e d, ((s.port e).record d).beats = []

/-- c stands at the head of queue q of bay b with opcode op, rest behind it, and everything that R97, R167 and R310 ask of
a start but its own condition of Table 3.17 holds. -/
structure HeadReady (s : State) (b q op : Nat) (c : QCmd) (rest : List QCmd) : Prop where
  queue : (s.bay b).queue q = c :: rest
  opcode : bayOp q c.words = op
  active : s.bayActive b = true
  running : (s.bay b).clk.stopped = false
  waited : c.waitOk = true
  ranges : (s.bay b).scoreboardOk q c.words = true
  first : (s.bay b).goesFirst q = true

/-- What identifies a started command: its number, queue, words, partition, context and entry offset. -/
def Started.key (c : Started) : Nat × Nat × List Word × Nat × Nat × Word := (c.id, c.queue, c.words, c.part, c.ctx, c.bookoff)

/-- The head c of queue q of bay b has started: the queue holds the rest, and the bay's newest started command carries the
words, partition, context and entry offset of c under the bay's next number, behind the ones that were started before. -/
structure Begun (s t : State) (b q : Nat) (c : QCmd) (rest : List QCmd) : Prop where
  queue : ((t.bay b).queue q).map QCmd.words = rest.map QCmd.words
  next : (t.bay b).nextId = (s.bay b).nextId + 1
  started : (t.bay b).started.map Started.key =
    (s.bay b).started.map Started.key ++ [((s.bay b).nextId, q, c.words, c.part, c.ctx, c.bookoff)]

/-- From s to t nothing changes but bays, the data space with its bit errors, registers that count errors, and the packets
of the cue network; the memories outside the scratchpad stay, and all of the data space but where the opcode is one that
writes it (STN_DRAIN, STN_SPILL, the row engine's). -/
structure StationWork (s t : State) (op : Nat) : Prop where
  rest : { t with bays := s.bays, mem := s.mem, memErr := s.memErr, regs := s.regs, cuePkts := s.cuePkts, ymr := s.ymr } = s
  ymr : { t.ymr with ceHist := s.ymr.ceHist } = s.ymr
  outside : ∀ a, a < spBase → t.byte a = s.byte a
  mem : op ≠ 0x07 → op ≠ 0x08 → ¬ (0x10 ≤ op ∧ op ≤ 0x16) → t.mem = s.mem

/-- From s to t nothing changes but bay b. -/
structure OnlyBay (s t : State) (b : Nat) : Prop where
  rest : { t with bays := s.bays } = s
  others : ∀ k, k ≠ b → t.bay k = s.bay k

/-- The station and row-engine commands with their opcodes (Table 3.2). -/
def stationStarts : List ((Fin 48 → Fin 4 → Instr) × Nat) :=
  [(.stnNop, 0x01), (.stnAgen, 0x02), (.stnTload, 0x03), (.stnInject, 0x04), (.stnMma, 0x05), (.stnCarry, 0x06),
   (.stnDrain, 0x07), (.stnSpill, 0x08), (.stnFill, 0x09), (.reNorm, 0x10), (.reRms, 0x11), (.reSmax, 0x12),
   (.reNormBwd, 0x13), (.reRmsBwd, 0x14), (.reSmaxBwd, 0x15), (.reRowdot, 0x16)]

/-- The stream commands with their opcodes (Table 10.5). -/
def streamStarts : List ((Fin 48 → Fin 4 → Instr) × Nat) :=
  [(.seRead, 0x41), (.seWrite, 0x42), (.seGather, 0x43), (.seScatter, 0x44)]

/-- The issue check that a command packet meets at the queue it enters (R73, R148, R168, R228, R304). -/
def State.issueCheck (s : State) (cls bay index queue : Nat) (ws : List Word) (part ctx : Nat) : Option Nat :=
  if cls = 0 then (s.bay bay).stnIssue ws
  else if cls = 1 then s.dispCheck part ctx ws
  else if cls = 2 then s.streamCheck bay queue ws
  else linkCheck index queue ws

/-- From s to t the registers of bay b have been accessed (R336): its clock runs, what changes in the bay is that clock,
which a stopped bay's wake has started, and the row counter named apart; of the registers only those of the list and the
two of a wake. -/
structure BayAccess (s t : State) (b : Nat) (w : List Nat) : Prop where
  rest : { t with regs := s.regs, bays := s.bays } = s
  others : ∀ k, k ≠ b → t.bay k = s.bay k
  same : { t.bay b with clk := (s.bay b).clk, tapCount := (s.bay b).tapCount } = s.bay b
  awake : (t.bay b).clk.stopped = false
  running : (s.bay b).clk.stopped = false → (t.bay b).clk = (s.bay b).clk
  regs : ∀ a, a ∉ w → a ≠ aBay b 0x4010 → a ≠ aClk 0x1C → t.reg a = s.reg a

/-- The front r of the input that station st selects in direction d, rest behind it, comes to a bay whose clock runs and
whose tap register in that direction is empty. -/
structure Fronts (s : State) (st : Nat) (d : Dir) (r : Beat) (rest : List Beat) : Prop where
  running : (s.bay (bayOfStation st)).clk.stopped = false
  tap : (s.bay (bayOfStation st)).tap d = none
  front : s.revQ st d (s.inSel st d) = r :: rest

/-- The front beat of a station's selected input has left its queue; from an input from a splice the beats that wait in the
chain port's buffer may follow behind the rest. -/
def LeftQueue (s t : State) (st : Nat) (d : Dir) (rest : List Beat) : Prop :=
  ∃ more, t.revQ st d (s.inSel st d) = rest ++ more ∧ (s.inSel st d ≠ 2 → more = [])

/-- Beat r has gone onto the output that station st selects in direction d: it is the last of the next station's queue, or
the last of the splice's open record, which its sixteenth beat has closed. -/
def GoneOn (s t : State) (st : Nat) (d : Dir) (r : Beat) : Prop :=
  match s.hop st d with
  | .station tgt inp _ => t.revQ tgt d inp = s.revQ tgt d inp ++ [r]
  | .splice e =>
    ((t.port e).record d).beats =
      if ((s.port e).record d).beats.length < 15 then ((s.port e).record d).beats ++ [r] else []
  | .off => False

/-- Address n of a slot, for n bytes of bay b read for a context: it exists, lies in the quota, is aligned, and no word
there holds a bit error. -/
structure SlotReads (s : State) (part ctx b : Nat) (slot : AgSlot) (n len align off : Nat) : Prop where
  addr : slot.addr 24 n = some off
  quota : (s.ctx part ctx).spOk off len = true
  aligned : off % align = 0
  clean : ∀ i, i < len → sget 0 s.memErr (spAddr b (off + i) / 8) = 0

/-- Station st may send the next beat of STN_INJECT c in direction d: c is its oldest command with a row for it, the clock
runs, nothing waits to be forwarded, the output has room, a feeder port and the banks are free (R46, R98, R159), and the
beat's data and scales can be read. -/
structure InjectReady (s : State) (st : Nat) (d : Dir) (c : Started) : Prop where
  oldest : (s.bay (bayOfStation st)).injector d = some c
  opcode : c.op = 0x04
  may : s.mayInject st d 1 = true
  port : [0, 1].any (s.bay (bayOfStation st)).portFree = true
  banks : (s.bay (bayOfStation st)).banksFree 20 (((c.slots.getD 0 AgSlot.init).addr 24 c.done).getD 0) 128 = true
  data : ∃ off, SlotReads s c.part c.ctx (bayOfStation st) (c.slots.getD 0 AgSlot.init) c.done 128 64 off
  scales : beatScales (fld (cword c.words 3) 23 20) = 0 ∨
    ∃ off, SlotReads s c.part c.ctx (bayOfStation st) (c.slots.getD 1 AgSlot.init) c.done
      (beatScales (fld (cword c.words 3) 23 20)) (beatScales (fld (cword c.words 3) 23 20)) off

/-- Station st, the origin of STN_CARRY c, may send its next row in direction d: as above, with room for the four beats,
both arrays taking the row, and its own share of the row computed without a fault. -/
structure CarryReady (s : State) (st : Nat) (d : Dir) (c : Started) : Prop where
  oldest : (s.bay (bayOfStation st)).injector d = some c
  opcode : c.op = 0x06
  may : s.mayInject st d 4 = true
  arrays : (s.bay (bayOfStation st)).admitsCarry c = true
  share : ∃ l, (s.carryLocal (bayOfStation st) c (BitVec.ofNat 9 (fld (cword c.words 3) 14 6 + c.done)).toNat).2 = .ok l

/-- The cycle of its bay in which stagehand l issues its next instruction in the present nanosecond (R134). -/
def State.issueAt (s : State) (l : Nat) : Nat := (s.hand l).issueCycle (s.bay (handBay l)).clk

/-- Stagehand l in a cycle of its bay: the results due by then of the instructions that have issued are written (R134). -/
def State.handAt (s : State) (l k : Nat) : Stagehand := (s.hand l).landed k

/-- Stagehand l as its next instruction reads it, at issue. -/
def State.issuer (s : State) (l : Nat) : Stagehand := s.handAt l (s.issueAt l)

/-- The same with the cycle of its issue used up: one instruction in each (R134). -/
def State.issuing (s : State) (l : Nat) : Stagehand := { s.issuer l with issue := s.issueAt l + 1 }

/-- Stagehand l can issue the word at its pc, whose fields are f and whose opcode is opc: it runs, waits for nothing, its
cycle has come, nothing stalls the word (R134, R138, R151), and no check of R136 applies. -/
structure Issues (s : State) (l opc : Nat) (f : ShFields) : Prop where
  running : (s.hand l).running = true
  waits : (s.hand l).wait = .none
  due : s.issueAt l ≤ (s.bay (handBay l)).clk.cyc
  inStore : (s.issuer l).pc ≤ 1023
  word : (s.issuer l).word = f
  opcode : f.opc = opc
  free : (s.issuer l).stalls f (s.issueAt l) = false
  ok : shCheck (s.issuer l) f = none

/-- From s to t nothing changes but stagehand l. -/
structure OnlyHand (s t : State) (l : Nat) : Prop where
  rest : { t with stagehands := s.stagehands } = s
  others : ∀ k, k ≠ l → t.hand k = s.hand k

/-- The program counter and the loop in progress are those after an instruction that does not branch (R137). -/
def movesOn (h g : Stagehand) : Prop := g.pc = h.nextPc.pc ∧ g.loop = h.nextPc.loop

/-- What no instruction of the register forms touches. -/
def sameRun (h g : Stagehand) : Prop :=
  g.istore = h.istore ∧ g.running = h.running ∧ g.part = h.part ∧ g.ctx = h.ctx ∧ g.wait = h.wait ∧ g.putsOut = h.putsOut ∧
    g.getsOut = h.getsOut ∧ g.startId = h.startId ∧ g.bookoff = h.bookoff ∧ g.cut = h.cut

def sameScalars (h g : Stagehand) : Prop := ∀ r, g.getS r = h.getS r
def sameVectors (h g : Stagehand) : Prop := ∀ r, g.getV r = h.getV r
def samePredicates (h g : Stagehand) : Prop := ∀ r, g.getP r = h.getP r

/-- The instruction of stagehand l has issued and moved on: the stagehand goes on with the next word in a later cycle, and
what no register form touches is as it was. -/
structure MovedOn (s t : State) (l : Nat) : Prop where
  run : sameRun (s.hand l) (t.hand l)
  next : movesOn (s.issuer l) (t.hand l)
  issue : (t.hand l).issue = s.issueAt l + 1

/-- The scalar register D takes v, and no other register and no flag changes. -/
structure PutsS (h g : Stagehand) (d : Nat) (v : Word) : Prop where
  result : g.getS d = if d = 0 then 0 else v
  scalars : ∀ r, r ≠ d → g.getS r = h.getS r
  vectors : sameVectors h g
  predicates : samePredicates h g
  flags : g.flags = h.flags

/-- The vector register D takes x, the flags f are set beside those that are, and no other register changes. -/
structure PutsV (h g : Stagehand) (d : Nat) (x : BitVec 512) (f : StickyFlags) : Prop where
  result : g.getV d = x
  vectors : ∀ r, r ≠ d → g.getV r = h.getV r
  scalars : sameScalars h g
  predicates : samePredicates h g
  flags : g.flags = h.flags ||| f

/-- No register and no flag changes. -/
structure PutsNothing (h g : Stagehand) : Prop where
  scalars : sameScalars h g
  vectors : sameVectors h g
  predicates : samePredicates h g
  flags : g.flags = h.flags

/-- The instructions whose result goes to the scalar register D and that change no other register and no flag: opcode,
latency and result (Table 5.3). -/
def scalarRows : List ((Fin 6144 → Instr) × Nat × Nat × (Stagehand → ShFields → Word)) :=
  [(.add, 0x01, 1, fun h f => h.getS f.a + h.getS f.b), (.sub, 0x02, 1, fun h f => h.getS f.a - h.getS f.b),
   (.and, 0x03, 1, fun h f => h.getS f.a &&& h.getS f.b), (.or, 0x04, 1, fun h f => h.getS f.a ||| h.getS f.b),
   (.xor, 0x05, 1, fun h f => h.getS f.a ^^^ h.getS f.b),
   (.sll, 0x06, 1, fun h f => h.getS f.a <<< ((h.getS f.b).toNat % 32)),
   (.srl, 0x07, 1, fun h f => h.getS f.a >>> ((h.getS f.b).toNat % 32)),
   (.sra, 0x08, 1, fun h f => (h.getS f.a).sshiftRight ((h.getS f.b).toNat % 32)),
   (.slt, 0x09, 1, fun h f => if (h.getS f.a).toInt < (h.getS f.b).toInt then 1 else 0),
   (.sltu, 0x0A, 1, fun h f => if (h.getS f.a).toNat < (h.getS f.b).toNat then 1 else 0),
   (.mul, 0x0B, 3, fun h f => BitVec.ofNat 32 ((h.getS f.a).toNat * (h.getS f.b).toNat)),
   (.addi, 0x10, 1, fun h f => h.getS f.a + BitVec.ofInt 32 f.imm), (.andi, 0x11, 1, fun h f => h.getS f.a &&& BitVec.ofInt 32 f.imm),
   (.ori, 0x12, 1, fun h f => h.getS f.a ||| BitVec.ofInt 32 f.imm), (.xori, 0x13, 1, fun h f => h.getS f.a ^^^ BitVec.ofInt 32 f.imm),
   (.slli, 0x14, 1, fun h f => h.getS f.a <<< (f.imm % 32).toNat), (.srli, 0x15, 1, fun h f => h.getS f.a >>> (f.imm % 32).toNat),
   (.srai, 0x16, 1, fun h f => (h.getS f.a).sshiftRight (f.imm % 32).toNat),
   (.slti, 0x17, 1, fun h f => if (h.getS f.a).toInt < f.imm then 1 else 0),
   (.lui, 0x18, 1, fun _ f => BitVec.ofInt 32 (f.imm19 * 2 ^ 13)),
   (.pget, 0x64, 1, fun h f => h.getP f.a), (.rdfl, 0x70, 1, fun h _ => h.flags.setWidth 32),
   (.vextr, 0x53, 1, fun h f => (lane16 (h.getV f.a) ((h.getS f.b).toNat % 32)).setWidth 32)]

/-- The conditional branches with their opcodes and conditions on the registers A and B (Table 5.3). -/
def branchRows : List ((Fin 6144 → Instr) × Nat × (Word → Word → Bool)) :=
  [(.beq, 0x20, fun a b => decide (a = b)), (.bne, 0x21, fun a b => decide (a ≠ b)),
   (.blt, 0x22, fun a b => decide (a.toInt < b.toInt)), (.bge, 0x23, fun a b => decide (b.toInt ≤ a.toInt)),
   (.bltu, 0x24, fun a b => decide (a.toNat < b.toNat)), (.bgeu, 0x25, fun a b => decide (b.toNat ≤ a.toNat))]

/-- The scalar loads: opcode, bytes, and whether the value is sign-extended (Table 5.3). -/
def loadRows : List ((Fin 6144 → Instr) × Nat × Nat × Bool) :=
  [(.lb, 0x30, 1, true), (.lbu, 0x31, 1, false), (.lh, 0x32, 2, true), (.lhu, 0x33, 2, false), (.lw, 0x34, 4, false)]

/-- The stores: opcode, bytes, size unit of the offset, and the bytes stored (Table 5.3). -/
def storeRows : List ((Fin 6144 → Instr) × Nat × Nat × Nat × (Stagehand → ShFields → List Byte)) :=
  [(.sb, 0x35, 1, 1, fun h f => toLE 1 (h.getS f.d).toNat), (.sh, 0x36, 2, 1, fun h f => toLE 2 (h.getS f.d).toNat),
   (.sw, 0x37, 4, 1, fun h f => toLE 4 (h.getS f.d).toNat), (.vst, 0x39, 64, 64, fun h f => toLE 64 (h.getV f.d).toNat),
   (.vsth, 0x3B, 32, 32, fun h f => toLE 32 (h.getV f.d).toNat)]

/-- The address of the word f of stagehand l: the bay offset of register A plus IMM times a unit (Table 5.3). -/
def State.shOff (s : State) (l : Nat) (f : ShFields) (unit : Nat) : Nat := shOffset ((s.issuer l).getS f.a) f.imm unit

/-- The n bytes at a bay offset that stagehand l accesses lie in its context's quota, are aligned, and no word of them holds
a bit error (R139, R162). -/
structure Accessible (s : State) (l off n : Nat) : Prop where
  quota : (s.ctx (s.hand l).part (s.hand l).ctx).spOk off n = true
  aligned : off % n = 0
  clean : ∀ w ∈ wordsOf (spAddr (handBay l) off) n, sget 0 s.memErr w = 0

/-- From s to t nothing changes but stagehand l, the data space, and corrections that wait to be written back. -/
structure OnlyStore (s t : State) (l : Nat) : Prop where
  rest : { t with stagehands := s.stagehands, mem := s.mem, memErr := s.memErr, bays := s.bays } = s
  others : ∀ k, k ≠ l → t.hand k = s.hand k
  bays : ∀ b, { t.bay b with writeBack := (s.bay b).writeBack } = s.bay b

/-- The lane operations on BF16: opcode, latency, and the result and flags of a lane from vA, vB and vD (Tables 5.3, 5.5 to
5.7). -/
def laneRows : List ((Fin 6144 → Instr) × Nat × Nat × (BitVec 16 → BitVec 16 → BitVec 16 → BitVec 16 × StickyFlags)) :=
  [(.vadd, 0x40, 4, fun a b _ => bfFma a 0x3F80 b), (.vsub, 0x41, 4, fun a b _ => bfFma a 0x3F80 (b ^^^ 0x8000)),
   (.vmul, 0x42, 4, fun a b _ => bfFma a b 0x8000), (.vfma, 0x43, 4, fun a b d => bfFma a b d),
   (.vmax, 0x44, 4, fun a b _ => toBf16 (maxNum (bf16 a) (bf16 b))), (.vmin, 0x45, 4, fun a b _ => toBf16 (minNum (bf16 a) (bf16 b))),
   (.vabs, 0x46, 4, fun a _ _ => bfAbs a), (.vneg, 0x47, 4, fun a _ _ => bfNeg a), (.vexp, 0x48, 12, fun a _ _ => bfExp a),
   (.vrcp, 0x49, 12, fun a _ _ => bfRcp a), (.vrsq, 0x4A, 12, fun a _ _ => bfRsq a)]

/-- The lane operations on INT32 under the predicate: opcode and the result of lane i (Table 5.3). -/
def intLaneRows : List ((Fin 6144 → Instr) × Nat × (Stagehand → ShFields → Nat → Word)) :=
  [(.viadd, 0x58, fun h f i => lane32 (h.getV f.a) i + lane32 (h.getV f.b) i),
   (.visub, 0x59, fun h f i => lane32 (h.getV f.a) i - lane32 (h.getV f.b) i),
   (.vimul, 0x5A, fun h f i => lane32 (h.getV f.a) i * lane32 (h.getV f.b) i),
   (.vishl, 0x5B, fun h f i => lane32 (h.getV f.a) i <<< ((h.getS f.b).toNat % 32)),
   (.viota, 0x5C, fun h f i => h.getS f.a + BitVec.ofNat 32 i)]

/-- The instructions whose result goes to the predicate register D: opcode, latency and bit i of the result (Table 5.3). -/
def predicateRows : List ((Fin 6144 → Instr) × Nat × Nat × (Stagehand → ShFields → Nat → Bool)) :=
  [(.pand, 0x60, 1, fun h f i => (h.getP f.a).getLsbD i && (h.getP f.b).getLsbD i),
   (.por, 0x61, 1, fun h f i => (h.getP f.a).getLsbD i || (h.getP f.b).getLsbD i),
   (.pnot, 0x62, 1, fun h f i => !(h.getP f.a).getLsbD i), (.pset, 0x63, 1, fun h f i => (h.getS f.a).getLsbD i),
   (.vcmplt, 0x4C, 2, fun h f i => if (h.getP f.p).getLsbD i then ltNum (bf16 (lane16 (h.getV f.a) i)) (bf16 (lane16 (h.getV f.b) i))
      else (h.getP f.d).getLsbD i),
   (.vcmple, 0x4D, 2, fun h f i => if (h.getP f.p).getLsbD i then
        ltNum (bf16 (lane16 (h.getV f.a) i)) (bf16 (lane16 (h.getV f.b) i)) ||
          eqNum (bf16 (lane16 (h.getV f.a) i)) (bf16 (lane16 (h.getV f.b) i))
      else (h.getP f.d).getLsbD i),
   (.vcmpeq, 0x4E, 2, fun h f i => if (h.getP f.p).getLsbD i then eqNum (bf16 (lane16 (h.getV f.a) i)) (bf16 (lane16 (h.getV f.b) i))
      else (h.getP f.d).getLsbD i)]

/-- The stagehand instructions with their opcodes (Table 5.3). -/
def stagehandRows : List ((Fin 6144 → Instr) × Nat) :=
  scalarRows.map (fun r => (r.1, r.2.1)) ++ branchRows.map (fun r => (r.1, r.2.1)) ++ loadRows.map (fun r => (r.1, r.2.1)) ++
    storeRows.map (fun r => (r.1, r.2.1)) ++ laneRows.map (fun r => (r.1, r.2.1)) ++ intLaneRows.map (fun r => (r.1, r.2.1)) ++
    predicateRows.map (fun r => (r.1, r.2.1)) ++
    [(.jal, 0x26), (.jr, 0x27), (.loop, 0x28), (.halt, 0x2F), (.vld, 0x38), (.vldh, 0x3A), (.vgather, 0x3C), (.vscatter, 0x3D),
     (.rget, 0x3E), (.rput, 0x3F), (.vsel, 0x4F), (.vrsum, 0x50), (.vrmax, 0x51), (.vbcast, 0x52), (.vunpk, 0x68), (.vpack, 0x69),
     (.vcvti, 0x6A), (.vrand, 0x6C), (.clrfl, 0x71), (.waitf, 0x78), (.setf, 0x79), (.curt, 0x7A), (.nop, 0x7B)]

/-- Stagehand l has reported a fault of its own instruction (R152): its context's stagehands in its partition have halted, a
fault packet with the reason goes out for the context, and no register and no byte of memory changes. -/
structure HandFaults (s t : State) (l reason : Nat) : Prop where
  halted : ∀ kv ∈ t.stagehands, kv.2.part = (s.hand l).part → kv.2.ctx = (s.hand l).ctx → kv.2.running = false
  packet : t.cuePkts = (s.sendCue (.fault reason (s.hand l).part (s.hand l).ctx 2 (handBay l) l (s.hand l).bookoff s.clock.house 0
    [(s.hand l).pc % 256, (s.hand l).pc / 256 % 256])).cuePkts
  mem : t.mem = s.mem
  regs : t.regs = s.regs

/-- The checks of R140 and the reservation of R178 let the RGET or RPUT f of stagehand l start in the present slot. -/
structure CanSend (s : State) (l : Nat) (f : ShFields) : Prop where
  addr : s.gridAddrBad l ((s.issuer l).getS f.a).toNat = none
  slot : s.slotOf (handBay l) = fld (sget 0 (s.hand l).istore (s.hand l).pc) 3 0
  free : s.slotFree l 0 = true
  queues : s.canStart (gridFlit (s.issuer l) l f ((s.issuer l).getS f.a).toNat) = true

/-- The RGET or RPUT f of stagehand l has sent its flit in the present slot and has moved on; nothing else has changed. -/
structure Sent (s t : State) (l : Nat) (f : ShFields) : Prop where
  rest : { t with stagehands := s.stagehands, flits := s.flits, slotUsed := s.slotUsed } = s
  flit : t.flits = s.flits ++ [{ gridFlit (s.issuer l) l f ((s.issuer l).getS f.a).toNat with cycle := 2 * s.slotCount (handBay l) }]
  slot : t.slotUsed = sset 0 s.slotUsed (5 * l) (s.slotCount (handBay l) + 1)
  others : ∀ k, k ≠ l → t.hand k = s.hand k
  hand : t.hand l = Stagehand.nextPc (if f.opc = 0x3F then { s.issuing l with putsOut := (s.hand l).putsOut + 1 }
    else { s.issuing l with getsOut := (s.hand l).getsOut ++ [f.d] })

/-- Flit f, number i on the grid, crosses its link now: its bay runs, its cycle has come, and no other flit meets it. -/
structure Crosses (s : State) (i : Nat) (f : Flit) : Prop where
  here : s.flits[i]? = some f
  loc : f.loc = .router
  running : (s.bay (handBay f.at_)).clk.stopped = false
  due : f.cycle ≤ (s.bay (handBay f.at_)).clk.cyc
  alive : s.routerDead f.at_ = false
  alone : s.rival i f = none

/-- What a router has noted of a flit it takes in: a corrected group counts in the grid's counter of its bay (R173). -/
def State.noted (s : State) (l : Nat) (ecc : Ecc) : State :=
  if ecc = .corrected then s.countSat (aBay (handBay l) 0x2050) 1 else s

/-- A port of router l may take a flit now: its bay runs, the present slot is open on that side and not yet used (R179). -/
structure Takes (s : State) (l port : Nat) : Prop where
  running : (s.bay (handBay l)).clk.stopped = false
  slot : (s.openSlots (handBay l) port).testBit (s.slotOf (handBay l)) = true
  free : s.slotFree l port = true
  alive : s.routerDead l = false

/-- Flit f, number i on the grid, has left the grid at its target in a bay whose clock runs. -/
structure AtTarget (s : State) (i : Nat) (f : Flit) : Prop where
  here : s.flits[i]? = some f
  loc : f.loc = .ejected
  running : (s.bay (handBay f.at_)).clk.stopped = false

/-- The words of n bytes from data-space address a hold no bit error. -/
def cleanAt (s : State) (a n : Nat) : Prop := ∀ w ∈ wordsOf a n, sget 0 s.memErr w = 0

/-- From s to t nothing changes but the flits, which banks have been used in the present cycle, and the bytes written, with the
corrections that wait to be written back to their rows; no word gains a bit error. -/
structure GridWork (s t : State) (b : Nat) : Prop where
  rest : { t with flits := s.flits, bays := s.bays, mem := s.mem, memErr := s.memErr } = s
  others : ∀ k, ∃ w, { t.bay k with served := (s.bay k).served, transfers := (s.bay k).transfers, writeBack := w } = { s.bay k with writeBack := w }
  transfers : ∀ k, k ≠ b → (t.bay k).transfers = (s.bay k).transfers
  errors : ∀ w, sget 0 t.memErr w = sget 0 s.memErr w

/-- Flit f over the link it holds: at the next router of its route, behind the port that faces the one it left (R170, R171). -/
def Flit.onward (f : Flit) : Flit :=
  { f with at_ := gridNext f.at_ (f.outPort f.at_), inp := oppPort (f.outPort f.at_), held := some (f.at_, f.outPort f.at_, f.inp, f.cycle) }

/-- From s to t Yemir may have logged events (R390 to R397): what changes is its log with the score and its thresholds, the
mailboxes and the in-band interrupt of notices, the intermissions asked for, and the mailboxes' drop counters. -/
structure LogWork (s t : State) : Prop where
  rest : { t with ymr := s.ymr, mbx := s.mbx, pins := s.pins, inter := s.inter, regs := s.regs } = s
  ymr : { t.ymr with
    log := s.ymr.log, nextEvent := s.ymr.nextEvent, logSecond := s.ymr.logSecond, logCount := s.ymr.logCount,
    dropped := s.ymr.dropped, riskE := s.ymr.riskE, score := s.ymr.score, disarmed := s.ymr.disarmed, alert := s.ymr.alert,
    ceHist := s.ymr.ceHist } = s.ymr
  pins : { t.pins with ibi := s.pins.ibi } = s.pins
  inter : { t.inter with reqs := s.inter.reqs } = s.inter
  counters : ∀ a, (∀ k, a ≠ aMbx k 0x0C) → t.reg a = s.reg a

/-- From s to t a scrub walker of bay b has visited bank n of stagehand l: beside what logging touches, only its walker, the bay's
corrections and banks used, and the bay's error registers have changed. -/
structure ScrubWork (s t : State) (l n : Nat) : Prop where
  rest : LogWork { s with walkers := t.walkers, bays := t.bays, regs := t.regs } t
  walkers : ∀ k, k ≠ 4 * l + n → sget Walker.start t.walkers k = sget Walker.start s.walkers k
  others : ∀ k, k ≠ handBay l → t.bay k = s.bay k
  bay : { t.bay (handBay l) with writeBack := (s.bay (handBay l)).writeBack, served := (s.bay (handBay l)).served } = s.bay (handBay l)
  regs : ∀ a, a ∉ [aBay (handBay l) 0x2000, aBay (handBay l) 0x2004, aBay (handBay l) 0x2008, aBay (handBay l) 0x200C] →
    (∀ k, a ≠ aMbx k 0x0C) → t.reg a = s.reg a

/-- From s to t the root has numbered arrival e, the one at place i of those on their way, at curtain n of partition p, as the
release rel if it is one; the arriver has joined the generation g behind those released. Nothing else of the curtain network
has changed but that curtain. -/
structure NumberedArrival (s t : State) (i cyc : Nat) (e : CrtPend) (p n cls idx g : Nat) (rel : Option (Nat × Nat × Byte)) : Prop where
  rest : { t with crt := s.crt } = s
  crt : t.crt = { s.crt.noteSet cyc e.ev with
    toRoot := listDrop s.crt.toRoot i, seq := s.crt.seq + 1, curtains := t.crt.curtains
    numbered := s.crt.numbered ++ [{ seq := s.crt.seq + 1, ev := e.ev, release := rel, time := e.time }]
    joined := sset 0 s.crt.joined (joinKey p cls idx) (sget 0 s.crt.given (curtKey p n) + g)
    given := if rel = none then s.crt.given else sset 0 s.crt.given (curtKey p n) (sget 0 s.crt.given (curtKey p n) + 1) }
  others : ∀ q m, curtKey q m ≠ curtKey p n → t.curtain q m = s.curtain q m

/-- Event e, at place i of those that wait at their nodes, is registered and on its way to the root (R183). -/
def State.registered (s : State) (i : Nat) (e : CrtPend) : State :=
  { s with crt := { s.crt with waiting := listDrop s.crt.waiting i, toRoot := s.crt.toRoot ++ [{ e with time := s.clock.house }] } }

/-- The events of a write v of a flag register, from the root's node: one for each 1, in rising order of the flags, 32 and up in
the high register (R191). -/
def State.flagEvents (s : State) (ev : Nat → CrtEvent) (hi : Bool) (v : Word) : List CrtPend :=
  ((List.range 32).filter (fun i => bit v i)).map (fun i =>
    { ev := ev (i + (if hi then 32 else 0)), node := 17, time := s.clock.house, cp := none })

/-- From s to t blocks of the memories have been read without an uncorrectable error: only the controllers' counters of blocks
and of corrected errors, and Yemir's tally of the latter, change (R291, R292). -/
structure ReadWork (s t : State) : Prop where
  rest : { t with regs := s.regs, ymr := s.ymr } = s
  ymr : { t.ymr with ceHist := s.ymr.ceHist } = s.ymr
  regs : ∀ a, (∀ c, a ≠ aMem c 0x04 ∧ a ≠ aMem c 0x18) → t.reg a = s.reg a

/-- A read of n bytes at a by a cue processor for context c of partition p succeeds (R273). -/
structure CueReads (s : State) (p c a n : Nat) : Prop where
  quota : (s.ctx p c).hbmOk a n = true
  installed : s.inHbm a n = true
  open_ : s.memFenced = false
  clean : ∀ b ∈ blocksOf a n, s.blockErr b ≠ 2

/-- Cue processor n works for context c, inside a pass, and may act on its oldest entry e; rest stands behind it. -/
structure EntryReady (s : State) (n c : Nat) (e : CsEntry) (rest : List CsEntry) : Prop where
  ctx : s.cpCtx n = some c
  head : (s.cp n).fetched = e :: rest
  inPass : (s.cp n).inPass = true
  going : (s.cp n).halted = false
  wait : (s.cp n).wait = .none
  fresh : (s.cp n).registered = false

/-- From s to t nothing of the cue processors changes but what cue processor n holds. -/
structure OnlyCp (s t : State) (n : Nat) (y : CueProc) : Prop where
  cp : t.cp n = y
  others : ∀ k, k ≠ n → t.cp k = s.cp k

/-- The oldest entry of cue processor n has retired: the next is the oldest, the read position of its context names it, and
nothing else has changed. -/
structure Retired (s t : State) (n c : Nat) (e : CsEntry) (rest : List CsEntry) : Prop where
  frame : { t with cps := s.cps, ctxs := s.ctxs } = s
  cp : OnlyCp s t n { s.cp n with fetched := rest, wait := .none, batchPos := 0, granted := false, registered := false }
  ctx : t.ctx (s.partOfCp n) c = { s.ctx (s.partOfCp n) c with
    rdptr := sset 0 (s.ctx (s.partOfCp n) c).rdptr n (if s.ringSize n c = 0 then 0 else (e.index + 1) % s.ringSize n c) }
  others : ∀ p d, ctxKey p d ≠ ctxKey (s.partOfCp n) c → t.ctx p d = s.ctx p d

/-- The packet ws of entry e has left cue processor n for its queue, and the entry waits for its arrival; a read of the memories
may have been counted. -/
structure PacketLeft (s t : State) (n c : Nat) (e : CsEntry) (ws : List Word) : Prop where
  frame : ReadWork { s with cps := t.cps, cuePkts := t.cuePkts } t
  packet : t.cuePkts = (s.sendCue (.command (s.targetOf n e).cls (s.targetOf n e).bay (s.targetOf n e).index
    (s.targetOf n e).queue ws (s.targetOf n e).part c e.bookoff n)).cuePkts
  cp : OnlyCp s t n { s.cp n with wait := .none, granted := true, registered := true }

/-- Cue processor n has halted at entry e, and a fault packet with the reason is on its way (R273, R274). -/
structure CueHalts (s t : State) (n c reason : Nat) (e : CsEntry) : Prop where
  frame : { t with cps := s.cps, cuePkts := s.cuePkts } = s
  cp : OnlyCp s t n { s.cp n with halted := true }
  packet : t.cuePkts = (s.sendCue (.fault reason (s.partOfCp n) c 6 0xFF n e.bookoff s.clock.house e.addr
    [e.num 0 1, e.num 1 1, e.num 2 1, e.num 3 1])).cuePkts

/-- What a byte of the data space reads as: of the memories under their keys, of the scratchpad as it is. -/
def State.dsByte (s : State) (a : Nat) : Byte := if a < spBase then s.memByte a else s.byte a

/-- From s to t the n bytes bs at address a have been written, and every other byte of the data space reads as before. -/
structure Wrote (s t : State) (a : Nat) (bs : List Byte) : Prop where
  bytes : ∀ k, k < bs.length → t.dsByte (a + k) = bs.getD k 0
  others : ∀ x, (x < a ∨ a + bs.length ≤ x) → t.dsByte x = s.dsByte x

/-- Bytes at a can be written by a link engine: in the memories, which are not fenced, or in the scratchpad without a bit error
there. -/
def State.writable (s : State) (a n : Nat) : Prop :=
  (a + n ≤ spBase ∧ (a < spBase → s.memFenced = false)) ∨ (spBase ≤ a ∧ cleanAt s a n)

/-- q is the head of queue k of the link engines of partition p, rest behind it: its opcode is op, and its WAIT flag has been seen
or is set at the link engines' node. -/
structure LinkReady (s : State) (p k op : Nat) (q : QCmd) (rest : List QCmd) : Prop where
  queue : (s.link p).queue k = q :: rest
  opcode : q.head.opcode = op
  waited : q.waitOk = true ∨ s.flagAt linkNode p q.head.waitFlag = true

/-- From s to t the link engines of the other partitions are as they were. -/
def otherLinks (s t : State) (p : Nat) : Prop := ∀ q, q ≠ p → t.link q = s.link q

/-- The head of queue k of partition p has left; the commands of every queue are else the same, though the next may have seen its
flag. -/
structure LinkTook (s t : State) (p k : Nat) (rest : List QCmd) : Prop where
  taken : ((t.link p).queue k).map QCmd.words = rest.map QCmd.words
  queues : ∀ j, j ≠ k → ((t.link p).queue j).map QCmd.words = ((s.link p).queue j).map QCmd.words

/-- The curtain network, with one more event from the link engines' node: a set of the command's SET flag, if it has one. -/
def State.setsFlag (s : State) (p : Nat) (h : CmdHead) : CurtNet :=
  if h.set then { s.crt with
    waiting := s.crt.waiting ++ [{ ev := .flagSet p h.setFlag, node := linkNode, time := s.clock.house, cp := none }] }
  else s.crt

/-- From s to t blocks have been written to the memories or the scratchpad: only bytes, bit errors and keys of the blocks, the
corrections that wait in bays, and the controllers' counters of blocks written change. -/
structure WriteWork (s t : State) : Prop where
  rest : { t with mem := s.mem, memErr := s.memErr, ddrKeyed := s.ddrKeyed, bays := s.bays, regs := s.regs } = s
  bays : ∀ b, { t.bay b with writeBack := (s.bay b).writeBack } = s.bay b
  regs : ∀ a, (∀ c, a ≠ aMem c 0x1C) → t.reg a = s.reg a

/-- The context's step is not being reset, and the context has not faulted: the end of a command changes nothing else of it. -/
structure GoesOn (s : State) (p c : Nat) : Prop where
  reset : s.l0Of p c = none
  state : (s.ctx p c).st ≠ 6

/-- From s to t the exchange of partition p has worked and passed chunks on: the other partitions' link engines and the memories are
as they were; what changes lies in its own link engines, the chain and Ethernet ports, registers, and what a read of the source counts. -/
structure PassedOn (s t : State) (p : Nat) : Prop where
  rest : { t with links := s.links, chain := s.chain, eth := s.eth, regs := s.regs, ymr := s.ymr, bays := s.bays } = s
  ymr : { t.ymr with ceHist := s.ymr.ceHist } = s.ymr
  bays : ∀ b, { t.bay b with writeBack := (s.bay b).writeBack } = s.bay b
  links : otherLinks s t p

/-- From s to t only buckets of partition p, and whether a context's step has met a non-finite value, change. -/
structure OnlyBuckets (s t : State) (p : Nat) : Prop where
  rest : { t with links := s.links } = s
  links : otherLinks s t p
  link : { t.link p with buckets := (s.link p).buckets, stepNf := (s.link p).stepNf } = s.link p

/-- Bucket b' is b with a transfer h held that came at house time now: it knows the list of h's level and the time of the first
transfer there (R238, R239). -/
structure HeldAs (b b' : Bucket) (h : BucketHdr) (now : Nat) : Prop where
  id : b'.ctx = b.ctx ∧ b'.tag = b.tag ∧ b'.own = b.own ∧ b'.accepted = b.accepted ∧ b'.chunks = b.chunks
  level0 : h.level = 0 → b'.cast = h.cast.toNat ∧ b'.firstIn0 = b.firstIn0.or (some now)
  level1 : h.level = 1 → b'.ecast = h.cast.toNat ∧ b'.firstIn1 = b.firstIn1.or (some now)

/-- From s to t a part of partition p has landed, and transfers that waited behind it may have gone on: beside bytes written, only its
own link engines, the ports and registers change. -/
structure LandingWork (s t : State) (p : Nat) : Prop where
  rest : { t with
    mem := s.mem, memErr := s.memErr, ddrKeyed := s.ddrKeyed, links := s.links, chain := s.chain, eth := s.eth, regs := s.regs } = s
  links : otherLinks s t p

/-- The opcodes that are answered with the die rails off (R354, Table 12.6). -/
def worksOff : List Nat := [0x01, 0x02, 0x03, 0x04, 0x38, 0x39, 0x3A]

/-- Request h of an opcode reaches this module under the open session x, whose role may use it, and meets every step of R349 and
R351 that does not depend on the opcode: the die is on where the opcode needs it, it is not the last request of its session, and few are open. -/
structure Asks (s : State) (h : PcpHdr) (x : Session) (op : Nat) (role : PcpRole) (need : Nat) : Prop where
  reaches : s.pcpReaches h = true
  magic : h.magic = 0x5043
  request : h.reply = false
  version : h.version = 1
  whole : h.length ≤ h.avail
  here : h.chain = 0xFF ∨ s.chain.addr = some h.chain.toNat
  opcode : h.opcode.toNat = op
  enc : h.enc = true
  tag : h.tagOk = true
  session : s.session h = some x
  role : roleOk role h x.role = true
  fresh : x.lastSeq.elim false (fun n => decide (h.sequence.toNat ≤ n)) = false
  more : h.sequence ≠ 0xFFFFFFFF
  few : x.open_ < 8
  long : need ≤ h.length
  die : s.ymr.dieOn = true ∨ worksOff.contains op = true

/-- The partition that request h names exists and is not fenced (R462). -/
structure NamesPart (s : State) (h : PcpHdr) : Prop where
  exists_ : s.partExists (hdrPart h) = true
  open_ : s.partFenced (hdrPart h) = false

/-- The partition and context that request h names exist, and no reset and no other request of the context holds it off
(R351, R462). -/
structure NamesCtx (s : State) (h : PcpHdr) : Prop where
  part : NamesPart s h
  ctx : (s.ctx (hdrPart h) (hdrCtx h)).st ≠ 0
  free : s.ymr.busy.any (fun b => decide (b.1 = hdrKey h) && holdsOff.contains b.2) = false
  reset : s.resets.any (fun r => decide (r.level = 0) && decide (ctxKey r.part r.ctx = hdrKey h)) = false

/-- The state with request h of session x accepted: its sequence number and time noted, one more request open (R351, R356). -/
def State.accept (s : State) (h : PcpHdr) (x : Session) : State :=
  s.modSession x.id (fun y => { y with lastSeq := some h.sequence.toNat, lastTime := s.now, open_ := y.open_ + 1 })

/-- Request h of an opcode that any sender may use reaches this module without an open session, and is whole (R349, R355). -/
structure AsksPlain (s : State) (h : PcpHdr) (op need : Nat) : Prop where
  reaches : s.pcpReaches h = true
  magic : h.magic = 0x5043
  request : h.reply = false
  version : h.version = 1
  whole : h.length ≤ h.avail
  here : h.chain = 0xFF ∨ s.chain.addr = some h.chain.toNat
  opcode : h.opcode.toNat = op
  plain : ((s.session h).isSome && h.enc && h.tagOk) = false
  long : need ≤ h.length
  die : s.ymr.dieOn = true ∨ worksOff.contains op = true

/-- Request h of an opcode that any sender may use, with or without a session: the state in which it is carried out, and the header
it is answered by (R349). -/
inductive AskedBy (s : State) (h : PcpHdr) (op need : Nat) : State → PcpHdr → Prop where
  | session (x : Session) (ask : Asks s h x op .any need) : AskedBy s h op need (s.accept h x) h
  | plain (ask : AsksPlain s h op need) : AskedBy s h op need s { h with session := 0 }

/-- The one-time index that the next signature takes (R403). -/
def State.nextIndex (s : State) : Nat := if s.ymr.xmssNext < s.ymr.xmssReserved then s.ymr.xmssNext else s.ymr.xmssReserved

/-- What a one-time signature takes (R403): the next index, after a new block is reserved, and n free values beside it. -/
structure SignWork (s t : State) (n : Nat) : Prop where
  rest : LogWork { s with
    ymr := { s.ymr with xmssNext := t.ymr.xmssNext, xmssReserved := t.ymr.xmssReserved }, free := s.free + n } t
  next : t.ymr.xmssNext = s.nextIndex + 1

/-- A signature of this module over bytes, under its next one-time index (R402). -/
def State.signature (s : State) (bs : List Byte) : List Byte := fitTo 9893 (Config.xmssSign s.fuse.identitySeed s.nextIndex bs)

/-- The state with session x open beside the others. -/
def State.withSession (s : State) (x : Session) : State := { s with ymr := { s.ymr with sessions := s.ymr.sessions ++ [x] } }

/-- The 256-byte block at a data-space address cannot be read: an uncorrectable word lies in it (R162, R292). -/
def State.lostBlock (s : State) (a : Nat) : Bool :=
  if spBase ≤ a then (wordsOf a 256).any (fun w => decide (2 ≤ sget 0 s.memErr w)) else decide (s.blockErr a = 2)

/-- What MEM_READ answers of the block at an address (Table 12.6): zeros for one that is lost. -/
def State.blockAnswer (s : State) (a : Nat) : List Byte :=
  if s.lostBlock a then List.replicate 256 0 else s.snapRead a ((List.range 256).map (fun i => s.dsByte (a + i)))

/-- The bits of a list of blocks that are lost. -/
def State.lostBits (s : State) (l : List Nat) : Nat :=
  ((List.range l.length).filter (fun i => s.lostBlock (l.getD i 0))).foldl (fun m i => m + 2 ^ i) 0

/-- Wing engine we reads landed part x and updates its squares (R253): the state, and the address of a block that cannot be
read. -/
def State.partApplied (s : State) (p we : Nat) (x : LandedPart) (b : Bucket) (d : ODesc) (td : TDesc) (bs : List Byte) :
    State × Option Nat :=
  ((s.readMem (s.xget p x.ctx 0x030 8 + x.at_ + 32) (2 * x.elems)).1.setWestat we x.ctx b.opt false).applySquares p we x b d td
    (g16Of x.elems bs) (wingSquares we x b.soff d td)

/-- Wing engine we may take landed part x, number i of partition p, of bucket b: it is there, its update is decided and compared,
this engine has not done its share, and the memories are open (R237, R250). -/
structure PartReady (s : State) (p we i : Nat) (x : LandedPart) (b : Bucket) (d : ODesc) (td : TDesc) : Prop where
  part : (s.link p).landing[i]? = some x
  bucket : (s.link p).buckets[x.bucket]? = some b
  desc : s.odesc p x.ctx b.opt = some d
  tensor : s.tensor p x.ctx b.tensor = some td
  seen : b.seen = true
  decided : b.decided 0 = true
  checked : s.checkedOk p b = true
  todo : x.doneBy.getLsbD we = false
  open_ : s.memFenced = false

/-- From s to t a transfer of bay b has been planned: only bay b, with the corrections found by reading its index and its data, the
bay's error registers, its controllers and the flits change. -/
structure IssueWork (s t : State) (b : Nat) : Prop where
  rest : { t with bays := s.bays, ctls := s.ctls, flits := s.flits, regs := s.regs, ymr := s.ymr } = s
  ymr : { t.ymr with ceHist := s.ymr.ceHist } = s.ymr
  bays : ∀ k, ∃ w, { t.bay k with transfers := (s.bay k).transfers, started := (s.bay k).started, writeBack := w } =
    { s.bay k with writeBack := w }
  others : ∀ k, k ≠ b → (t.bay k).transfers = (s.bay k).transfers ∧ (t.bay k).started = (s.bay k).started
  regs : ∀ a, (∀ k, a ≠ aBay k 0x2000 ∧ a ≠ aBay k 0x2004 ∧ a ≠ aBay k 0x2008) → t.reg a = s.reg a

/-- The request that transfer n of c makes (R310, R316). -/
def State.request (s : State) (b : Nat) (c : Started) (tag a off : Nat) : MemReq :=
  { write := c.seWrite, addr := a, requester := b, gen := sget 0 (s.ctl (ctlOf a)).gens b, part := c.part, ctx := c.ctx, bay := b,
    tag := tag, spOff := off, data := [] }

/-- Of the controllers only k has changed, to y. -/
structure OnlyCtl (s t : State) (k : Nat) (y : MemCtl) : Prop where
  ctl : t.ctl k = y
  others : ∀ j, j ≠ k → t.ctl j = s.ctl j

/-- Training has put the controllers of a list in a state, at a rate, with a size of DIMM; the others are as they were. -/
def trainedAs (s t : State) (lo hi st : Nat) (slow : Bool) (size : Nat) : Prop :=
  ∀ n, t.ctl n = if lo ≤ n ∧ n ≤ hi then { s.ctl n with st := st, slow := slow, size := size } else s.ctl n

/-- The n bytes from a are zero, and the other bytes are as they were. -/
def zeroed (s t : State) (a n : Nat) : Prop := ∀ x, t.byte x = if a ≤ x ∧ x < a + n then 0 else s.byte x

/-- The rows of bay b that a self-test found failing. -/
def rowsOf (failed : List (Nat × Nat)) (b : Nat) : List Nat := (failed.filter (fun f => decide (f.1 = b) && decide (f.2 < 17))).map Prod.snd

/-- The state with c as the clock of bay b. -/
def State.withClk (s : State) (b : Nat) (c : BayClk) : State := s.setBay b { s.bay b with clk := c }

/-- The clock of bay b has become c, BAY_CLKSTEP has counted n codes more, and nothing else has changed. -/
structure ClkStep (s t : State) (b : Nat) (c : BayClk) (n : Nat) : Prop where
  rest : { t with bays := s.bays, regs := s.regs } = s
  bay : t.bay b = { s.bay b with clk := c }
  others : ∀ k, k ≠ b → t.bay k = s.bay k
  regs : ∀ a, t.reg a = if a = aBay b 0x400C ∧ n ≠ 0 then satInc (s.reg a) n else s.reg a

/-- From s to t nothing changes but what the Ethernet port holds beside its registers, x there. -/
structure OnlyEth (s t : State) (x : Eth) : Prop where
  rest : { t with eth := s.eth } = s
  eth : t.eth = x

/-- A frame of a kind that waits for egress on connection c. -/
def Conn.waits (c : Conn) (kind psn : Nat) (bs : List Byte) (now : Nat) : OutMsg :=
  { kind := kind, cls := c.cls, peer := c.peer, conn := c.conn, psn := psn, payload := bs, ready := now }

/-- A frame of a kind that is no connection's waits for egress. -/
def waitsFor (kind cls peer : Nat) (bs : List Byte) (now : Nat) : OutMsg :=
  { kind := kind, cls := cls, peer := peer, conn := 0, psn := 0, payload := bs, ready := now }

/-- Transport packet p can be taken: it is whole and its class is one of Table 12.2's. -/
structure PacketGood (s : State) (p : TransPkt) : Prop where
  up : s.ethUp = true
  version : p.version = 1
  cls : classWindow p.cls ≠ 0
  tag : p.cls = 6 ∨ p.tagOk = true

/-- Connection c after an acknowledgement: the packets it names are done, and the window opens (R344). -/
def Conn.acked (c : Conn) (p : TransPkt) : Conn :=
  if p.ack then { c with txUnacked := c.txUnacked.filter (fun x => decide (p.ackPsn ≤ x.psn) && !(decide (p.ackPsn < x.psn) && p.sack.getLsbD (x.psn - p.ackPsn - 1))),
                         txLimit := max c.txLimit (p.ackPsn + p.window) }
  else c

/-- The packets of c missing before one that acknowledgement p names beyond the gap (R344). -/
def Conn.missing (c : Conn) (p : TransPkt) : List TxPkt :=
  (c.acked p).txUnacked.filter (fun x => c.txUnacked.any (fun y =>
    decide (x.psn < y.psn) && (decide (p.ackPsn < y.psn) && p.sack.getLsbD (y.psn - p.ackPsn - 1))))

/-- Connection c with data packet p kept, if it is new and inside the window, and what can be delivered now (R344). -/
def Conn.takes (c : Conn) (p : TransPkt) : Conn × List (List Byte) :=
  let fresh := decide (c.rxNext ≤ p.psn) && !(c.rxBuf.any (fun x => decide (x.1 = p.psn))) && decide (p.psn < c.rxNext + classWindow c.cls)
  let k := if fresh then { c with rxBuf := c.rxBuf ++ [(p.psn, p.payload)] } else c
  k.deliver k.rxBuf.length []

/-- The key of a connection of a class as it opens: a free value (log entry 191), none in class 6. -/
def State.openKey (s : State) (cls : Nat) : Nat := if cls = 6 then 0 else (Config.freeValue 512 s.free).toNat

/-- Frame m, number i of those that wait, has left the port as y; it takes connections l and the frames w that still wait. -/
structure LeftPort (s t : State) (m : OutMsg) (l : List Conn) (w : List OutMsg) (y : List EthFrame) : Prop where
  eth : t.eth = { s.eth with egress := w, conns := l, wire := s.eth.wire ++ y }
  regs : t.regs = (if m.cls = 7 then s.maxFld (aEth 0x48) 15 0 (min 0xFFFF (s.clock.house - m.ready)) else s).regs

/-- The same sent as a packet of connection c. -/
def State.sentOn (s : State) (c : Conn) (m : OutMsg) : EthFrame :=
  { peer := c.peer, prio := c.cls, vid := s.ethVid, body := .packet c.outKey (c.packet m) }

/-- Connection c with one transmission more of frame m: the next XSEQ, and for a new payload the next PSN (R344, R346). -/
def Conn.sends (c : Conn) (m : OutMsg) (now : Nat) : Conn :=
  if m.kind = 0 then
    { c with xseq := if c.cls = 6 then 0 else c.xseq + 1, txNext := c.txNext + 1,
             txUnacked := c.txUnacked ++ [{ psn := c.txNext, payload := m.payload, sent := now, tries := 1 }] }
  else { c with xseq := if c.cls = 6 then 0 else c.xseq + 1 }

/-- The cluster's RELEASE for the ARRIVEs l of a curtain, with the combination of their payloads (R364). -/
def releaseOf (m : CurtMsg) (l : List CurtMsg) : CurtMsg := { m with kind := 2, payload := l.foldl (fun p x => p ||| x.payload) 0, src := 0 }

/-- i is the arrival of slice c, by the KIND that its row stands for (Table 13.4). -/
def isSlice (i : Instr) (kind : Nat) (port : Port) (c : CurtSlice) : Prop :=
  (i = .chainArrive port c ∧ kind = 1) ∨ (i = .chainRelease port c ∧ kind = 2) ∨ (i = .curtainAck port c ∧ kind = 3) ∨
  (i = .timeMsg port c ∧ kind = 4) ∨ (i = .timeReply port c ∧ kind = 5)

/-- The port with the slices that c acknowledges confirmed: the one whose CSEQ it names, and those before it (R373). -/
def ChainPort.confirmed (x : ChainPort) (c : CurtSlice) : ChainPort :=
  match x.curtOut.findIdx? (fun y => decide (y.1.cseq = c.cack)) with
  | some k => { x with curtOut := x.curtOut.drop (k + 1) }
  | none => x

/-- Slice c stands next in order on port e, and is good (R373). -/
structure NextSlice (s : State) (e : Bool) (c : CurtSlice) : Prop where
  up : s.portUp e = true
  tag : c.tagOk = true
  seq : c.cseq = ((s.port e).sliceRx + 1) % 65536

/-- The state in which slice c, the next in order on port e, is applied: it is counted, an acknowledgement is due, and the time of the
hop, a free value (log entry 41), may be the longest (R372, R373). -/
def State.sliceTaken (s : State) (e : Bool) (c : CurtSlice) : State :=
  let u := s.setPort e { (s.port e).confirmed c with sliceRx := (s.port e).sliceRx + 1, ackDue := true }
  State.maxFld { u with free := s.free + 1 } (aChn e 0x14) 15 0 (Config.freeValue 16 s.free).toNat

/-- From s to t only port e of the chain has changed, to y. -/
structure OnlyPort (s t : State) (e : Bool) (y : ChainPort) : Prop where
  rest : { t with chain := { t.chain with w := s.chain.w, e := s.chain.e } } = s
  port : t.port e = y
  other : t.port (!e) = s.port (!e)

/-- The link of port x is down since house time now (R369). -/
def ChainPort.goneDown (x : ChainPort) (now : Nat) : ChainPort := { x with up := false, downSince := now, resends := 0 }

/-- A port that trains again, before its keys: a lost one starts afresh but for what it holds (R370). -/
def ChainPort.restarts (x : ChainPort) : ChainPort :=
  if x.lost then { ChainPort.idle with
    txQueue := x.txQueue, splices := x.splices.map (fun y => (y.1, y.2.1, 0)), recCw := x.recCw, recCcw := x.recCcw, line := x.line
    delivered := x.delivered }
  else x

/-- The chain with no address and its enumeration failed (R378). -/
def State.chainFailed (s : State) : State :=
  { s with chain := { s.chain with addr := none, enumSt := 3, isLoop := false, count := 0, broken := none } }

/-- What has come of the message that flit f ends, on port x. -/
def ChainPort.whole (x : ChainPort) (f : ChainFlit) : List ChainFlit := x.message f ++ [f]

/-- The flits of other messages that port x holds. -/
def ChainPort.others (x : ChainPort) (f : ChainFlit) : List ChainFlit := x.rxMsg.filter (fun g => decide (msgKey g ≠ msgKey f))

/-- Flit f ends its message on port e: it is not one dealt with before, and no older message of its lane and source is broken off. -/
structure EndsMessage (s : State) (e : Bool) (f : ChainFlit) : Prop where
  fresh : (s.port e).rxDone.contains f.seq = false
  last : f.eom = true
  whole : f.som = true → (s.port e).message f = []

/-- ENUM_FAIL goes out both ways (R378). -/
def State.tellFail (s : State) : State := (s.sendLink false .enumFail 0 false).sendLink true .enumFail 0 false

/-- From s to t nothing changes but mailbox channel n, to y. -/
structure OnlyMail (s t : State) (n : Nat) (y : Mailbox) : Prop where
  rest : { t with mbx := s.mbx } = s
  mail : t.mail n = y
  others : ∀ k, k ≠ n → t.mail k = s.mail k

/-- The state with other sensor readings. -/
def State.sensed (s : State) (z : Sensors) : State := { s with ymr := { s.ymr with sensors := z } }

/-- Request h asks for a reset of a level under session x: byte 0 of its payload names the level (Table 12.6). -/
structure AsksReset (s : State) (h : PcpHdr) (x : Session) (level : Nat) (role : PcpRole) : Prop where
  asks : Asks s h x 0x32 role 4
  level : (h.body.headD (BitVec.ofNat 8 level)).toNat = level

/-- An intermission's request r of a session, as a PCP header asks for it now (Table 12.6). -/
def State.interReq (s : State) (h : PcpHdr) (copyHost : Bool) (timeout : Nat) : IReq :=
  { part := hdrPart h, ctx := hdrCtx h, cause := 0, copyHost := copyHost, hdrs := [h],
    expires := if timeout = 0 then none else some (s.clock.house + 1000 * timeout) }

/-- The state with a request h of an opcode for its context open, to be answered later (R351). -/
def State.heldOff (s : State) (h : PcpHdr) (op : Nat) : State := { s with ymr := { s.ymr with busy := s.ymr.busy ++ [(hdrKey h, op)] } }

/-- Every one of the headers l is answered with a status of an opcode. -/
def State.replyAll (s : State) (l : List PcpHdr) (op status : Nat) (bs : List Byte) : State := l.foldl (fun s h => s.reply h op status bs) s

/-- The stop of intermission r has ended in own slot (a, n): from s to u the image x has been taken into it, its place zeroed, the
context's memory counted as read, and the stop logged and shown (R434, R435). -/
structure StopEnded (s u : State) (r : IReq) (a n : Nat) (x : Snapshot) : Prop where
  image : x = s.draw.1.takeImage r.part r.ctx a n
  rest : LogWork { s with
    free := s.free + 1, mem := u.mem, memErr := u.memErr, ddrKeyed := u.ddrKeyed, regs := u.regs
    inter := { s.inter with
      snaps := oldSnaps r.part r.ctx s.inter.snaps ++ [x], phase := 3, replica := false, pinned := !(s.odescs r.part r.ctx).isEmpty
      pinHalves := (s.odescs r.part r.ctx).map ODesc.live, serial := (s.inter.serial + 1) % 256
      copyPeer := (r.hdrs.head?).elim 0 PcpHdr.peer, reqs := { r with hdrs := [] } :: s.inter.reqs.drop 1 } } u
  bytes : ∀ k, u.byte k = if a ≤ k ∧ k < a + n then 0 else s.byte k
  time : u.reg (aFlt 0x202C) = BitVec.ofNat 32 ((s.clock.house - s.inter.stopAt) / 1000)
  place : u.reg (aFlt 0x2038) = lo32 a ∧ u.reg (aFlt 0x203C) = (hi32 a &&& 0xFFFF)
  regs : ∀ k, k ∉ [aFlt 0x202C, aFlt 0x2038, aFlt 0x203C] → (∀ c, k ≠ aMem c 0x18 ∧ k ≠ aMbx c 0x0C) → u.reg k = s.reg k

end Sys2Proof.Machine
end

