-- ==== Sys2Proof/Certificates/Slice0/Obligations.lean ====
section
/-!
DEFINITION. Certificates/Slice0/Obligations.lean: the statements about the block that provers are asked to prove.
-/
open Sys2Proof Sys2Proof.Machine

/-- For every command c and state s, one step of s with c put at the front of its queue of waiting commands is exec of c
on s with the queue's rest. The queue is the model's own (log entry 1). (spec/00_scope.md) -/
def Obligations.FrontCommandRuns : Prop :=
  ∀ (c : Instr) (s : State), Machine.step { s with pending := c :: s.pending } = Machine.exec c s

/-- On an empty queue the block answers a next state. While Yemir is on and the die's rails are on, with no trim in force,
the step adds 1 ns to house time (R322) and to Yemir's uptime, and leaves memory, the fuses, contexts, cast lists,
fault records and sessions unchanged; with no replication under way and no splice record open it leaves the pins and
all of Yemir unchanged. That time passes on an empty queue is the model's choice (log entry 1).
(spec/11_clocks_and_crossings.md Table 11.5) -/
def Obligations.IdleStepIsOneNanosecond : Prop :=
  ∀ s : State, s.pending = [] → ∃ t, Machine.step s = .next t ∧
    (s.power ≠ .off → s.on → s.clock.frac = 0 → s.clock.trim = 0 →
      t.clock.house = s.clock.house + 1 ∧ t.clock.uptime = s.clock.uptime + 1 ∧ t.mem = s.mem ∧ t.fuse = s.fuse ∧
        t.ctxs = s.ctxs ∧ t.casts = s.casts ∧ t.faults = s.faults ∧ t.ymr.sessions = s.ymr.sessions ∧
        (QuietLine s → t.pins = s.pins ∧ t.ymr = s.ymr))

/-- Every command answers a next state in every state: a command's errors are registers, fault records, statuses and
events, none a stop of the block. The queue of the commands that wait behind it is left as it was: commands come only
from outside the block (the queue is the model's own, log entry 1). (spec/15_faults_resets_intermissions.md;
spec/98_reader.md; spec/00_scope.md) -/
def Obligations.EveryCommandAnswersNext : Prop :=
  ∀ (c : Instr) (s : State), ∃ t, Machine.exec c s = .next t ∧ t.pending = s.pending

/-- For every state whose data space (HBM, DDR and the scratchpad window) is in canonical form, addresses strictly rising
and no listed byte equal to what an unlisted address reads as, a step that answers a next state leaves it in canonical
form, whatever command it runs, and no step in any state changes a fused value: the bay mask, the stepping, the MAC
address, the vendor root digest and the identity seed. The form is the model's own (log entry 6). (spec/00_scope.md
Table 0.1; spec/06_scratchpad_and_grid.md; spec/10_memory_wings_and_streams.md; spec/14_yemir_and_security.md Table
14.1) -/
def Obligations.MemoryKeepsItsForm : Prop :=
  ∀ s t : State, Machine.step s = .next t → t.fuse = s.fuse ∧ (Memory.wf s.mem = true → Memory.wf t.mem = true)

/-- At reset every bay has no waiting or started command, its address slots hold base 0, counts 1 and strides 0, its tile
buffers are not loaded, its flags are clear, its arrays are ramped down, its clock runs at code 0x5A; no context
exists, no fault is recorded, no session is open, the enumeration has not run, the pins stand at their pulls. No byte
of the data space is listed, so every byte reads as the value log entry 6 names (the model's choice), and the list is
in canonical form. (spec/02_the_revolve.md Table 2.10; spec/03_station_instructions.md;
spec/10_memory_wings_and_streams.md Table 10.12; spec/11_clocks_and_crossings.md Table 11.5;
spec/16_module_and_power_up.md Table 16.2) -/
def Obligations.ResetState : Prop :=
  (∀ b, (State.reset.bay b).queues = [] ∧ (State.reset.bay b).started = [] ∧ (State.reset.bay b).flags = 0 ∧
    (State.reset.bay b).clk.code = 0x5A ∧ (∀ k, (State.reset.bay b).slot k = AgSlot.init) ∧
    (∀ a buf, ((State.reset.bay b).tile a buf).loaded = false) ∧ (∀ a, ((State.reset.bay b).ramp a).step = 0)) ∧
  (∀ p c, (State.reset.ctx p c).st = 0 ∧ State.reset.faultRec p c = none) ∧ State.reset.ymr.sessions = [] ∧
  State.reset.chain.enumSt = 0 ∧ State.reset.pins.pwrEn = false ∧ State.reset.pins.resetN = true ∧
  State.reset.pins.throttleN = true ∧
  Memory.wf State.reset.mem = true ∧ ∀ a, State.reset.byte a = 0

/-- For each of the 16 station and row-engine commands (STN_NOP, STN_AGEN, STN_TLOAD, STN_INJECT, STN_MMA, STN_CARRY,
STN_DRAIN, STN_SPILL, STN_FILL, RE_NORM, RE_RMS, RE_SMAX, RE_NORM_BWD, RE_RMS_BWD, RE_SMAX_BWD, RE_ROWDOT): when it is
at the head of queue q of an active bay whose clock runs, its WAIT flag has been seen, the scoreboard allows its
ranges, its condition of Table 3.17 holds with its resources free, and no ready head of another queue that needs them
goes before it (R97), it starts: the queue holds the rest, and behind the commands started before the bay has one more
that carries its words, partition, context and entry offset. Nothing changes but bays, the data space with its bit
errors, registers and the tally of corrected errors, and the cue network's packets; no byte below the scratchpad
window changes, and no byte at all but for STN_DRAIN, STN_SPILL and the row engine's commands.
(spec/03_station_instructions.md Table 3.2; spec/03_station_instructions.md Table 3.17;
spec/06_scratchpad_and_grid.md) -/
def Obligations.StationCommandStarts : Prop :=
  ∀ (mk : Fin 48 → Fin 4 → Instr) (op : Nat), (mk, op) ∈ stationStarts →
    ∀ (s : State) (b : Fin 48) (q : Fin 4) (c : QCmd) (rest : List QCmd),
      HeadReady s b q op c rest → (s.bay b).conditionOk c.words = true →
      ∃ t, Machine.exec (mk b q) s = .next t ∧ Begun s t b q c rest ∧ StationWork s t op

/-- SH_LOAD starts once every stagehand of its set has halted, SH_START so in frame cycle 0 (the present nanosecond holds
that cycle), and SH_STOP at once, each when it stands ready at the head of the dispatcher queue of an active bay whose
clock runs: the queue holds the rest, and behind the commands started before the bay has one more that carries its
words, partition, context and entry offset. After SH_STOP no stagehand of its set runs, and every other stagehand is
as it was. None changes a byte of memory. (spec/05_stagehands.md Table 5.9; spec/06_scratchpad_and_grid.md) -/
def Obligations.DispatcherCommandStarts : Prop :=
  ∀ (s : State) (b : Fin 48) (c : QCmd) (rest : List QCmd),
    (HeadReady s b 4 0x20 c rest → s.allHalted (dispSet b c.words) = true →
      ∃ t, Machine.exec (.shLoad b) s = .next t ∧ Begun s t b 4 c rest ∧ t.mem = s.mem) ∧
    (HeadReady s b 4 0x21 c rest → s.allHalted (dispSet b c.words) = true → (s.bay b).clk.frameStart = true →
      ∃ t, Machine.exec (.shStart b) s = .next t ∧ Begun s t b 4 c rest ∧ t.mem = s.mem) ∧
    (HeadReady s b 4 0x22 c rest → ∃ t, Machine.exec (.shStop b) s = .next t ∧ Begun s t b 4 c rest ∧ t.mem = s.mem ∧
      (∀ l ∈ dispSet b c.words, (t.hand l).running = false) ∧ ∀ l, l ∉ dispSet b c.words → t.hand l = s.hand l)

/-- SE_AGEN, and SE_READ, SE_WRITE, SE_GATHER and SE_SCATTER once no earlier command of their queue holds any of their
tags, start when they stand ready at the head of queue q of the stream engine of an active bay whose clock runs; a
transfer command then has the number of addresses its memory slot produces still to move. SE_AGEN writes the part of
its slot that its words name and no other slot. Nothing but that bay changes. (spec/10_memory_wings_and_streams.md
Table 10.5; spec/10_memory_wings_and_streams.md Table 10.6; spec/10_memory_wings_and_streams.md Table 10.7) -/
def Obligations.StreamCommandStarts : Prop :=
  ∀ (s : State) (b : Fin 48) (q : Fin 4) (c : QCmd) (rest : List QCmd),
    (∀ (mk : Fin 48 → Fin 4 → Instr) (op : Nat), (mk, op) ∈ streamStarts → HeadReady s b (5 + q) op c rest →
      seReady b q c s = true → ∃ t, Machine.exec (mk b q) s = .next t ∧ Begun s t b (5 + q) c rest ∧ OnlyBay s t b ∧
        ∃ x ∈ (t.bay b).started, x.id = (s.bay b).nextId ∧ x.left = ((s.bay b).slot (16 + seAslot c.words)).total) ∧
    (HeadReady s b (5 + q) 0x40 c rest → ∃ t, Machine.exec (.seAgen b q) s = .next t ∧ Begun s t b (5 + q) c rest ∧
      OnlyBay s t b ∧
      ∀ k, (t.bay b).slot k = if k = 16 + fld (cword c.words 1) 31 28 then
        ((s.bay b).slot k).writePart (fld (cword c.words 1) 27 26)
          (fld (cword c.words 1) 15 0 * 2 ^ 32 + (cword c.words 2).toNat)
          [fld (cword c.words 3) 19 0, fld (cword c.words 5) 19 0]
          [signed 32 (cword c.words 4).toNat, signed 32 (cword c.words 6).toNat]
        else (s.bay b).slot k)

/-- A started STN_AGEN with bit 27 of word 1 clear gives its slot the base of word 1 and the counts and strides of levels
0 to 2, with the bit set those of levels 3 to 5; the slot's other half, every other slot, the tile buffers,
accumulators, ledger, flags and everything outside the bay are unchanged. (spec/03_station_instructions.md Table 3.5) -/
def Obligations.AgenWritesHalfASlot : Prop :=
  ∀ (s : State) (b : Fin 48) (q : Fin 4) (c : QCmd) (rest : List QCmd),
    HeadReady s b q 0x02 c rest → ∃ t, Machine.exec (.stnAgen b q) s = .next t ∧ OnlyBay s t b ∧
      (∀ k, (t.bay b).slot k = if k = fld (cword c.words 1) 31 28 then
        ((s.bay b).slot k).writeHalf (bit (cword c.words 1) 27) (fld (cword c.words 1) 23 0)
          [fld (cword c.words 2) 19 0, fld (cword c.words 4) 19 0, fld (cword c.words 6) 19 0]
          [(cword c.words 3).toInt, (cword c.words 5).toInt, (cword c.words 7).toInt]
        else (s.bay b).slot k) ∧
      (t.bay b).tiles = (s.bay b).tiles ∧ (t.bay b).acc = (s.bay b).acc ∧ (t.bay b).ledger = (s.bay b).ledger ∧
      (t.bay b).flags = (s.bay b).flags

/-- A ready SH_START, in frame cycle 0, sets, in each stagehand of its set, pc to ENTRY, s1 to the linear stagehand id, s2
to the bay-local index and s3 to ARG, and starts it; its other scalar registers, its vector and predicate registers
keep their values, those that results of an earlier program are still to be written to taking them first (R149, R134);
every other stagehand is as it was, and no byte of memory changes. (spec/05_stagehands.md Table 5.9;
spec/06_scratchpad_and_grid.md) -/
def Obligations.StartSetsStagehandRegisters : Prop :=
  ∀ (s : State) (b : Fin 48) (c : QCmd) (rest : List QCmd),
    HeadReady s b 4 0x21 c rest → s.allHalted (dispSet b c.words) = true → (s.bay b).clk.frameStart = true →
    ∃ t, Machine.exec (.shStart b) s = .next t ∧ t.mem = s.mem ∧
      (∀ l ∈ dispSet b c.words, (t.hand l).running = true ∧ (t.hand l).pc = fld (cword c.words 3) 9 0 ∧
        (t.hand l).getS 1 = BitVec.ofNat 32 l ∧ (t.hand l).getS 2 = BitVec.ofNat 32 (handLocal l) ∧
        (t.hand l).getS 3 = cword c.words 5 ∧
        (∀ r, r ≠ 1 → r ≠ 2 → r ≠ 3 → (t.hand l).getS r = (s.hand l).settle.getS r) ∧
        (∀ r, (t.hand l).getV r = (s.hand l).settle.getV r) ∧ (∀ r, (t.hand l).getP r = (s.hand l).settle.getP r)) ∧
      ∀ l, l ∉ dispSet b c.words → t.hand l = s.hand l

/-- With no reset in progress and its context not faulted, a command packet that has reached its node leaves the network.
When no issue check applies it becomes the last command of its queue (of a bay's station, dispatcher or stream engine
whose clock runs, or of a link engine) with its words; when a check applies, every queue stays as it was and a fault
packet with the check's reason is sent for its context. Its cue processor goes on as for a packet delivered; nothing
but that, the queue and, at a bay, the other queues' heads, which look at their flags, and the ramps of the packet's
arrays changes. (spec/03_station_instructions.md; spec/05_stagehands.md; spec/09_prompt_books_and_call_sheets.md Table
9.10) -/
def Obligations.CommandPacketEntersItsQueue : Prop :=
  ∀ (s : State) (i cls bay index queue : Nat) (ws : List Word) (part ctx : Nat) (bookoff : Word) (cp : Nat),
    s.cueArrived[i]? = some (.command cls bay index queue ws part ctx bookoff cp) → cls ≤ 3 →
    (cls < 3 → (s.bay bay).clk.stopped = false) → s.resets = [] → (s.ctx part ctx).st ≠ 6 →
    ∃ t, Machine.exec (.commandArrival i) s = .next t ∧ t.cueArrived = listDrop s.cueArrived i ∧
      t.cps = (s.cpDelivered cp).cps ∧ t.ctxs = (s.cpDelivered cp).ctxs ∧
      (s.issueCheck cls bay index queue ws part ctx = none → cls < 3 →
        ((t.bay bay).queue (bayQueue cls queue)).map QCmd.words =
          ((s.bay bay).queue (bayQueue cls queue)).map QCmd.words ++ [ws] ∧
        { t.bay bay with queues := (s.bay bay).queues, ramps := (s.bay bay).ramps } = s.bay bay ∧
        (∀ k, k ≠ bay → t.bay k = s.bay k) ∧
        { t with cueArrived := s.cueArrived, cps := s.cps, ctxs := s.ctxs, bays := s.bays } = s) ∧
      (s.issueCheck cls bay index queue ws part ctx = none → cls = 3 →
        ((t.link part).queue (linkQueue index queue)).map QCmd.words =
          ((s.link part).queue (linkQueue index queue)).map QCmd.words ++ [ws] ∧
        { t with cueArrived := s.cueArrived, cps := s.cps, ctxs := s.ctxs, links := s.links } = s) ∧
      (∀ r, s.issueCheck cls bay index queue ws part ctx = some r →
        t.cuePkts = (s.sendCue (.fault r part ctx (classOf cls (cmdHead (cword ws 0)).opcode)
          (if cls = 3 then 0xFF else bay) (indexOf cls bay index) bookoff s.clock.house 0 [])).cuePkts ∧
        { t with cueArrived := s.cueArrived, cps := s.cps, ctxs := s.ctxs, cuePkts := s.cuePkts } = s)

/-- With no reset in progress and its context not faulted, a started command whose work is done and whose completion cycle
has come, in a bay whose clock runs, is no longer among the started commands; its scoreboard entries are freed with
the next cycle (R167); if it names a SET flag and did not fault, a set of that flag of its partition enters the bay's
crossing to the curtain network, otherwise nothing does; a completed STN_TLOAD leaves the tile buffers of its arrays
loaded. Nothing else but the bay's tiles changes. (spec/03_station_instructions.md Table 3.18;
spec/06_scratchpad_and_grid.md) -/
def Obligations.CompletionFreesAndSetsItsFlag : Prop :=
  ∀ (s : State) (b : Fin 48) (id : Nat) (c : Started),
    (s.bay b).started.find? (fun x => decide (x.id = id)) = some c → s.completes b c = true →
    (s.bay b).clk.stopped = false → s.resets = [] → (s.ctx c.part c.ctx).st ≠ 6 →
    ∃ t, Machine.exec (.commandCompletion b id) s = .next t ∧
      (t.bay b).started = (s.bay b).started.filter (fun x => decide (x.id ≠ id)) ∧
      (c.queue, c.words, (s.bay b).clk.cyc) ∈ (t.bay b).freeing ∧
      { t.bay b with started := (s.bay b).started, freeing := (s.bay b).freeing, tiles := (s.bay b).tiles } = s.bay b ∧
      (∀ k, k ≠ b.val → t.bay k = s.bay k) ∧
      t.crt = { s.crt with waiting := if c.head.set = true ∧ c.noFlag = false then
        s.crt.waiting ++ [{ ev := .flagSet c.part c.head.setFlag, node := b, time := s.clock.house, cp := none }]
        else s.crt.waiting } ∧
      { t with bays := s.bays, crt := s.crt } = s ∧
      (c.queue < 4 → c.op = 0x03 → c.noFlag = false → ∀ a ∈ arraysOf c.head.arrays, ∀ f ∈ tloadBuffers (cword c.words 3),
        ((t.bay b).tile a f).loaded = true)

/-- With the die on: STN_LINKCFG takes the written link fields when every field is one that R69 accepts at that station
and no station command runs, and otherwise keeps its value while CFG_REJECT is set; STN_RAMPCFG takes RAMP 0 to 2 and
rejects 3 in the same way; CLEAR sets the busy, stall and tap counters to 0 and keeps FREEZE; FREEZE is the value
written. Each changes no other register and no other bay, but that the access wakes a bay whose clock is stopped
(R336). (spec/02_the_revolve.md Table 2.10; spec/02_the_revolve.md Table 2.2; spec/11_clocks_and_crossings.md) -/
def Obligations.StationRegisterWrites : Prop :=
  ∀ (s : State) (b : Fin 48) (v : Word), s.on →
    (∃ t, Machine.exec (.stnLinkcfgWrite b v) s = .next t ∧ BayAccess s t b [aBay b 0x0004, aBay b 0x000C] ∧
      (t.bay b).tapCount = (s.bay b).tapCount ∧
      (linkcfgOk (stationOfBay b) v = true → (s.bay b).running = false →
        t.reg (aBay b 0x0004) = v &&& 0xFF03 ∧ t.reg (aBay b 0x000C) = s.reg (aBay b 0x000C)) ∧
      ((linkcfgOk (stationOfBay b) v = false ∨ (s.bay b).running = true) →
        t.reg (aBay b 0x0004) = s.reg (aBay b 0x0004) ∧ t.reg (aBay b 0x000C) = s.reg (aBay b 0x000C) ||| 1)) ∧
    (∃ t, Machine.exec (.stnRampcfgWrite b v) s = .next t ∧ BayAccess s t b [aBay b 0x0008, aBay b 0x000C] ∧
      (t.bay b).tapCount = (s.bay b).tapCount ∧
      (fld v 1 0 ≠ 3 → t.reg (aBay b 0x0008) = v &&& 3 ∧ t.reg (aBay b 0x000C) = s.reg (aBay b 0x000C)) ∧
      (fld v 1 0 = 3 → t.reg (aBay b 0x0008) = s.reg (aBay b 0x0008) ∧ t.reg (aBay b 0x000C) = s.reg (aBay b 0x000C) ||| 1)) ∧
    (∃ t, Machine.exec (.stnCntctlClear b) s = .next t ∧
      BayAccess s t b [aBay b 0x0020, aBay b 0x0024, aBay b 0x0028, aBay b 0x002C] ∧ (t.bay b).tapCount = 0 ∧
      ∀ off ∈ [0x0020, 0x0024, 0x0028, 0x002C], t.reg (aBay b off) = 0) ∧
    (∀ on : Bool, ∃ t, Machine.exec (.stnCntctlFreeze b on) s = .next t ∧ BayAccess s t b [aBay b 0x0034] ∧
      (t.bay b).tapCount = (s.bay b).tapCount ∧ t.reg (aBay b 0x0034) = if on then 1 else 0)

/-- RAMP_STEP: a ramp, other than one that has climbed to step 8, whose step has lasted its cycles takes the next step: a
rising one goes up by one, a falling one above step 1 goes down by one, and one at step 1 ends ramped down (while its
command still has rows left it stays, the model's reading, log entry 52); the new step begins in the present cycle.
RAMP_DOWN_START: a rising ramp of an array for which no further STN_MMA or STN_CARRY has been released and whose
commands in progress have at most the rows of the ramp left falls from the step reached, from the present cycle on.
Nothing but that ramp changes. (spec/03_station_instructions.md Table 3.16) -/
def Obligations.RampTakesItsSteps : Prop :=
  ∀ (s : State) (arr : Fin 96),
    let b := bayOfStation (arr / 2)
    let a := arr.val % 2
    let y := s.bay b
    let r := y.ramp a
    (r.step ≠ 0 → r.since + rampStepCycles r.code ≤ y.clk.cyc → ¬ (r.rising = true ∧ r.step = 8) →
      Machine.exec (.rampStep arr) s = .next (s.setBay b (y.setRamp a
        (if r.rising = true then { r with step := r.step + 1, since := y.clk.cyc }
         else if r.step ≠ 1 then { r with step := r.step - 1, since := y.clk.cyc }
         else if (y.inProgress a).isEmpty = true then { Ramp.down with acc := r.acc } else r)))) ∧
    (r.step ≠ 0 → r.rising = true → y.released a = false →
      (∀ c ∈ y.inProgress a, c.left ≤ rampRows r.code) →
      Machine.exec (.rampDownStart arr) s = .next (s.setBay b (y.setRamp a { r with rising := false, since := y.clk.cyc })))

/-- At a station of a bay whose clock runs that does not take part (fused, or left unused by the loader), with room on the
output, a clean pass row or carry beat at the front of the selected input, the tap register empty, leaves that queue
and goes onto the output, to the next station's queue or the splice's record, unchanged: REMAIN is not decremented.
One that waited in the tap register does the same, and the register is empty. No accumulator, started command or
memory byte changes (R60). (spec/02_the_revolve.md Table 2.5) -/
def Obligations.PassThroughForwardsUnchanged : Prop :=
  ∀ (s : State) (st : Fin 48) (d : Dir) (r : Beat) (mk : Fin 48 → Dir → Ecc → Instr),
    s.participating (bayOfStation st) = false → s.room st d 1 = true →
    (r.kind = 0 ∧ mk = .passRowArrival ∨ r.kind = 1 ∧ mk = .carryBeatArrival) →
    (∀ rest, Fronts s st d r rest →
      ∃ t, Machine.exec (mk st d .clean) s = .next t ∧ GoneOn s t st d r ∧ LeftQueue s t st d rest ∧
        t.bays = s.bays ∧ t.mem = s.mem) ∧
    ((s.bay (bayOfStation st)).clk.stopped = false → (s.bay (bayOfStation st)).tap d = some r →
      ∃ t, Machine.exec (mk st d .clean) s = .next t ∧ GoneOn s t st d r ∧
        t.revQ st d (s.inSel st d) = s.revQ st d (s.inSel st d) ∧ (t.bay (bayOfStation st)).tap d = none ∧
        (t.bay (bayOfStation st)).acc = (s.bay (bayOfStation st)).acc ∧
        (t.bay (bayOfStation st)).started = (s.bay (bayOfStation st)).started ∧
        (∀ k, k ≠ bayOfStation st → t.bay k = s.bay k) ∧ t.mem = s.mem)

/-- At a station that takes part, its clock running and both tap registers empty, a clean pass row that some started
STN_MMA matches, all arrays of which can accept it in the present cycle, with room on the output or REMAIN 1: each
array that exactly one matching command names is multiplied, by the tile buffer of the row's PHASE, into the
accumulator row the beat names (fresh sums with ZERO set, R83), an array that none names keeps its accumulators, other
accumulator rows stay, and memory is unchanged. The row leaves its queue; with REMAIN 1 it is retired, otherwise it
goes onto the output with REMAIN one less. (spec/02_the_revolve.md; spec/03_station_instructions.md;
spec/04_number_formats.md Table 4.5) -/
def Obligations.StationMultipliesTheRow : Prop :=
  ∀ (s : State) (st : Fin 48) (d : Dir) (r : Beat) (rest : List Beat),
    s.participating (bayOfStation st) = true → Fronts s st d r rest → (s.bay (bayOfStation st)).tap (otherDir d) = none →
    r.kind = 0 → (r.remain = 1 ∨ s.room st d 1 = true) →
    (s.bay (bayOfStation st)).started.filter (fun x => x.mmaMatches r d) ≠ [] →
    (∀ c ∈ (s.bay (bayOfStation st)).started, c.mmaMatches r d = true → ∀ a ∈ arraysOf c.head.arrays,
      (s.bay (bayOfStation st)).admits a = true) →
    ∃ t, Machine.exec (.passRowArrival st d .clean) s = .next t ∧ t.mem = s.mem ∧ LeftQueue s t st d rest ∧
      (r.remain ≠ 1 → GoneOn s t st d { r with remain := r.remain - 1 }) ∧
      ∀ a, a < 2 → ∀ bank, bank < 2 → ∀ row, row < 512 → ∀ n, n < 128 →
        (∀ c, (s.bay (bayOfStation st)).started.filter (fun x => x.mmaMatches r d && x.onArray a) = [c] →
          (t.bay (bayOfStation st)).accAt a bank row n =
            if bank = fld (cword c.words 3) 17 17 ∧ row = r.row.toNat then
              (((multiplyRow ((s.bay (bayOfStation st)).tile a r.phase.toNat)
                  (rowBlocks (fld (cword c.words 3) 16 13) r.data r.scales)
                  (fun k => if bit (cword c.words 3) 21 && !(decide (fld (cword c.words 3) 16 13 = 8) && r.phase) then a28NegZero
                    else (s.bay (bayOfStation st)).accAt a bank row k)).map Prod.fst).getD n 0)
            else (s.bay (bayOfStation st)).accAt a bank row n) ∧
        ((s.bay (bayOfStation st)).started.filter (fun x => x.mmaMatches r d && x.onArray a) = [] →
          (t.bay (bayOfStation st)).accAt a bank row n = (s.bay (bayOfStation st)).accAt a bank row n)

/-- CARRY_BEAT_ARRIVAL: at a station that takes part, its clock running and its tap register empty, a clean carry beat
that does not complete its row leaves the selected input and joins the beats gathered for its direction; accumulators,
started commands and memory stay (R53). ROW_INJECTION: when the station may inject (InjectReady: its clock runs, no
beat waits to be forwarded in that direction, the output has room, a feeder port and the banks are free, the row's
bytes can be read), the oldest command with a row for that direction sends its next beat: an STN_INJECT, not faulted,
has sent a beat more, and the beat is in the tap register or has been taken there; the origin of an STN_CARRY, both
arrays taking the row, has one row less to send. Memory is unchanged. (spec/02_the_revolve.md Table 2.5;
spec/03_station_instructions.md) -/
def Obligations.CarryBeatsGatherAndRowsAreSent : Prop :=
  (∀ (s : State) (st : Fin 48) (d : Dir) (r : Beat) (rest : List Beat),
    s.participating (bayOfStation st) = true → Fronts s st d r rest → r.kind = 1 →
    (sameRow r ((s.bay (bayOfStation st)).carryIn d ++ [r])).map (fun x => x.beat.toNat) ≠ [0, 1, 2, 3] →
    ∃ t, Machine.exec (.carryBeatArrival st d .clean) s = .next t ∧ t.mem = s.mem ∧
      (t.bay (bayOfStation st)).carryIn d = (s.bay (bayOfStation st)).carryIn d ++ [r] ∧ LeftQueue s t st d rest ∧
      (t.bay (bayOfStation st)).acc = (s.bay (bayOfStation st)).acc ∧
      (t.bay (bayOfStation st)).started = (s.bay (bayOfStation st)).started) ∧
  (∀ (s : State) (st : Fin 48) (d : Dir) (c : Started),
    (InjectReady s st d c → ∃ t, Machine.exec (.rowInjection st d) s = .next t ∧ t.mem = s.mem ∧ t.cuePkts = s.cuePkts ∧
      (∃ x ∈ (t.bay (bayOfStation st)).started, x.key = c.key ∧ x.noFlag = c.noFlag ∧ c.done < x.done) ∧
      ((t.bay (bayOfStation st)).tap d = none ∨ ∃ r, (t.bay (bayOfStation st)).tap d = some r ∧ r.kind = 0 ∧
        r.remain = BitVec.ofNat 12 (s.loopCount c.part) ∧ r.ctx = BitVec.ofNat 4 c.ctx)) ∧
    (CarryReady s st d c → ∃ t, Machine.exec (.rowInjection st d) s = .next t ∧ t.mem = s.mem ∧ t.cuePkts = s.cuePkts ∧
      ∃ x ∈ (t.bay (bayOfStation st)).started, x.key = c.key ∧ x.noFlag = c.noFlag ∧ x.done = c.done + 1 ∧ x.left = c.left - 1))

/-- For ADD, SUB, AND, OR, XOR, SLL, SRL, SRA, SLT, SLTU, MUL, ADDI, ANDI, ORI, XORI, SLLI, SRLI, SRAI, SLTI, LUI, PGET,
RDFL and VEXTR: when stagehand l can issue the word, the command completes; from its latency on (1 cycle, MUL 3)
register D reads the result of Table 5.3 on the operands as they were at issue (s0 still reads 0 when D is 0), and
every other register and the sticky flags read as they would without the instruction; the program counter moves on (in
a loop, as R137 says), and nothing else of the machine changes. (spec/05_stagehands.md Table 5.3) -/
def Obligations.ScalarResultGoesToD : Prop :=
  ∀ (mk : Fin 6144 → Instr) (opc lat : Nat) (val : Stagehand → ShFields → Word), (mk, opc, lat, val) ∈ scalarRows →
    ∀ (s : State) (l : Fin 6144) (f : ShFields), Issues s l opc f →
      ∃ t, Machine.exec (mk l) s = .next t ∧ OnlyHand s t l ∧ MovedOn s t l ∧
        PutsS (s.handAt l (s.issueAt l + lat)) (t.handAt l (s.issueAt l + lat)) f.d (val (s.issuer l) f)

/-- When stagehand l can issue the word: a conditional branch whose condition on its two registers holds sets pc to pc +
OFF and takes two cycles, otherwise pc moves on; JAL writes pc + 1 to D (2 cycles on) and jumps to pc + IMM; JR writes
pc + 1 to D and jumps to sA + IMM, sA as it was at issue; LOOP with a count of 0 skips its body, with another count
starts the loop over the next IMM instructions; HALT halts the stagehand with its loop ended. The branches, LOOP and
HALT change nothing else of the stagehand, JAL and JR no other register; none changes anything else of the machine.
(spec/05_stagehands.md Table 5.2; spec/05_stagehands.md Table 5.3) -/
def Obligations.BranchesAndJumps : Prop :=
  (∀ (mk : Fin 6144 → Instr) (opc : Nat) (cond : Word → Word → Bool), (mk, opc, cond) ∈ branchRows →
    ∀ (s : State) (l : Fin 6144) (f : ShFields), Issues s l opc f →
      ∃ t, Machine.exec (mk l) s = .next t ∧ OnlyHand s t l ∧
        t.hand l = (if cond ((s.issuer l).getS f.d) ((s.issuer l).getS f.a) then
          { s.issuer l with pc := pcPlus (s.issuer l).pc f.imm, issue := s.issueAt l + 2 } else (s.issuing l).nextPc)) ∧
  (∀ (s : State) (l : Fin 6144) (f : ShFields),
    (∀ (mk : Fin 6144 → Instr) (opc target : Nat),
      (mk, opc, target) ∈ [(Instr.jal, 0x26, pcPlus (s.issuer l).pc f.imm19),
        (Instr.jr, 0x27, pcPlus ((s.issuer l).getS f.a).toNat f.imm)] →
      Issues s l opc f → ∃ t, Machine.exec (mk l) s = .next t ∧ OnlyHand s t l ∧ (t.hand l).pc = target ∧
        (t.hand l).loop = (s.hand l).loop ∧ (t.hand l).issue = s.issueAt l + 2 ∧ sameRun (s.hand l) (t.hand l) ∧
        PutsS (s.handAt l (s.issueAt l + 2)) (t.handAt l (s.issueAt l + 2)) f.d (BitVec.ofNat 32 ((s.issuer l).pc + 1))) ∧
    (Issues s l 0x28 f → ∃ t, Machine.exec (.loop l) s = .next t ∧ OnlyHand s t l ∧
      t.hand l = (if (s.issuer l).getS f.a = 0 then { s.issuing l with pc := (s.issuer l).pc + f.imm.toNat + 1 }
        else { s.issuing l with
          pc := (s.issuer l).pc + 1
          loop := some { first := (s.issuer l).pc + 1, last := (s.issuer l).pc + f.imm.toNat, left := ((s.issuer l).getS f.a).toNat } })) ∧
    (Issues s l 0x2F f → ∃ t, Machine.exec (.halt l) s = .next t ∧ OnlyHand s t l ∧
      t.hand l = { s.issuing l with running := false, loop := none }))

/-- A NOP changes no register, no flag and nothing else but the program counter and the loop in progress: without a loop,
or before its last instruction, pc goes up by one; at the last instruction of a loop with more than one pass left, pc
goes to the loop's first instruction with one pass less; with one pass left the loop ends and pc goes up by one
(R137). CLRFL moves on in the same way and clears, one cycle on, each sticky flag whose bit of sA is 1.
(spec/05_stagehands.md) -/
def Obligations.NopMovesOnAndLoopsRepeat : Prop :=
  ∀ (s : State) (l : Fin 6144) (f : ShFields),
    (Issues s l 0x7B f → ∃ t, Machine.exec (.nop l) s = .next t ∧ OnlyHand s t l ∧ MovedOn s t l ∧
      PutsNothing (s.handAt l (s.issueAt l + 1)) (t.handAt l (s.issueAt l + 1)) ∧
      ((s.hand l).loop = none → (t.hand l).pc = (s.hand l).pc + 1 ∧ (t.hand l).loop = none) ∧
      (∀ k, (s.hand l).loop = some k → (s.hand l).pc ≠ k.last → (t.hand l).pc = (s.hand l).pc + 1 ∧ (t.hand l).loop = some k) ∧
      (∀ k, (s.hand l).loop = some k → (s.hand l).pc = k.last → 1 < k.left →
        (t.hand l).pc = k.first ∧ (t.hand l).loop = some { k with left := k.left - 1 }) ∧
      (∀ k, (s.hand l).loop = some k → (s.hand l).pc = k.last → k.left ≤ 1 →
        (t.hand l).pc = (s.hand l).pc + 1 ∧ (t.hand l).loop = none)) ∧
    (Issues s l 0x71 f → ∃ t, Machine.exec (.clrfl l) s = .next t ∧ OnlyHand s t l ∧ MovedOn s t l ∧
      sameScalars (s.handAt l (s.issueAt l + 1)) (t.handAt l (s.issueAt l + 1)) ∧
      sameVectors (s.handAt l (s.issueAt l + 1)) (t.handAt l (s.issueAt l + 1)) ∧
      samePredicates (s.handAt l (s.issueAt l + 1)) (t.handAt l (s.issueAt l + 1)) ∧
      ∀ i, i < 5 → (t.handAt l (s.issueAt l + 1)).flags.getLsbD i =
        ((s.handAt l (s.issueAt l + 1)).flags.getLsbD i && !((s.issuer l).getS f.a).getLsbD i))

/-- For LB, LBU, LH, LHU and LW, and for VLD and VLDH: when stagehand l can issue the word, and the bytes at its register
A plus IMM (times the size unit of the vector forms) lie in the scratchpad quota, are aligned and hold no bit error,
the command completes; from the latency of Table 5.4 on (with no wait for a bank, which puts it off) register D reads
their little-endian value, sign- or zero-extended (VLDH leaves the upper half zero), and every other register and the
sticky flags read as they would without it; pc moves on and nothing else of the machine changes.
(spec/05_stagehands.md Table 5.3; spec/05_stagehands.md Table 5.4; spec/06_scratchpad_and_grid.md) -/
def Obligations.LoadsReadTheScratchpad : Prop :=
  (∀ (mk : Fin 6144 → Instr) (opc n : Nat) (sgn : Bool), (mk, opc, n, sgn) ∈ loadRows →
    ∀ (s : State) (l : Fin 6144) (f : ShFields), Issues s l opc f → Accessible s l (s.shOff l f 1) n →
      ∃ t, Machine.exec (mk l) s = .next t ∧ OnlyHand s t l ∧ MovedOn s t l ∧
        PutsS (s.handAt l (s.issueAt l + shMemLatency opc l [s.shOff l f 1]))
          (t.handAt l (s.issueAt l + shMemLatency opc l [s.shOff l f 1])) f.d
          (if sgn then BitVec.ofInt 32 (signed (8 * n) (leNat (s.bytes (spAddr (handBay l) (s.shOff l f 1)) n)))
           else BitVec.ofNat 32 (leNat (s.bytes (spAddr (handBay l) (s.shOff l f 1)) n)))) ∧
  (∀ (mk : Fin 6144 → Instr) (opc n : Nat), (mk, opc, n) ∈ [(Instr.vld, 0x38, 64), (Instr.vldh, 0x3A, 32)] →
    ∀ (s : State) (l : Fin 6144) (f : ShFields), Issues s l opc f → Accessible s l (s.shOff l f n) n →
      ∃ t, Machine.exec (mk l) s = .next t ∧ OnlyHand s t l ∧ MovedOn s t l ∧
        PutsV (s.handAt l (s.issueAt l + shMemLatency opc l [s.shOff l f n]))
          (t.handAt l (s.issueAt l + shMemLatency opc l [s.shOff l f n])) f.d
          (BitVec.ofNat 512 (leNat (s.bytes (spAddr (handBay l) (s.shOff l f n)) n))) 0)

/-- For SB, SH, SW, VST and VSTH: when stagehand l can issue the word and the bytes stored to lie in the scratchpad quota,
aligned and in words without bit errors, the command completes: the bytes at register A plus IMM times the size unit
read as the low bytes of register D, little-endian, every other byte of the data space reads as before and no word
gains a bit error, no register of the stagehand and no flag changes but pc, which moves on, and nothing else of the
machine changes (corrections waiting to be written back to the row stored to are dropped). (spec/05_stagehands.md
Table 5.3; spec/06_scratchpad_and_grid.md) -/
def Obligations.StoresWriteTheirBytesOnly : Prop :=
  ∀ (mk : Fin 6144 → Instr) (opc n unit : Nat) (val : Stagehand → ShFields → List Byte), (mk, opc, n, unit, val) ∈ storeRows →
    ∀ (s : State) (l : Fin 6144) (f : ShFields), Issues s l opc f → Accessible s l (s.shOff l f unit) n →
      ∃ t, Machine.exec (mk l) s = .next t ∧ OnlyStore s t l ∧ MovedOn s t l ∧
        (∀ i, i < n → t.byte (spAddr (handBay l) (s.shOff l f unit) + i) = (val (s.issuer l) f).getD i 0) ∧
        (∀ a, (a < spAddr (handBay l) (s.shOff l f unit) ∨ spAddr (handBay l) (s.shOff l f unit) + n ≤ a) → t.byte a = s.byte a) ∧
        (∀ w, sget 0 t.memErr w = sget 0 s.memErr w) ∧ PutsNothing (s.issuer l) (t.hand l)

/-- When stagehand l can issue the word and the word of each lane, at sB + 4 × INT32 lane i of vA, lies aligned in the
scratchpad quota and holds no bit error, both commands complete. VGATHER: from the latency of Table 5.4 on (with no
wait for a bank) INT32 lane i of vD reads the word of lane i, every other register and the flags read as without it,
and nothing else changes but pc. VSCATTER: the word of lane i reads as INT32 lane i of vD unless a higher lane names
the same word (R139), every other byte reads as before, and no register or flag changes but pc. (spec/05_stagehands.md
Table 5.3; spec/05_stagehands.md Table 5.4) -/
def Obligations.LanesGatherAndScatter : Prop :=
  ∀ (s : State) (l : Fin 6144) (f : ShFields),
    (∀ o ∈ laneOffsets (s.issuer l) f, Accessible s l o 4) →
    (Issues s l 0x3C f → ∃ t, Machine.exec (.vgather l) s = .next t ∧ OnlyHand s t l ∧ MovedOn s t l ∧
      PutsV (s.handAt l (s.issueAt l + shMemLatency 0x3C l (laneOffsets (s.issuer l) f)))
        (t.handAt l (s.issueAt l + shMemLatency 0x3C l (laneOffsets (s.issuer l) f))) f.d
        (vec32 ((laneOffsets (s.issuer l) f).map (fun o => BitVec.ofNat 32 (leNat (s.bytes (spAddr (handBay l) o) 4))))) 0) ∧
    (Issues s l 0x3D f → ∃ t, Machine.exec (.vscatter l) s = .next t ∧ OnlyStore s t l ∧ MovedOn s t l ∧
      PutsNothing (s.issuer l) (t.hand l) ∧ (∀ w, sget 0 t.memErr w = sget 0 s.memErr w) ∧
      (∀ a, (∀ o ∈ laneOffsets (s.issuer l) f, a < spAddr (handBay l) o ∨ spAddr (handBay l) o + 4 ≤ a) → t.byte a = s.byte a) ∧
      ∀ i, i < 16 →
        (∀ j, i < j → j < 16 → (laneOffsets (s.issuer l) f).getD j 0 ≠ (laneOffsets (s.issuer l) f).getD i 0) →
        t.bytes (spAddr (handBay l) ((laneOffsets (s.issuer l) f).getD i 0)) 4 = toLE 4 (lane32 ((s.issuer l).getV f.d) i).toNat)

/-- For VADD, VSUB, VMUL, VFMA, VMAX, VMIN, VABS, VNEG, VEXP, VRCP and VRSQ: when stagehand l can issue the word, from its
latency on (4 cycles; VEXP, VRCP and VRSQ 12) lane i of vD is the operation's result on lane i of vA, vB and vD as at
issue where bit i of pP is 1 and keeps its value where it is 0, exactly the flags of the selected lanes are set in
addition to those set without it, every other register reads as without it, and nothing else changes but pc. VSEL (1
cycle) takes each lane from vA or vB by pP, VBCAST (1 cycle) puts sA[15:0] into the selected lanes, neither setting a
flag. (spec/05_stagehands.md Table 5.3; spec/05_stagehands.md Table 5.5; spec/05_stagehands.md Table 5.6;
spec/05_stagehands.md Table 5.7) -/
def Obligations.VectorLanesUnderPredicate : Prop :=
  (∀ (mk : Fin 6144 → Instr) (opc lat : Nat) (op : BitVec 16 → BitVec 16 → BitVec 16 → BitVec 16 × StickyFlags),
    (mk, opc, lat, op) ∈ laneRows → ∀ (s : State) (l : Fin 6144) (f : ShFields), Issues s l opc f →
      ∃ t, Machine.exec (mk l) s = .next t ∧ OnlyHand s t l ∧ MovedOn s t l ∧
        ∃ x g, PutsV (s.handAt l (s.issueAt l + lat)) (t.handAt l (s.issueAt l + lat)) f.d x g ∧
          (∀ i, i < 32 → lane16 x i =
            if ((s.issuer l).getP f.p).getLsbD i then
              (op (lane16 ((s.issuer l).getV f.a) i) (lane16 ((s.issuer l).getV f.b) i) (lane16 ((s.issuer l).getV f.d) i)).1
            else lane16 ((s.issuer l).getV f.d) i) ∧
          ∀ k, k < 5 → (g.getLsbD k = true ↔
            ∃ i, i < 32 ∧ ((s.issuer l).getP f.p).getLsbD i = true ∧
              (op (lane16 ((s.issuer l).getV f.a) i) (lane16 ((s.issuer l).getV f.b) i) (lane16 ((s.issuer l).getV f.d) i)).2.getLsbD k = true)) ∧
  (∀ (s : State) (l : Fin 6144) (f : ShFields),
    (Issues s l 0x4F f → ∃ t, Machine.exec (.vsel l) s = .next t ∧ OnlyHand s t l ∧ MovedOn s t l ∧
      ∃ x, PutsV (s.handAt l (s.issueAt l + 1)) (t.handAt l (s.issueAt l + 1)) f.d x 0 ∧
        ∀ i, i < 32 → lane16 x i =
          if ((s.issuer l).getP f.p).getLsbD i then lane16 ((s.issuer l).getV f.a) i else lane16 ((s.issuer l).getV f.b) i) ∧
    (Issues s l 0x52 f → ∃ t, Machine.exec (.vbcast l) s = .next t ∧ OnlyHand s t l ∧ MovedOn s t l ∧
      ∃ x, PutsV (s.handAt l (s.issueAt l + 1)) (t.handAt l (s.issueAt l + 1)) f.d x 0 ∧
        ∀ i, i < 32 → lane16 x i =
          if ((s.issuer l).getP f.p).getLsbD i then ((s.issuer l).getS f.a).setWidth 16 else lane16 ((s.issuer l).getV f.d) i))

/-- For VIADD, VISUB, VIMUL, VISHL and VIOTA, when stagehand l can issue the word, INT32 lane i of vD is, 2 cycles on, the
result of Table 5.3 where bit 2i of pP is 1 and keeps its value where it is 0. For PAND, POR, PNOT and PSET (1 cycle),
VCMPLT, VCMPLE and VCMPEQ (2 cycles), bit i of pD is the result of Table 5.3 (of Table 5.6 for a comparison under pP),
while p0 keeps reading all ones. Every other register and the flags read as without the instruction; nothing else
changes but pc. (spec/05_stagehands.md Table 5.3) -/
def Obligations.IntegerLanesAndPredicates : Prop :=
  (∀ (mk : Fin 6144 → Instr) (opc : Nat) (val : Stagehand → ShFields → Nat → Word), (mk, opc, val) ∈ intLaneRows →
    ∀ (s : State) (l : Fin 6144) (f : ShFields), Issues s l opc f →
      ∃ t, Machine.exec (mk l) s = .next t ∧ OnlyHand s t l ∧ MovedOn s t l ∧
        ∃ x, PutsV (s.handAt l (s.issueAt l + 2)) (t.handAt l (s.issueAt l + 2)) f.d x 0 ∧
          ∀ i, i < 16 → lane32 x i =
            if ((s.issuer l).getP f.p).getLsbD (2 * i) then val (s.issuer l) f i else lane32 ((s.issuer l).getV f.d) i) ∧
  (∀ (mk : Fin 6144 → Instr) (opc lat : Nat) (val : Stagehand → ShFields → Nat → Bool), (mk, opc, lat, val) ∈ predicateRows →
    ∀ (s : State) (l : Fin 6144) (f : ShFields), Issues s l opc f →
      ∃ t, Machine.exec (mk l) s = .next t ∧ OnlyHand s t l ∧ MovedOn s t l ∧
        (∀ i, i < 32 → ((t.handAt l (s.issueAt l + lat)).getP f.d).getLsbD i = (if f.d = 0 then true else val (s.issuer l) f i)) ∧
        (∀ r, r ≠ f.d → (t.handAt l (s.issueAt l + lat)).getP r = (s.handAt l (s.issueAt l + lat)).getP r) ∧
        sameScalars (s.handAt l (s.issueAt l + lat)) (t.handAt l (s.issueAt l + lat)) ∧
        sameVectors (s.handAt l (s.issueAt l + lat)) (t.handAt l (s.issueAt l + lat)) ∧
        (t.handAt l (s.issueAt l + lat)).flags = (s.handAt l (s.issueAt l + lat)).flags)

/-- When stagehand l can issue the word: VRSUM (6 cycles) puts into sD the exact sum of the lanes under pP and sB[15:0],
rounded once to BF16, and VRMAX (4) their maximum, each adding the flags it raised; VUNPK (4), its bucket scale not
0xFF for G16, narrows each stored element under its scale to a BF16 lane; VPACK (4) to G16 under a scale other than
0xFF, to E4M3 or E5M2 without a scale narrows each lane, and to an MX format narrows the block and puts its scale into
sB; VCVTI (4) of FMT 0 and 1 converts lanes 0 to 15 and 16 to 31 to INT32, of FMT 2 and 3 the INT32 lanes into them,
the other BF16 lanes kept; VRAND (8) puts word 0 of the generator at the index of lane i into INT32 lane i. Nothing
but this stagehand changes and pc moves on. (spec/05_stagehands.md Table 5.3; spec/05_stagehands.md Table 5.6;
spec/05_stagehands.md Table 5.8; spec/04_number_formats.md Table 4.9; spec/04_number_formats.md Table 4.4) -/
def Obligations.ReductionsAndConversions : Prop :=
  ∀ (s : State) (l : Fin 6144) (f : ShFields),
    let h := s.issuer l
    let k := s.issueAt l
    let lanes := (List.range 32).map (fun i => bf16 (lane16 (h.getV f.a) i))
    let sum := sumNum (maskedLanes h f ++ [bf16 ((h.getS f.b).setWidth 16)])
    let top := toBf16 ((maskedLanes h f).foldl maxNum (bf16 ((h.getS f.b).setWidth 16)))
    (∀ (mk : Fin 6144 → Instr) (opc lat : Nat) (w : BitVec 16) (g : StickyFlags),
      (mk, opc, lat, w, g) ∈ [(Instr.vrsum, 0x50, 6, (toBf16 sum.1).1, sum.2 ||| (toBf16 sum.1).2), (Instr.vrmax, 0x51, 4, top.1, top.2)] →
      Issues s l opc f → ∃ t, Machine.exec (mk l) s = .next t ∧ OnlyHand s t l ∧ MovedOn s t l ∧
        (t.handAt l (k + lat)).getS f.d = (if f.d = 0 then 0 else w.setWidth 32) ∧
        (t.handAt l (k + lat)).flags = (s.handAt l (k + lat)).flags ||| g ∧
        (∀ r, r ≠ f.d → (t.handAt l (k + lat)).getS r = (s.handAt l (k + lat)).getS r) ∧
        sameVectors (s.handAt l (k + lat)) (t.handAt l (k + lat)) ∧ samePredicates (s.handAt l (k + lat)) (t.handAt l (k + lat))) ∧
    (Issues s l 0x68 f → ¬ (f.fmt = 9 ∧ (h.getS f.b).toNat % 256 = 255) →
      ∃ t, Machine.exec (.vunpk l) s = .next t ∧ OnlyHand s t l ∧ MovedOn s t l ∧
        ∃ x g, PutsV (s.handAt l (k + 4)) (t.handAt l (k + 4)) f.d x g ∧
          ∀ i, i < 32 → lane16 x i = BitVec.ofNat 16 (fmtBF16.narrow false (s.shRnd l f.rnd i)
            (storedValue f.fmt ((h.getS f.b).setWidth 8) (storedElem f.fmt (h.getV f.a) i))).1) ∧
    (Issues s l 0x69 f → ¬ (f.fmt = 9 ∧ (h.getS f.b).toNat % 256 = 255) →
      ∃ t, Machine.exec (.vpack l) s = .next t ∧ OnlyHand s t l ∧ MovedOn s t l ∧
        (∀ r, r ≠ f.d → (t.handAt l (k + 4)).getV r = (s.handAt l (k + 4)).getV r) ∧
        samePredicates (s.handAt l (k + 4)) (t.handAt l (k + 4)) ∧
        (f.fmt = 9 → sameScalars (s.handAt l (k + 4)) (t.handAt l (k + 4)) ∧
          ∀ i, i < 32 → storedElem 9 ((t.handAt l (k + 4)).getV f.d) i = (fmtG16.narrow false (s.shRnd l f.rnd i)
            ((bf16 (lane16 (h.getV f.a) i)).scale (127 - ((h.getS f.b).toNat % 256 : Nat)))).1) ∧
        (∀ g, f.fmt = 6 ∨ f.fmt = 7 → elemFmt f.fmt = some (.fp g) → sameScalars (s.handAt l (k + 4)) (t.handAt l (k + 4)) ∧
          ∀ i, i < 32 → storedElem f.fmt ((t.handAt l (k + 4)).getV f.d) i =
            (g.narrow false (s.shRnd l f.rnd i) (bf16 (lane16 (h.getV f.a) i))).1) ∧
        (∀ g, f.fmt ≠ 6 → f.fmt ≠ 7 → f.fmt ≠ 9 → elemFmt f.fmt = some g →
          (f.b ≠ 0 → (t.handAt l (k + 4)).getS f.b = (narrowBlock g (s.shRnd l f.rnd) lanes).1.setWidth 32) ∧
          (∀ r, r ≠ f.b → (t.handAt l (k + 4)).getS r = (s.handAt l (k + 4)).getS r) ∧
          (t.handAt l (k + 4)).getV f.d = packElems f.fmt (narrowBlock g (s.shRnd l f.rnd) lanes).2.1)) ∧
    (Issues s l 0x6A f → ∃ t, Machine.exec (.vcvti l) s = .next t ∧ OnlyHand s t l ∧ MovedOn s t l ∧
      ∃ x g, PutsV (s.handAt l (k + 4)) (t.handAt l (k + 4)) f.d x g ∧
        (f.fmt < 2 → ∀ i, i < 16 → lane32 x i =
          (toInt32 (s.shRnd l f.rnd i) (bf16 (lane16 (h.getV f.a) (16 * f.fmt + i)))).1) ∧
        (2 ≤ f.fmt → ∀ i, i < 32 → lane16 x i =
          if 16 * (f.fmt - 2) ≤ i ∧ i < 16 * (f.fmt - 2) + 16 then
            (ofInt32 (s.shRnd l f.rnd i) (lane32 (h.getV f.a) (i - 16 * (f.fmt - 2)))).1
          else lane16 (h.getV f.d) i)) ∧
    (Issues s l 0x6C f → ∃ t, Machine.exec (.vrand l) s = .next t ∧ OnlyHand s t l ∧ MovedOn s t l ∧
      ∃ x, PutsV (s.handAt l (k + 8)) (t.handAt l (k + 8)) f.d x 0 ∧
        ∀ i, i < 16 → lane32 x i =
          (crg (s.ctx (s.hand l).part (s.hand l).ctx).key (h.getS 29) (s.stepOf (s.hand l).part (s.hand l).ctx)
            (((h.getS 30).toNat + 2 ^ 32 * (h.getS 31).toNat + i) % 2 ^ 64)).1)

/-- When stagehand l can issue the word: WAITF whose flag is set at the stagehand's bay node moves on, and otherwise the
stagehand waits for that flag with its pc kept; SETF (every earlier store and RPUT completed, as its issue asks), with
room in the bay's crossing to the curtain network, moves on and sends a set of the flag of its partition from its bay;
CURT, in the same way, sends an arrival with payload 0 at the curtain and waits for its release (R151, R187). Nothing
else changes. (spec/05_stagehands.md; spec/06_scratchpad_and_grid.md) -/
def Obligations.FlagsAndCurtainsOfAStagehand : Prop :=
  ∀ (s : State) (l : Fin 6144) (f : ShFields),
    (Issues s l 0x78 f → ∃ t, Machine.exec (.waitf l) s = .next t ∧ OnlyHand s t l ∧
      (s.flagAt (handBay l) (s.hand l).part f.imm.toNat = true → t.hand l = (s.issuing l).nextPc) ∧
      (s.flagAt (handBay l) (s.hand l).part f.imm.toNat = false → t.hand l = { s.issuing l with wait := .flag f.imm.toNat })) ∧
    (Issues s l 0x79 f → s.crtFull (handBay l) = false → ∃ t, Machine.exec (.setf l) s = .next t ∧ t.hand l = (s.issuing l).nextPc ∧
      (∀ k, k ≠ l.val → t.hand k = s.hand k) ∧
      t.crt = { s.crt with waiting := s.crt.waiting ++
        [{ ev := .flagSet (s.hand l).part f.imm.toNat, node := handBay l, time := s.clock.house, cp := none }] } ∧
      { t with stagehands := s.stagehands, crt := s.crt } = s) ∧
    (Issues s l 0x7A f → s.crtFull (handBay l) = false → ∃ t, Machine.exec (.curt l) s = .next t ∧
      t.hand l = { s.issuing l with wait := .curtain f.imm.toNat } ∧ (∀ k, k ≠ l.val → t.hand k = s.hand k) ∧
      t.crt.waiting = s.crt.waiting ++ [{ ev := .arrive (s.hand l).part f.imm.toNat 0 (s.hand l).ctx 2 l, node := handBay l,
                                          time := s.clock.house, cp := none }] ∧
      { t.crt with waiting := s.crt.waiting, joined := s.crt.joined } = s.crt ∧
      { t with stagehands := s.stagehands, crt := s.crt } = s)

/-- When a running stagehand that waits for nothing is to issue a word whose opcode Table 5.3 does not list, or its pc is
above 1,023, then whatever stagehand command is given no control register and no byte of memory changes: every
stagehand of its context in its partition has halted and a fault packet with FLT_OPCODE, or FLT_RANGE, goes out for
the context. The same happens, with the check's reason, when nothing stalls a listed word, the command is the one of
its opcode, and a check of R136 applies. (spec/05_stagehands.md; spec/09_prompt_books_and_call_sheets.md Table 9.14) -/
def Obligations.UnlistedWordFaultsItsContext : Prop :=
  ∀ (mk : Fin 6144 → Instr) (opc : Nat), (mk, opc) ∈ stagehandRows → ∀ (s : State) (l : Fin 6144),
    (s.hand l).running = true → (s.hand l).wait = .none → s.issueAt l ≤ (s.bay (handBay l)).clk.cyc →
    (1023 < (s.issuer l).pc → ∃ t, Machine.exec (mk l) s = .next t ∧ HandFaults s t l fltRange) ∧
    ((s.issuer l).pc ≤ 1023 → shListed (s.issuer l).word.opc = false →
      ∃ t, Machine.exec (mk l) s = .next t ∧ HandFaults s t l fltOpcode) ∧
    (∀ r, (s.issuer l).pc ≤ 1023 → (s.issuer l).word.opc = opc → (s.issuer l).stalls (s.issuer l).word (s.issueAt l) = false →
      shCheck (s.issuer l) (s.issuer l).word = some r → ∃ t, Machine.exec (mk l) s = .next t ∧ HandFaults s t l r)

/-- When stagehand l can issue an RGET or RPUT, its address passes the checks, the present slot is the one the word names
and still free, and every crossing queue the flit and its reply need has room, exactly one flit enters the grid, with
the destination, kind, tag and data of Table 6.3, and uses the slot; an RPUT counts as one more unacknowledged write,
an RGET marks its register group as outstanding; pc moves on and nothing else changes. If only the reservation fails,
the stagehand waits for the same slot of the next frame. INJECTION_RETRY in that slot, of that frame or a later one,
does the same as the instruction. (spec/05_stagehands.md; spec/06_scratchpad_and_grid.md Table 6.3) -/
def Obligations.RgetAndRputSendOneFlit : Prop :=
  ∀ (s : State) (l : Fin 6144) (f : ShFields),
    (∀ (c : Instr) (opc : Nat), (c, opc) ∈ [(Instr.rget l, 0x3E), (.rput l, 0x3F)] → Issues s l opc f →
      (CanSend s l f → ∃ t, Machine.exec c s = .next t ∧ Sent s t l f) ∧
      (s.gridAddrBad l ((s.issuer l).getS f.a).toNat = none →
        s.slotOf (handBay l) = fld (sget 0 (s.hand l).istore (s.hand l).pc) 3 0 → s.slotFree l 0 = true →
        s.canStart (gridFlit (s.issuer l) l f ((s.issuer l).getS f.a).toNat) = false →
        ∃ t, Machine.exec c s = .next t ∧ OnlyHand s t l ∧
          t.hand l = { s.issuing l with wait := .slot (s.slotCount (handBay l) + 16) })) ∧
    (∀ opc again, opc = 0x3E ∨ opc = 0x3F → (s.hand l).wait = .slot again → again ≤ s.slotCount (handBay l) →
      s.slotOf (handBay l) = again % 16 → Issues (s.setHand l { s.hand l with wait := .none }) l opc f →
      CanSend (s.setHand l { s.hand l with wait := .none }) l f →
      ∃ t, Machine.exec (.injectionRetry l) s = .next t ∧
        t.flits = s.flits ++ [{ gridFlit (s.issuer l) l f ((s.issuer l).getS f.a).toNat with cycle := 2 * s.slotCount (handBay l) }] ∧
        { t with stagehands := s.stagehands, flits := s.flits, slotUsed := s.slotUsed } = s ∧
        t.slotUsed = sset 0 s.slotUsed (5 * l) (s.slotCount (handBay l) + 1) ∧ (∀ k, k ≠ l.val → t.hand k = s.hand k) ∧
        t.hand l = Stagehand.nextPc (if f.opc = 0x3F then { s.issuing l with wait := .none, putsOut := (s.hand l).putsOut + 1 }
          else { s.issuing l with wait := .none, getsOut := (s.hand l).getsOut ++ [f.d] }))

/-- A flit without an uncorrectable error (a corrected one is counted) whose cycle has come and that no other flit meets:
at its target router a flit for a slice leaves the grid, one for a memory wing goes to its controller; elsewhere it
moves to the next router of its route, in the same bay one cycle later, in another bay into the crossing queue behind
that border, whose occupancy register may rise. Write data that wait in their slice enter the grid in a slot of their
mask, or of the frame after a failed reservation. A router takes the flit that R179 chooses in an open and unused slot
of a port and puts it on its way in that slot. Nothing else of the machine changes. (spec/06_scratchpad_and_grid.md
Table 6.3; spec/06_scratchpad_and_grid.md Table 6.4) -/
def Obligations.FlitsMoveAlongTheirRoute : Prop :=
  (∀ (s : State) (i : Nat) (f : Flit) (ecc : Ecc), Crosses s i f → ecc = .clean ∨ ecc = .corrected →
    (f.at_ = f.target → f.kind ≠ 4 → Machine.exec (.flitHop i ecc) s = .next { s.noted f.at_ ecc with
      flits := listSet s.flits i { f with loc := .ejected, cycle := f.cycle + 1, held := some (f.at_, f.outPort f.at_, f.inp, f.cycle) } }) ∧
    (f.at_ = f.target → f.kind = 4 → Machine.exec (.flitHop i ecc) s = .next
      (State.wingData { s.noted f.at_ ecc with flits := listDrop s.flits i } f)) ∧
    (f.at_ ≠ f.target → s.routerDead (f.onward.at_) = false →
      handBay (f.onward.at_) = handBay f.at_ → Machine.exec (.flitHop i ecc) s = .next { s.noted f.at_ ecc with
        flits := listSet s.flits i { f.onward with cycle := f.cycle + 1 } }) ∧
    (f.at_ ≠ f.target → s.routerDead (f.onward.at_) = false →
      handBay (f.onward.at_) ≠ handBay f.at_ → ∃ t, Machine.exec (.flitHop i ecc) s = .next t ∧
        t.flits = listDrop s.flits i ++ [{ f.onward with cycle := 0, loc := .crossing f.onward.inp s.clock.house }] ∧
        { t with flits := s.flits, regs := (s.noted f.at_ ecc).regs } = { s.noted f.at_ ecc with flits := s.flits } ∧
        ∀ a, a ≠ aBay (handBay (f.onward.at_)) 0x2054 → t.reg a = (s.noted f.at_ ecc).reg a)) ∧
  (∀ (s : State) (i mask : Nat) (again : Option Nat) (f : Flit) (ecc : Ecc), s.flits[i]? = some f → f.loc = .source mask again →
    (s.bay (handBay f.at_)).clk.stopped = false → s.routerDead f.at_ = false → s.slotFree f.at_ 0 = true → s.canStart f = true →
    (∀ n, again = some n → n ≤ s.slotCount (handBay f.at_) ∧ s.slotOf (handBay f.at_) = n % 16) →
    (again = none → mask.testBit (s.slotOf (handBay f.at_)) = true) →
    Machine.exec (.flitHop i ecc) s = .next { s with
      flits := listDrop s.flits i ++ [{ f with loc := .router, cycle := 2 * s.slotCount (handBay f.at_), inp := 0, held := none }]
      slotUsed := sset 0 s.slotUsed (5 * f.at_) (s.slotCount (handBay f.at_) + 1) }) ∧
  (∀ (s : State) (r : Fin 6144) (p : Fin 5) (i : Nat) (f : Flit), p.val ≠ 0 → Takes s r p →
    s.crossPick r p = some i → s.flits[i]? = some f → f.poison = false →
    ∃ t, Machine.exec (.crossingSlotTake r p) s = .next t ∧ { t with flits := s.flits, slotUsed := s.slotUsed } = s ∧
      t.slotUsed = sset 0 s.slotUsed (5 * f.at_ + p) (s.slotCount (handBay f.at_) + 1) ∧
      t.flits = listDrop s.flits i ++ [{ f with loc := .router, cycle := 2 * s.slotCount (handBay f.at_), inp := p, held := none }])

/-- A read request that has left the grid reads the 256 bytes of its slice (no bit error in them) and its data reply
starts 4 cycles after the header; a stagehand's write puts its bytes, at most 256, into the slice (no bit error there)
and its acknowledgement starts 3 cycles after the first beat; a stream block is written likewise and counts towards
its transfer; every other byte of memory stays. An acknowledgement takes one write of its stagehand off the
unacknowledged ones. Read data of an RGET still outstanding go into the four registers its tag names, and the group is
no longer outstanding; those of an RGET that a stop or a switch discarded are dropped. Nothing else of the machine
changes but the record of the banks used. (spec/06_scratchpad_and_grid.md; spec/05_stagehands.md Table 5.3) -/
def Obligations.GridArrivals : Prop :=
  ∀ (s : State) (i : Nat) (f : Flit), AtTarget s i f →
    (f.kind = 1 → cleanAt s (spAddr (handBay f.target) f.bayOff) 256 →
      ∃ t, Machine.exec (.readRequestArrival i) s = .next t ∧ GridWork s t (handBay f.target) ∧ t.mem = s.mem ∧
        (t.bay (handBay f.target)).transfers = (s.bay (handBay f.target)).transfers ∧
        t.flits = listDrop s.flits i ++ [f.reply (f.cycle + 4) (s.bytes (spAddr (handBay f.target) f.bayOff) 256)]) ∧
    (f.kind = 0 ∨ (f.kind = 2 ∧ 6144 ≤ f.src) → f.data.length ≤ 256 → cleanAt s (spAddr (handBay f.target) f.bayOff) f.data.length →
      ∃ t, Machine.exec (.sliceWriteArrival i) s = .next t ∧ GridWork s t (handBay f.target) ∧
        (∀ k, k < f.data.length → t.byte (spAddr (handBay f.target) f.bayOff + k) = f.data.getD k 0) ∧
        (∀ a, (a < spAddr (handBay f.target) f.bayOff ∨ spAddr (handBay f.target) f.bayOff + f.data.length ≤ a) →
          t.byte a = s.byte a) ∧
        t.flits = (if f.kind = 0 then listSet s.flits i (f.reply (f.cycle + 3) []) else listDrop s.flits i) ∧
        (t.bay (handBay f.target)).transfers = (s.bay (handBay f.target)).transfers.map
          (fun x => if f.kind = 2 ∧ x.tag = f.tag ∧ x.write = false then { x with arrived := x.arrived + 1 } else x)) ∧
    (f.kind = 3 → ∃ t, Machine.exec (.writeAckArrival i) s = .next t ∧ { t with stagehands := s.stagehands, flits := s.flits } = s ∧
      t.flits = listDrop s.flits i ∧ t.hand f.target = { s.hand f.target with putsOut := (s.hand f.target).putsOut - 1 } ∧
      ∀ k, k ≠ f.target → t.hand k = s.hand k) ∧
    (f.kind = 2 → f.src < 6144 →
      ((s.hand f.target).getsOut.contains f.tag = true → f.void = false → f.ctx = (s.hand f.target).ctx →
        ∃ t, Machine.exec (.rgetDataArrival i) s = .next t ∧ { t with stagehands := s.stagehands, flits := s.flits } = s ∧
          t.flits = listDrop s.flits i ∧ (∀ k, k ≠ f.target → t.hand k = s.hand k) ∧
          (∀ k, k < 4 → (t.hand f.target).getV (f.tag + k) = vecBytes ((f.data.drop (64 * k)).take 64)) ∧
          (∀ r, (r < f.tag ∨ f.tag + 4 ≤ r) → (t.hand f.target).getV r = (s.hand f.target).getV r) ∧
          { t.hand f.target with v := (s.hand f.target).v } =
            { s.hand f.target with getsOut := (s.hand f.target).getsOut.erase f.tag }) ∧
      ((s.hand f.target).getsOut.contains f.tag = false ∨ f.void = true ∨ f.ctx ≠ (s.hand f.target).ctx →
        Machine.exec (.rgetDataArrival i) s = .next { s with flits := listDrop s.flits i }))

/-- In an active bay whose clock runs, an idle visit of a bank that nothing else uses in the cycle, and the forced visit
of a period not yet forced when no access of orders 1 to 4 needs the bank, read the row the walker stands at: every
word of it with a single-bit error is among the bay's corrections waiting to be written back, the walker notes the
time and goes to the next row, after row 1023 to row 0 with one more pass; beside that only logs and counts of errors
change. The scrub timer wakes a bay with a pass begun 80 ms ago or earlier, and changes nothing else. A write-back, in
a cycle in which nothing else uses its bank, writes the oldest corrected word: its single-bit error is gone, and
nothing else changes. (spec/06_scratchpad_and_grid.md Table 6.5) -/
def Obligations.ScrubWalkersVisit : Prop :=
  ∀ s : State,
    (∀ (sh : Fin 6144) (bank : Fin 4) (c : Instr), s.canVisit (handBay sh) = true →
      (c = .scrubVisit sh bank ∧ s.bankIdle (handBay sh) (bankAt sh bank) = true ∨
        (c = .forcedScrubPeriod sh bank ∧ (s.walker sh bank).forcedPeriod < (s.bay (handBay sh)).clk.cyc / 4096 + 1 ∧
          ∀ x ∈ (s.bay (handBay sh)).served, x.1 = bankAt sh bank → 50 < x.2)) →
      ∃ t, Machine.exec c s = .next t ∧ ScrubWork s t sh bank ∧
        (t.walker sh bank).row = (if (s.walker sh bank).row = 1023 then 0 else (s.walker sh bank).row + 1) ∧
        (t.walker sh bank).passes = (if (s.walker sh bank).row = 1023 then (s.walker sh bank).passes + 1
          else (s.walker sh bank).passes) ∧
        (∀ r, sget 0 (t.walker sh bank).visited r =
          if r = (s.walker sh bank).row then s.clock.house + 1 else sget 0 (s.walker sh bank).visited r) ∧
        (t.walker sh bank).forcedPeriod = (if c = .scrubVisit sh bank then (s.walker sh bank).forcedPeriod
          else (s.bay (handBay sh)).clk.cyc / 4096 + 1) ∧
        (t.bay (handBay sh)).served = (s.bay (handBay sh)).served ++ [(bankAt sh bank, if c = .scrubVisit sh bank then 70 else 50)] ∧
        ∀ x, x ∈ (t.bay (handBay sh)).writeBack ↔
          (x ∈ (s.bay (handBay sh)).writeBack ∨ (x ∈ rowWords sh bank (s.walker sh bank).row ∧ sget 0 s.memErr x = 1))) ∧
    (∀ b : Fin 48, s.on → s.bayActive b = true → s.scrubDue b = true →
      ∃ t, Machine.exec (.scrubTimerWake b) s = .next t ∧ (t.bay b).clk.stopped = false ∧ (t.bay b).clk.scrubEv = true ∧
        { t with bays := s.bays, regs := s.regs } = s ∧ (∀ k, k ≠ b.val → t.bay k = s.bay k) ∧
        { t.bay b with clk := (s.bay b).clk } = s.bay b ∧
        ((s.bay b).clk.stopped = false → (t.bay b).clk = { (s.bay b).clk with scrubEv := true }) ∧
        ∀ a, a ≠ aBay b 0x4010 → a ≠ aClk 0x1C → t.reg a = s.reg a) ∧
    (∀ (b : Fin 48) (w : Nat) (ws : List Nat), (s.bay b).writeBack = w :: ws → (s.bay b).clk.stopped = false →
      s.bankIdle b (bankOf (spBayOff (8 * w)).2) = true →
      ∃ t, Machine.exec (.correctionWriteBack b) s = .next t ∧ { t with bays := s.bays, memErr := s.memErr } = s ∧
        (∀ k, k ≠ b.val → t.bay k = s.bay k) ∧
        t.bay b = { s.bay b with writeBack := ws, served := (s.bay b).served ++ [(bankOf (spBayOff (8 * w)).2, 70)] } ∧
        ∀ x, sget 0 t.memErr x = if x = w ∧ sget 0 s.memErr w = 1 then 0 else sget 0 s.memErr x)

/-- With the die on: BAY_SHFLAGS clears the written flags in every stagehand of the bay and changes no other one; a slot
plan is taken when it keeps to the budgets of its sides and no station command runs in the bay, else it stays and
SLOT_REJECT is set; BAY_CLKCFG takes TARGET, ADAPT and AUTOSTOP up to code 0x5A, else only its error bit and that of
CLK_STATUS are set; the cap's HOST field likewise, error bit 7 of CLK_STATUS; ETH_CFG keeps its value, CFG_REJECT set,
when a VLAN id 0 or 0xFFF is enabled, and clearing PTP_EN ends PTP; CHN_CFG keeps each credit share written 0. A write
to a bay's register wakes a stopped bay. Nothing else changes. (spec/05_stagehands.md Table 5.10;
spec/06_scratchpad_and_grid.md Table 6.4; spec/11_clocks_and_crossings.md Table 11.4; spec/11_clocks_and_crossings.md
Table 11.5; spec/12_ethernet_and_command_protocol.md Table 12.8; spec/13_chains.md Table 13.7) -/
def Obligations.RegisterWritesOfTheDie : Prop :=
  ∀ s : State, s.on →
    (∀ (b : Fin 48) (v : Word), ∃ t, Machine.exec (.bayShflagsWrite b v) s = .next t ∧
      BayAccess { s with stagehands := t.stagehands } t b [] ∧ (t.bay b).tapCount = (s.bay b).tapCount ∧
      t.shFlags b &&& v.setWidth 5 = 0 ∧
      ∀ l, t.hand l = (if handBay l = b then { s.hand l with flags := (s.hand l).flags &&& ~~~(v.setWidth 5) } else s.hand l)) ∧
    (∀ (b : Fin 48) (we : Bool) (v : Word), ∃ t, Machine.exec (.bayXslotWrite b we v) s = .next t ∧
      BayAccess s t b [aBay b (if we then 0x2044 else 0x2040), aBay b 0x204C] ∧ (t.bay b).tapCount = (s.bay b).tapCount ∧
      (xslotOk b we v = true → (s.bay b).running = false →
        t.reg (aBay b (if we then 0x2044 else 0x2040)) = v ∧ t.reg (aBay b 0x204C) = s.reg (aBay b 0x204C)) ∧
      (xslotOk b we v = false ∨ (s.bay b).running = true →
        t.reg (aBay b (if we then 0x2044 else 0x2040)) = s.reg (aBay b (if we then 0x2044 else 0x2040)) ∧
        t.reg (aBay b 0x204C) = s.reg (aBay b 0x204C) ||| 1)) ∧
    (∀ (b : Fin 48) (v : Word), ∃ t, Machine.exec (.bayClkcfgWrite b v) s = .next t ∧
      BayAccess s t b [aBay b 0x4000, aClk 0] ∧ (t.bay b).tapCount = (s.bay b).tapCount ∧
      t.reg (aBay b 0x4000) = (if 0x5A < fld v 6 0 then s.reg (aBay b 0x4000) ||| 0x80000000
        else (v &&& 0x37F) ||| (s.reg (aBay b 0x4000) &&& 0x80000000 &&& ~~~v)) ∧
      t.reg (aClk 0) = if 0x5A < fld v 6 0 then s.reg (aClk 0) ||| 0x80 else s.reg (aClk 0)) ∧
    (∀ (east : Bool) (v : Word), ∃ t, Machine.exec (.clkCapWrite east v) s = .next t ∧ { t with regs := s.regs } = s ∧
      (fld v 6 0 ≤ 0x5A → fld (t.reg (halfCap east)) 6 0 = fld v 6 0 ∧
        fld (t.reg (halfCap east)) 14 8 = fld (s.reg (halfCap east)) 14 8 ∧ ∀ a, a ≠ halfCap east → t.reg a = s.reg a) ∧
      (0x5A < fld v 6 0 → t.reg (aClk 0) = s.reg (aClk 0) ||| 0x80 ∧ ∀ a, a ≠ aClk 0 → t.reg a = s.reg a)) ∧
    (∀ v : Word,
      (bit v 13 = true ∧ (fld v 11 0 = 0 ∨ fld v 11 0 = 0xFFF) → ∃ t, Machine.exec (.ethCfgWrite v) s = .next t ∧
        { t with regs := s.regs } = s ∧ t.reg (aEth 0) = s.reg (aEth 0) ||| 1 ∧ ∀ a, a ≠ aEth 0 → t.reg a = s.reg a) ∧
      (¬ (bit v 13 = true ∧ (fld v 11 0 = 0 ∨ fld v 11 0 = 0xFFF)) → ∃ t, Machine.exec (.ethCfgWrite v) s = .next t ∧
        t.reg (aEth 4) = v &&& 0xEFFF ∧ (∀ a, a ≠ aEth 4 → t.reg a = s.reg a) ∧
        { t with regs := s.regs } = if bit s.ethCfg 14 = true ∧ bit v 14 = false then s.ptpEnd else s)) ∧
    (∀ (p : Port) (v : Word), ∃ t, Machine.exec (.chnCfgWrite p v) s = .next t ∧ { t with regs := s.regs } = s ∧
      fld (t.reg (aChn (isE p) 4)) 7 4 = (if fld v 7 4 = 0 then fld (s.reg (aChn (isE p) 4)) 7 4 else fld v 7 4) ∧
      fld (t.reg (aChn (isE p) 4)) 3 0 = (if fld v 3 0 = 0 then fld (s.reg (aChn (isE p) 4)) 3 0 else fld v 3 0) ∧
      fld (t.reg (aChn (isE p) 4)) 31 8 = fld (s.reg (aChn (isE p) 4)) 31 8 ∧
      ∀ a, a ≠ aChn (isE p) 4 → t.reg a = s.reg a)

/-- With the die on, Yemir running and an owner enrolled, YMR_POLICY takes bits [15:8] and [1:0], a new TENANT_GEN closes
the tenant sessions of another generation, and Yemir logs it; YMR_CAP takes each half's code up to 0x5A. FLT_CLEAR
empties the context's record and no other. FLT_ISOLATE takes its RW bits, and each partition with no context switched
in may then switch one in; FLT_RESV takes the reserve unless it holds an own snapshot, meets a quota or exceeds the
DDR installed, which is rejected. A register of a cue processor takes its RW bits, but one of a context keeps its
value, REJECT set, while the context is running or stopping or the value is none the register can hold. A memory
wing's register takes its RW bits and clears its W1C bits that are written 1. Nothing else changes.
(spec/14_yemir_and_security.md Table 14.12; spec/15_faults_resets_intermissions.md Table 15.7;
spec/09_prompt_books_and_call_sheets.md Table 9.16; spec/00_scope.md Table 0.3) -/
def Obligations.RegisterWritesOfOwnerAndFaultBlocks : Prop :=
  ∀ s : State, s.on →
    (∀ v : Word, s.ymrUp = true → s.ymr.owner.isSome = true →
      ∃ t, Machine.exec (.ymrPolicyWrite v) s = .next t ∧
        LogWork { s with ymr := { s.ymr with
          policy := v &&& 0xFF03
          sessions := if fld s.ymr.policy 15 8 = fld v 15 8 then s.ymr.sessions
            else s.ymr.sessions.filter (fun x => decide (x.role = 0) || decide (x.tenantGen = BitVec.ofNat 8 (fld v 15 8))) } } t) ∧
    (∀ v : Word, s.power ≠ .off → ∃ t, Machine.exec (.ymrCapWrite v) s = .next t ∧ { t with ymr := s.ymr, regs := s.regs } = s ∧
      t.ymr = { s.ymr with
        capE := if fld v 14 8 ≤ 0x5A then fld v 14 8 else s.ymr.capE
        capW := if fld v 6 0 ≤ 0x5A then fld v 6 0 else s.ymr.capW } ∧
      ∀ a, a ≠ halfCap true → a ≠ halfCap false → t.reg a = s.reg a) ∧
    (∀ r : Fin 64, ∃ t, Machine.exec (.fltClear r) s = .next t ∧ { t with faults := s.faults } = s ∧
      t.faultRec (r / 16) (r % 16) = none ∧ ∀ p c, c < 16 → ctxKey p c ≠ r.val → t.faultRec p c = s.faultRec p c) ∧
    (∀ v : Word, Machine.exec (.fltIsolateWrite v) s = .next ((List.range 4).foldl State.trySwitch
      (s.setReg (aFlt 0x2018) ((v &&& 0x8000003F) ||| (s.reg (aFlt 0x2018) &&& ~~~0x8000003F))))) ∧
    (∀ v : Word, ∃ t, Machine.exec (.fltResvWrite v) s = .next t ∧ { t with regs := s.regs } = s ∧
      (s.inter.snaps.any Snapshot.own = true ∨ s.installedDdr + ddrBase < (resvOf v).1 + (resvOf v).2 ∨
          (∃ kv ∈ s.ctxs, kv.2.st ≠ 0 ∧ rangesMeet (resvOf v).1 (resvOf v).2 kv.2.ddrBase kv.2.ddrSize = true) →
        t.reg (aFlt 0x2028) = s.reg (aFlt 0x2028) ||| 0x80000 ∧ ∀ a, a ≠ aFlt 0x2028 → t.reg a = s.reg a) ∧
      (s.inter.snaps.any Snapshot.own = false → (resvOf v).1 + (resvOf v).2 ≤ s.installedDdr + ddrBase →
          (∀ kv ∈ s.ctxs, kv.2.st ≠ 0 → rangesMeet (resvOf v).1 (resvOf v).2 kv.2.ddrBase kv.2.ddrSize = false) →
        t.reg (aFlt 0x2020) = v ∧ ∀ a, a ≠ aFlt 0x2020 → t.reg a = s.reg a)) ∧
    (∀ (n : Fin 4) (off : Nat) (r : RegRow) (v : Word), off % 4 = 0 → findRow cpRows off = some r →
      ∃ t, Machine.exec (.cpRegisterWrite n off v) s = .next t ∧ { t with regs := s.regs } = s ∧
        (0x1000 ≤ off → r.rw ≠ 0 → (s.ctx (s.partOfCp n) ((off - 0x1000) / 0x40)).st = 4 ∨
            (s.ctx (s.partOfCp n) ((off - 0x1000) / 0x40)).st = 5 ∨ cpWriteBad off v = true →
          t.reg (aCp n 0) = s.reg (aCp n 0) ||| 0x80000000 ∧ ∀ a, a ≠ aCp n 0 → t.reg a = s.reg a) ∧
        (off < 0x1000 ∨ r.rw = 0 ∨ ((s.ctx (s.partOfCp n) ((off - 0x1000) / 0x40)).st ≠ 4 ∧
            (s.ctx (s.partOfCp n) ((off - 0x1000) / 0x40)).st ≠ 5 ∧ cpWriteBad off v = false) →
          t.reg (aCp n off) = (v &&& r.rw) ||| (s.reg (aCp n off) &&& ~~~r.rw &&& ~~~(v &&& r.w1c)) ∧
          ∀ a, a ≠ aCp n off → t.reg a = s.reg a)) ∧
    (∀ (w : Fin 20) (off : Nat) (r : RegRow) (v : Word), off < 0x8000 → regRow (aMem w off) = some r →
      ∃ t, Machine.exec (.registerWrite (aMem w off) v) s = .next t ∧ { t with regs := s.regs } = s ∧
        t.reg (aMem w off) = (v &&& r.rw) ||| (s.reg (aMem w off) &&& ~~~r.rw &&& ~~~(v &&& r.w1c)) ∧
        ∀ a, a ≠ aMem w off → t.reg a = s.reg a)

/-- An event in front of its node's others is registered: it leaves the crossing and is on its way to the root, marked
with house time; one of a call sheet's SETF or CLRF also ends that entry. The root takes an event that no earlier one
of its node precedes and that does not come with a set it should precede: a flag set or clear takes the next sequence
number and joins the numbered events. An arrival at an enabled curtain whose count is not reached, and one at a
curtain held for its chain, adds its payload and 1 to its generation; the one that reaches the count is numbered as
the release of the curtain, with the OR of the generation's payloads, and the generation bit flips; a chain's curtain
is held instead, and this module's ARRIVE leaves. Nothing else changes. (spec/06_scratchpad_and_grid.md) -/
def Obligations.EventsAreRegisteredAndNumbered : Prop :=
  (∀ (s : State) (i : Nat) (e : CrtPend), s.crt.waiting[i]? = some e →
    (s.crt.waiting.take i).any (fun x => decide (x.node = e.node)) = false →
    Machine.exec (.eventRegistration i) s = .next
      (match e.cp, e.ev with
        | some n, .flagSet _ _ => (s.registered i e).cpDelivered n
        | some n, .flagClr _ _ => (s.registered i e).cpDelivered n
        | _, _ => s.registered i e)) ∧
  (∀ (s : State) (i cyc : Nat) (e : CrtPend), s.crt.toRoot[i]? = some e → cyc = rootCycle s.clock.refLost s.clock.uptime →
    (s.crt.toRoot.take i).any (fun x => decide (x.node = e.node)) = false → s.crt.clearLate cyc e.ev = false →
    (∀ p k, e.ev = .flagSet p k ∨ e.ev = .flagClr p k ∨ e.ev = .clearAll p →
      Machine.exec (.rootNumbering i) s = .next { s with crt := { s.crt.noteSet cyc e.ev with
        toRoot := listDrop s.crt.toRoot i, seq := s.crt.seq + 1,
        numbered := s.crt.numbered ++ [{ seq := s.crt.seq + 1, ev := e.ev, release := none, time := e.time }] } }) ∧
    (∀ p n pay ctx cls idx, e.ev = .arrive p n pay ctx cls idx →
      ((s.curtain p n).held = false → (s.curtain p n).arrived + 1 < (s.curtain p n).count →
        ∃ t, Machine.exec (.rootNumbering i) s = .next t ∧ NumberedArrival s t i cyc e p n cls idx 1 none ∧
          t.curtain p n = { s.curtain p n with arrived := (s.curtain p n).arrived + 1, acc := (s.curtain p n).acc ||| pay }) ∧
      ((s.curtain p n).held = true → ((s.curtain p n).next.map Prod.snd).getD (s.curtain p n).count ≠ 0 →
        ∃ t, Machine.exec (.rootNumbering i) s = .next t ∧ NumberedArrival s t i cyc e p n cls idx 2 none ∧
          t.curtain p n = { s.curtain p n with arrived := (s.curtain p n).arrived + 1, accNext := (s.curtain p n).accNext ||| pay }) ∧
      ((s.curtain p n).held = false → (s.curtain p n).count ≠ 0 → (s.curtain p n).count ≤ (s.curtain p n).arrived + 1 →
        (s.curtain p n).chain = false →
        ∃ t, Machine.exec (.rootNumbering i) s = .next t ∧
          NumberedArrival s t i cyc e p n cls idx 1 (some (p, n, (s.curtain p n).acc ||| pay)) ∧
          t.curtain p n = ({ s.curtain p n with arrived := (s.curtain p n).arrived + 1, acc := (s.curtain p n).acc ||| pay } : Curtain).released
            ((s.curtain p n).acc ||| pay)) ∧
      ((s.curtain p n).held = false → (s.curtain p n).count ≠ 0 → (s.curtain p n).count ≤ (s.curtain p n).arrived + 1 →
        (s.curtain p n).chain = true →
        ∃ u, NumberedArrival s u i cyc e p n cls idx 1 none ∧
          u.curtain p n = { s.curtain p n with arrived := (s.curtain p n).arrived + 1, acc := (s.curtain p n).acc ||| pay, held := true } ∧
          Machine.exec (.rootNumbering i) s = .next
            ((u.chainArrive p n ctx ((s.curtain p n).acc ||| pay) (s.curtainCast p n)).reclose p n))))

/-- When the node of a bay has a numbered event it has not applied, it applies the next one in sequence: a flag set sets,
a clear clears that flag and no other of that node, clearAll clears the partition's 64 flags; the flags of every other
node stay; a release adds one to the node's releases of its curtain. A running stagehand of the bay that waits for a
flag now set, or for a release of the generation it joined, goes on with its next instruction in the next cycle; one
that waits for neither is as before. The event leaves the list once every node has applied it. Beside that only
command heads and cue processors that wait for the flag or release change, a step that waits for it, and CRT_LATMAX.
(spec/06_scratchpad_and_grid.md; spec/05_stagehands.md) -/
def Obligations.EventsApplyAtEveryNodeInOrder : Prop :=
  ∀ (s : State) (b : Fin 48) (e : CrtNum), s.crt.numbered[sget 0 s.crt.applied b]? = some e →
    ∃ t, Machine.exec (.eventApplication b) s = .next t ∧
      { t with crt := s.crt, stagehands := s.stagehands, cps := s.cps, ctxs := s.ctxs, bays := s.bays, links := s.links, regs := s.regs } = s ∧
      (∀ a, a ≠ 0x708004 → t.reg a = s.reg a) ∧ (∀ k, k ≠ b.val → t.bay k = s.bay k) ∧
      { t.bay b with queues := (s.bay b).queues } = s.bay b ∧
      sget 0 t.crt.flags b = (match e.ev with
        | .flagSet p k => sget 0 s.crt.flags b ||| flagMask p k
        | .flagClr p k => sget 0 s.crt.flags b &&& ~~~(flagMask p k)
        | .clearAll p => sget 0 s.crt.flags b &&& ~~~(partMask p)
        | .arrive _ _ _ _ _ _ => sget 0 s.crt.flags b) ∧
      (∀ n, n ≠ b.val → sget 0 t.crt.flags n = sget 0 s.crt.flags n) ∧
      ((t.crt.numbered = s.crt.numbered ∧ sget 0 t.crt.applied b = sget 0 s.crt.applied b + 1) ∨
        (t.crt.numbered = s.crt.numbered.drop 1 ∧ sget 0 t.crt.applied b = sget 0 s.crt.applied b)) ∧
      (∀ p n pay, e.release = some (p, n, pay) →
        sget 0 t.crt.releases (64 * b + curtKey p n) = sget 0 s.crt.releases (64 * b + curtKey p n) + 1) ∧
      (∀ l, handBay l = b → (s.hand l).running = true →
        (∃ p k, e.ev = .flagSet p k ∧ (s.hand l).part = p ∧ (s.hand l).wait = .flag k) ∨
          (∃ p n pay, e.release = some (p, n, pay) ∧ (s.hand l).part = p ∧ (s.hand l).wait = .curtain n ∧
            s.joinedOk (joinKey p 2 l) (sget 0 s.crt.releases (64 * b + curtKey p n) + 1) = true) →
        t.hand l = { s.hand l with wait := .none, issue := max (s.hand l).issue ((s.bay b).clk.cyc + 1) }.nextPc) ∧
      (∀ l, handBay l ≠ b.val ∨ (s.hand l).running = false ∨ (∀ k, (s.hand l).wait ≠ .flag k ∧ (s.hand l).wait ≠ .curtain k) →
        t.hand l = s.hand l)

/-- With the die on, a write of CRT_FLAGSET or CRT_FLAGCLR sends one event of the root's node for each 1 written, in
rising flag order, and nothing else changes; a write of CRT_CURTCFG takes effect at once while no arrival of the
generation has been numbered, and from the next generation otherwise. A packet that has come to its node with its last
word goes to its engine when no earlier one of its input and priority stands there and the crossing of 16 words has
room; the others stay in order. Nothing else changes. (spec/06_scratchpad_and_grid.md Table 6.6;
spec/09_prompt_books_and_call_sheets.md; spec/11_clocks_and_crossings.md Table 11.3) -/
def Obligations.CurtainRegistersAndCuePackets : Prop :=
  (∀ s : State, s.on →
    (∀ (p : Fin 4) (hi : Bool) (v : Word),
      Machine.exec (.crtFlagset p hi v) s = .next { s with crt := { s.crt with
        waiting := s.crt.waiting ++ s.flagEvents (fun k => .flagSet p k) hi v } } ∧
      Machine.exec (.crtFlagclr p hi v) s = .next { s with crt := { s.crt with
        waiting := s.crt.waiting ++ s.flagEvents (fun k => .flagClr p k) hi v } }) ∧
    (∀ (p : Fin 4) (n : Fin 16) (v : Word), ∃ t, Machine.exec (.crtCurtcfgWrite p n v) s = .next t ∧
      { t with crt := s.crt } = s ∧ { t.crt with curtains := s.crt.curtains } = s.crt ∧
      (∀ q m, curtKey q m ≠ curtKey p n → t.curtain q m = s.curtain q m) ∧
      t.curtain p n = (if (s.curtain p n).arrived = 0
        then { s.curtain p n with chain := bit v 31, count := fld v 13 0, next := none }
        else { s.curtain p n with next := some (bit v 31, fld v 13 0) }))) ∧
  (∀ (s : State) (i : Nat) (x : CueTransit), s.cuePkts[i]? = some x → s.cueHere x = true →
    (∀ y ∈ s.cuePkts.take i, y.node = x.node → y.inp = x.inp → y.pkt.high = x.pkt.high → s.cueHere y = false) →
    s.cueBacklog x.node + x.pkt.words ≤ 16 →
    Machine.exec (.cuePacketArrival i) s =
      .next { s with cuePkts := listDrop s.cuePkts i, cueArrived := s.cueArrived ++ [x.pkt] })

/-- A cue processor inside a pass acts on its oldest entry by its kind: NOP retires; WAIT retires when its flag is set at
the node and otherwise waits for it; SETF and CLRF send one event from the node and wait for its registration; CURT
sends an arrival with payload 0 and waits for the release; SCENE and END bring it to a boundary. With ARG above the
kind's range (63 for WAIT, SETF and CLRF, 15 for CURT, 4,095 for SCENE) the cue processor halts and sends an FLT_RANGE
packet, with an unlisted kind an FLT_OPCODE packet. Nothing else changes. (spec/09_prompt_books_and_call_sheets.md
Table 9.9) -/
def Obligations.CallSheetEntriesActOnTheNetwork : Prop :=
  ∀ (s : State) (n : Fin 4) (c : Nat) (e : CsEntry) (rest : List CsEntry), EntryReady s n c e rest →
    (e.kind = 0 → ∃ t, Machine.exec (.csNop n) s = .next t ∧ Retired s t n c e rest) ∧
    (e.kind = 3 → e.arg ≤ 63 → s.flagAt (cpNode n) (s.partOfCp n) e.arg = true →
      ∃ t, Machine.exec (.wait n) s = .next t ∧ Retired s t n c e rest) ∧
    (e.kind = 3 → e.arg ≤ 63 → s.flagAt (cpNode n) (s.partOfCp n) e.arg = false →
      Machine.exec (.wait n) s = .next (s.setCp n { s.cp n with wait := .flag e.arg })) ∧
    (∀ (i : Instr) (ev : CrtEvent), e.arg ≤ 63 →
      (e.kind = 4 ∧ i = .csSetf n ∧ ev = .flagSet (s.partOfCp n) e.arg) ∨ (e.kind = 5 ∧ i = .clrf n ∧ ev = .flagClr (s.partOfCp n) e.arg) →
      ∃ t, Machine.exec i s = .next t ∧ OnlyCp s t n { s.cp n with registered := true } ∧
        { t with cps := s.cps } = { s with crt := { s.crt with
          waiting := s.crt.waiting ++ [{ ev := ev, node := cpNode n, time := s.clock.house, cp := some n.val }] } }) ∧
    (e.kind = 6 → e.arg ≤ 15 → ∃ t, Machine.exec (.csCurt n) s = .next t ∧ OnlyCp s t n { s.cp n with wait := .curtain e.arg } ∧
      { t with cps := s.cps } = { s with crt := { s.crt with
        joined := sset 0 s.crt.joined (joinKey (s.partOfCp n) 6 n) 0
        waiting := s.crt.waiting ++
          [{ ev := .arrive (s.partOfCp n) e.arg 0 c 6 n, node := cpNode n, time := s.clock.house, cp := none }] } }) ∧
    (e.kind = 7 → e.arg ≤ 4095 →
      Machine.exec (.scene n) s = .next (s.setCp n { s.cp n with wait := .boundary (some e.arg) })) ∧
    (e.kind = 8 → Machine.exec (.endPass n) s = .next (s.setCp n { s.cp n with wait := .boundary none })) ∧
    (∀ (i : Instr) (k lim : Nat), (i, k, lim) ∈ [(Instr.wait n, 3, 63), (.csSetf n, 4, 63), (.clrf n, 5, 63), (.csCurt n, 6, 15), (.scene n, 7, 4095)] →
      e.kind = k → lim < e.arg → ∃ t, Machine.exec i s = .next t ∧ CueHalts s t n c fltRange e) ∧
    (∀ i ∈ [Instr.csNop n, .cmd n, .batch n, .wait n, .csSetf n, .clrf n, .csCurt n, .scene n, .endPass n],
      8 < e.kind → ∃ t, Machine.exec i s = .next t ∧ CueHalts s t n c fltOpcode e)

/-- A CMD whose target and contract are good, with fewer than 8 commands in or on their way to its queue and no other cue
processor waiting for it, sends its own eight words; a BATCH the 32 bytes at its batch address plus 32 for each packet
it has delivered, read from its context's HBM quota; a BATCH with ARG 0 retires; with the queue full or waited for,
either stalls, noting the time; the grant of the slot to the first waiter sends the packet of its CMD or BATCH. The
entry then waits for the packet's arrival. A bad target or contract halts the cue processor with the reason of R274.
Nothing else changes but the counts of a read. (spec/09_prompt_books_and_call_sheets.md Table 9.9) -/
def Obligations.CallSheetPacketsLeaveInTheirSlot : Prop :=
  ∀ (s : State) (n : Fin 4) (c : Nat) (e : CsEntry) (rest : List CsEntry),
    (∀ ws, e.kind = 1 ∧ ws = e.packet ∨
        (e.kind = 2 ∧ CueReads s (s.partOfCp n) c (e.batchAddr + 32 * (s.cp n).batchPos) 32 ∧
          ws = slotWords (s.memBytes (e.batchAddr + 32 * (s.cp n).batchPos) 32)) →
      (∀ i, EntryReady s n c e rest → (e.kind = 1 ∧ i = .cmd n) ∨ (e.kind = 2 ∧ i = .batch n ∧ e.batchAddr % 32 = 0 ∧ 0 < e.arg ∧
          (s.ctx (s.partOfCp n) c).hbmOk e.batchAddr (32 * e.arg) = true) →
        s.targetBad n e = none → s.queueLoad (s.targetOf n e) < 8 → s.slotWaiters (s.targetOf n e) = [] →
        ∃ t, Machine.exec i s = .next t ∧ PacketLeft s t n c e ws ∧ (e.kind = 1 → t.regs = s.regs ∧ t.ymr = s.ymr)) ∧
      (∀ since, s.cpCtx n = some c → (s.cp n).fetched = e :: rest → (s.cp n).wait = .slot since → (s.cp n).halted = false →
        s.queueLoad (s.targetOf n e) < 8 →
        (∀ w ∈ s.slotWaiters (s.targetOf n e), since < w.1 ∨ (w.1 = since ∧ n.val ≤ w.2)) →
        ∃ t, Machine.exec (.queueSlotGrant n) s = .next t ∧ PacketLeft s t n c e ws ∧ (e.kind = 1 → t.regs = s.regs ∧ t.ymr = s.ymr))) ∧
    (EntryReady s n c e rest →
      (∀ i, (e.kind = 1 ∧ i = .cmd n) ∨ (e.kind = 2 ∧ i = .batch n ∧ e.batchAddr % 32 = 0 ∧ 0 < e.arg ∧
          (s.ctx (s.partOfCp n) c).hbmOk e.batchAddr (32 * e.arg) = true) →
        (s.targetBad n e = none → 8 ≤ s.queueLoad (s.targetOf n e) ∨ s.slotWaiters (s.targetOf n e) ≠ [] →
          Machine.exec i s = .next (s.setCp n { s.cp n with wait := .slot s.clock.house })) ∧
        (∀ r, s.targetBad n e = some r → ∃ t, Machine.exec i s = .next t ∧ CueHalts s t n c r e)) ∧
      (e.kind = 2 → e.batchAddr % 32 = 0 → e.arg = 0 → s.targetBad n e = none →
        ∃ t, Machine.exec (.batch n) s = .next t ∧ Retired s t n c e rest))

/-- A cue processor of a started context that holds at most 512 entries fetches the 64 bytes of the next ring entry and
goes on to the next index, to 0 after an END; nothing else changes but the counts of the read. With credit it takes
one and starts a pass; nothing else changes. When every cue processor of a partition stands at the same boundary and
nothing of the context is under way, the boundary completes: the partition's flags are cleared by one numbered event,
the progress counter goes up by one, and an END also ends the pass; no byte of memory, no command or packet, no link
engine, no memory controller and no other part of the die changes but what a report, the answer to a waiting STOP, an
intermission that begins or a switch of contexts brings. (spec/09_prompt_books_and_call_sheets.md;
spec/06_scratchpad_and_grid.md) -/
def Obligations.FetchesPassesAndBoundaries : Prop :=
  (∀ (s : State) (n : Fin 4) (c : Nat), s.fetchCtx n = some c → s.ringSize n c ≠ 0 → (s.cp n).fetched.length ≤ 512 →
    CueReads s (s.partOfCp n) c (s.ringBase n c + 64 * (s.cp n).fetchPos) 64 →
    ∃ t, Machine.exec (.entryFetch n) s = .next t ∧ ReadWork { s with cps := t.cps } t ∧ ∃ e : CsEntry,
      e.index = (s.cp n).fetchPos ∧ e.addr = s.ringBase n c + 64 * (s.cp n).fetchPos ∧
      e.bytes = s.memBytes (s.ringBase n c + 64 * (s.cp n).fetchPos) 64 ∧
      OnlyCp s t n { s.cp n with
        fetched := (s.cp n).fetched ++ [e]
        fetchPos := if e.kind = 8 then 0 else ((s.cp n).fetchPos + 1) % s.ringSize n c }) ∧
  (∀ (s : State) (n : Fin 4) (c : Nat), s.cpCtx n = some c → (s.cp n).inPass = false →
    (s.cp n).halted = false → s.isolatedOut (s.partOfCp n) c = false → 0 < (s.ctx (s.partOfCp n) c).creditOf n →
    ∃ t, Machine.exec (.passStart n) s = .next t ∧ { t with cps := s.cps, ctxs := s.ctxs } = s ∧
      OnlyCp s t n { s.cp n with inPass := true } ∧
      t.ctx (s.partOfCp n) c = { s.ctx (s.partOfCp n) c with
        credit := sset 0 (s.ctx (s.partOfCp n) c).credit n ((s.ctx (s.partOfCp n) c).creditOf n - 1), midPass := true } ∧
      ∀ p d, ctxKey p d ≠ ctxKey (s.partOfCp n) c → t.ctx p d = s.ctx p d) ∧
  (∀ (s : State) (p : Fin 4) (c : Nat) (k : Option Nat), s.curCtx p = some c →
    (s.ctx p c).st = 4 ∨ (s.ctx p c).st = 5 → s.stopped p c = false → s.partFenced p = false →
    (s.cp (leadCp s.shape p)).halted = false → (s.cp (leadCp s.shape p)).boundary = some k →
    (∀ n ∈ cpsOf s.shape p, (s.cp n).boundary = some k) → s.boundaryQuiet p c k.isNone = true →
    ∃ t, Machine.exec (.sceneBoundary p) s = .next t ∧
      { t with crt := s.crt, cps := s.cps, ctxs := s.ctxs, parts := s.parts, bays := s.bays, stagehands := s.stagehands, flits := s.flits,
               mbx := s.mbx, free := s.free, ymr := s.ymr, eth := s.eth, chain := s.chain, inter := s.inter, regs := s.regs } = s ∧
      (t.ctx p c).progress = (s.ctx p c).progress + 1 ∧ (t.ctx p c).midPass = !k.isNone ∧ t.crt.seq = s.crt.seq + 1 ∧
      t.crt.numbered = s.crt.numbered ++
        [{ seq := s.crt.seq + 1, ev := .clearAll p, release := none, time := s.clock.house }])

/-- A fault packet at the block, with none of the same context there that R287 or R152 puts first, leaves the network,
counts in FLT_TOTAL and notifies Yemir. With the record empty it fills it with the reason, engine, address, time and
entry offset it carries, an existing context goes to state 6, none of its commands is left waiting in a bay's queue
and no stagehand of its partition runs for it; no byte of memory changes. With the record full the record keeps
everything but its count of later faults, which goes up by one to at most 255, and nothing else changes.
(spec/09_prompt_books_and_call_sheets.md Table 9.13; spec/15_faults_resets_intermissions.md) -/
def Obligations.FirstFaultStopsItsContext : Prop :=
  ∀ (s : State) (i reason p c cls bay index : Nat) (bookoff : Word) (time addr : Nat) (detail : List Nat),
    s.cueArrived[i]? = some (.fault reason p c cls bay index bookoff time addr detail) →
    s.cueArrived.any (faultBefore p c cls bay index time) = false →
    (s.faultRec p c = none → ∃ t, Machine.exec (.faultReport i) s = .next t ∧ t.cueArrived = listDrop s.cueArrived i ∧
      t.mem = s.mem ∧ t.memErr = s.memErr ∧
      t.faultRec p c = some (s.recordOf reason p c cls bay index bookoff time addr detail) ∧
      (∀ q d, ctxKey q d ≠ ctxKey p c → t.faultRec q d = s.faultRec q d) ∧
      ((s.ctx p c).st ≠ 0 → (t.ctx p c).st = 6) ∧
      (∀ l, (t.hand l).runsFor p c = false) ∧ ∀ b q, ∀ x ∈ (t.bay b).queue q, x.isOf p c = false) ∧
    (∀ r, s.faultRec p c = some r → ∃ t, Machine.exec (.faultReport i) s = .next t ∧ t.cueArrived = listDrop s.cueArrived i ∧
      { t with cueArrived := s.cueArrived, faults := s.faults, regs := s.regs, clock := s.clock } = s ∧
      t.clock = { s.clock with faultEv := true } ∧ (∀ a, a ≠ aFlt 0x100C → a ≠ aClk 0x1C → t.reg a = s.reg a) ∧
      t.reg (aFlt 0x100C) = satInc (s.reg (aFlt 0x100C)) 1 ∧
      t.faultRec p c = some { r with later := min 255 (r.later + 1) } ∧
      ∀ q d, ctxKey q d ≠ ctxKey p c → t.faultRec q d = s.faultRec q d)

/-- An LE_GATHER at the head of its queue that passes its checks leaves the queue. Without shards, or with shards of no
bytes, its flag is set and nothing is recorded; else a gather stands open with nothing arrived, and the module's own
shard is then sent and landed: on a module that is no member of the list nothing more happens. A shard of the list's
epoch that a gather with no stamp to compare still wants is written in its landed format at DEST + member × LEN (in
the memories, not fenced, or in clean scratchpad), every other byte unchanged, and its member counts as arrived; the
last one ends the gather and sets its flag. With a stamp that differs from the wanted one nothing is written,
FLT_SHARD_VERSION goes out, and the gather is discarded. A shard of another epoch is discarded and counted. Nothing
else changes. (spec/07_backward_pass.md Table 7.4; spec/07_backward_pass.md Table 7.5) -/
def Obligations.GathersLandTheirShards : Prop :=
  ∀ (s : State) (p : Fin 4),
    (∀ q rest, LinkReady s p 0 0x30 q rest → s.gatherCheck p q.ctx (gatherCmd q.words) = none →
      ((gatherCmd q.words).shards = 0 ∨ (gatherCmd q.words).len = 0 → ∃ t, Machine.exec (.leGather p) s = .next t ∧
        { t with links := s.links, crt := s.crt } = s ∧ t.crt = s.setsFlag p q.head ∧ LinkTook s t p 0 rest ∧ otherLinks s t p ∧
        { t.link p with queues := (s.link p).queues } = s.link p) ∧
      ((gatherCmd q.words).shards ≠ 0 → (gatherCmd q.words).len ≠ 0 → ∃ u, { u with links := s.links } = s ∧
        LinkTook s u p 0 rest ∧ otherLinks s u p ∧ { u.link p with queues := (s.link p).queues } = { s.link p with
          gathers := (s.link p).gathers ++
            [{ ctx := q.ctx, words := q.words, arrived := [], firstStamp := none, dead := false, bookoff := q.bookoff }] } ∧
        Machine.exec (.leGather p) s = .next (u.sendOwnShard p q.ctx (gatherCmd q.words)) ∧
        (s.memberOf (gatherCmd q.words).cast = none → Machine.exec (.leGather p) s = .next u))) ∧
    (∀ (m : ShardMsg) (i : Nat) (g : Gather), m.epoch = (s.cast m.cast).epoch → s.gatherFor p m = some i →
      (s.link p).gathers[i]? = some g → g.dead = false →
      (∀ bs, (gatherCmd g.words).mode = 0 → GoesOn s p g.ctx →
        bs = (landShard (gatherCmd g.words).wire (gatherCmd g.words).land
          (((s.tensor p g.ctx (gatherCmd g.words).tensor).map TDesc.cols).getD 32) m.data m.scales).take (gatherCmd g.words).len →
        s.writable ((gatherCmd g.words).dest + m.member * (gatherCmd g.words).len) bs.length →
        ∃ t, Machine.exec (.shardArrival p m) s = .next t ∧ WriteWork { s with links := t.links, crt := t.crt } t ∧
          Wrote s t ((gatherCmd g.words).dest + m.member * (gatherCmd g.words).len) bs ∧ otherLinks s t p ∧
          t.link p = { s.link p with
            gathers := if g.arrived.length + 1 < (gatherCmd g.words).shards
              then listSet (s.link p).gathers i { g with arrived := g.arrived ++ [m.member], firstStamp := g.firstStamp.or (some m.stamp) }
              else listDrop (s.link p).gathers i } ∧
          t.crt = if g.arrived.length + 1 < (gatherCmd g.words).shards then s.crt else s.setsFlag p (cmdHead (cword g.words 0))) ∧
      (∀ ok st, s.wantedStamp p g (gatherCmd g.words) m.tensor = some (ok, st) → ok = false ∨ st ≠ m.stamp.toNat → GoesOn s p g.ctx →
        ∃ t d, Machine.exec (.shardArrival p m) s = .next t ∧ { t with links := s.links, cuePkts := s.cuePkts } = s ∧ otherLinks s t p ∧
          t.cuePkts = (s.sendFault fltShardVersion p g.ctx 7 0xFF 1 g.bookoff 0 d).cuePkts ∧
          t.link p = { s.link p with
            gathers := if g.arrived.length + 1 < (gatherCmd g.words).shards
              then listSet (s.link p).gathers i { g with arrived := g.arrived ++ [m.member], dead := true }
              else listDrop (s.link p).gathers i })) ∧
    (∀ m : ShardMsg, m.epoch ≠ (s.cast m.cast).epoch →
      Machine.exec (.shardArrival p m) s = .next (s.countSat (aXch p 0x08) 1))

/-- A good LE_REDUCE whose bucket is not known yet makes one that carries its tag, lists and source and holds its own
contribution as of now. With none waiting, a transfer of the step for a bucket whose own contribution is undecided is
held there, one for no known bucket makes one and is held, one whose step is ahead waits, one of another epoch is
counted and dropped. When the deadline after the first transfer has passed undecided, the contribution is late at that
level. The next complete part is written to the landing ring with its header, no other byte changed. A sampled chunk
is compared: agreeing, it counts; the first that disagrees is also logged. A recompute marks its bucket once. A bucket
that has done its share is confirmed and sets its flag. Beside that only chunks pass on. (spec/08_gradient_exchange.md
Table 8.2; spec/08_gradient_exchange.md Table 8.3) -/
def Obligations.BucketsOfAStep : Prop :=
  ∀ (s : State) (p : Fin 4),
    (∀ q rest bs, LinkReady s p 1 0x31 q rest → s.reduceCheck p q.ctx (reduceCmd q.words) = none →
      s.links.foldl (fun n kv => n + (kv.2.buckets.filter Bucket.inFlight).length) 0 < 256 →
      (s.engineRead (reduceCmd q.words).src (2 * (reduceCmd q.words).count)).2 = .ok bs →
      s.findBucket p q.ctx (reduceCmd q.words).tag 0 (reduceCmd q.words).cast = none → s.pickUp p q.ctx (reduceCmd q.words) = none →
      ∃ t, Machine.exec (.leReduce p) s = .next t ∧ PassedOn s t p ∧ LinkTook s t p 1 rest ∧ ∃ b ∈ (t.link p).buckets, b.ctx = q.ctx ∧
        b.tag = (reduceCmd q.words).tag ∧ b.cast = (reduceCmd q.words).cast ∧ b.ecast = (reduceCmd q.words).ecast ∧
        b.src = (reduceCmd q.words).src ∧ b.count = (reduceCmd q.words).count ∧ b.accepted = some s.clock.house ∧
        b.own = g16Of (reduceCmd q.words).count bs ∧ b.confirmed = false) ∧
    (∀ (c : Fin 16) (h : BucketHdr) (data : List (BitVec 16)), (s.link p).waiting = [] →
      (h.epoch = (s.cast h.cast.toNat).epoch → h.step = s.stepOf p c → h.level.toNat ≤ 1 → s.transferWaits p c h = false →
        (∀ (i : Nat) (b : Bucket), s.findBucket p c h.tag.toNat h.level.toNat h.cast.toNat = some i → s.bucket p i = some b →
          b.decided h.level.toNat = false →
          ∃ t b', Machine.exec (.bucketTransferArrival p c h data) s = .next t ∧ OnlyBuckets s t p ∧
            (t.link p).buckets = listSet (s.link p).buckets i b' ∧ b'.heldIn = b.heldIn ++ [(h, data)] ∧
            HeldAs b b' h s.clock.house) ∧
        (s.findBucket p c h.tag.toNat h.level.toNat h.cast.toNat = none →
          ∃ t b', Machine.exec (.bucketTransferArrival p c h data) s = .next t ∧ OnlyBuckets s t p ∧
            (t.link p).buckets = (s.link p).buckets ++ [b'] ∧ b'.heldIn = [(h, data)] ∧
            HeldAs (Bucket.fresh c h.tag.toNat 256 256 h.count h.scale) b' h s.clock.house)) ∧
      (h.epoch = (s.cast h.cast.toNat).epoch → (s.stepOf p c).toNat < h.step.toNat →
        ∃ t, Machine.exec (.bucketTransferArrival p c h data) s = .next t ∧ { t with links := s.links } = s ∧ otherLinks s t p ∧
          t.link p = { s.link p with waiting := [(c.val, s.clock.house, h, data)] }) ∧
      (h.epoch ≠ (s.cast h.cast.toNat).epoch →
        ∃ t, Machine.exec (.bucketTransferArrival p c h data) s = .next t ∧ { t with links := s.links } = s.countSat (aXch p 0x08) 1 ∧
          ∀ q, t.link q = s.link q)) ∧
    (∀ (i : Nat) (level : Fin 2) (b : Bucket) (t0 : Nat), s.bucket p i = some b →
      (if level.val = 0 then b.firstIn0 else b.firstIn1) = some t0 → t0 + b.deadline level < s.clock.house →
      b.decided level = false → b.confirmed = false →
      ∃ t b', Machine.exec (.bucketDeadline p i level) s = .next t ∧ PassedOn s t p ∧ t.bucket p i = some b' ∧
        b.ctx ∈ (t.link p).stepLate ∧ (if level.val = 0 then b'.late0 else b'.late1) = true ∧ b'.own = b.own) ∧
    (∀ (i : Nat) (b : Bucket) (level first n o : Nat) (l : List (BucketHdr × List (BitVec 16))) (h : BucketHdr)
        (v : List (BitVec 16)), s.bucket p i = some b → s.nextToLand p = some i → s.partOf b = some (level, first, n) →
      b.partData level first n = some l → l.head? = some (h, v) → s.landRoom p b.ctx (32 + 2048 * n) = some o → s.memFenced = false →
      s.xget p b.ctx 0x030 8 + o + 32 + 2048 * n ≤ spBase → (∀ x ∈ l, x.2.length = 1024) →
      ∃ t x, Machine.exec (.partLanding p i) s = .next t ∧ LandingWork s t p ∧ (t.link p).landing = (s.link p).landing ++ [x] ∧
        x = { ctx := b.ctx, bucket := i, hdr := { h with nf := l.any (fun y => y.1.nf), chunk := first, check := false },
              first := 1024 * first, elems := 1024 * n, at_ := o, doneBy := 0 } ∧
        Wrote s t (s.xget p b.ctx 0x030 8 + o) (hdrBytes x.hdr ++ g16Bytes (l.map (·.2)).flatten) ∧
        (t.bucket p i).map Bucket.landed = some true) ∧
    (∀ (i chunk : Nat) (b : Bucket) (h : BucketHdr) (v w : List (BitVec 16)) (more : List (BucketHdr × List (BitVec 16) × List (BitVec 16))),
      s.bucket p i = some b → b.toCompare chunk = (h, v, w) :: more →
      ((v.zip w).all (fun q => g16Agree (underScale h.scale q.1) (underScale h.scale q.2)) = true →
        ∃ t, Machine.exec (.sampledChunkCompare p i chunk) s = .next t ∧ otherLinks s t p ∧
          { t with links := s.links } = s.countSat (aXch p 0x10) 1 ∧
          t.link p = { s.link p with
            buckets := listSet (s.link p).buckets i { b with compared := b.compared ++ [(chunk, h.level.toNat)] } }) ∧
      ((v.zip w).all (fun q => g16Agree (underScale h.scale q.1) (underScale h.scale q.2)) = false →
        ∃ t, Machine.exec (.sampledChunkCompare p i chunk) s = .next t ∧ otherLinks s t p ∧
          LogWork { s with links := t.links, regs := t.regs, chain := t.chain, eth := t.eth } t ∧
          t.bucket p i = some { b with compared := b.compared ++ [(chunk, h.level.toNat)], disagreed := b.disagreed ++ [(chunk, h.level.toNat)] } ∧
          (b.recomputed = true → b.ctx ∈ (t.link p).stepCheck ∧ t.chain = s.chain ∧ t.eth = s.eth))) ∧
    (∀ (i : Nat) (b : Bucket), s.bucket p i = some b → b.recomputed = false → b.confirmed = false →
      (b.accepted = none ∨ ∃ bs, (s.engineRead b.src (2 * b.count)).2 = .ok bs) →
      ∃ t b', Machine.exec (.recomp p i) s = .next t ∧ PassedOn s t p ∧ t.bucket p i = some b' ∧ b'.recomputed = true ∧ b'.landed = false) ∧
    (∀ (i : Nat) (b : Bucket), s.bucket p i = some b → b.confirmed = false → b.decided 0 = true → GoesOn s p b.ctx →
      ((b.landed = true ∨ s.partOf b = none ∨ b.seen = false) ∧ s.checkedOk p b = true) ∨ (b.recomputed = true ∧ b.disagreed ≠ []) →
      ∃ t, Machine.exec (.bucketConfirmed p i) s = .next t ∧ { t with links := s.links, crt := s.crt } = s ∧ otherLinks s t p ∧
        t.link p = { s.link p with buckets := listSet (s.link p).buckets i { b with confirmed := true } } ∧
        t.crt = match b.accepted, b.setFlag with
          | some _, some k => (s.sendCrt linkNode (.flagSet p k)).crt
          | _, _ => s.crt)

/-- A good LE_STEP becomes the step to close, and the context's entries carried into it that nothing picked up are dropped
and counted. With every bucket confirmed and every part applied it arrives at its curtain with the step payload. With
no transfer waiting, its release ends the step: STEP of the exchange record goes up by one, whatever the payload, no
bucket, landed part or updated descriptor of the context is left, and the command's flag is set. A wing engine refuses
a part with NF or a non-finite element, which goes with no byte changed; for a pinned half it waits, busy; else, where
the descriptor may be written and its algorithm can run, it updates its squares and marks the part and the descriptor.
Nothing else changes but what these work on. (spec/08_gradient_exchange.md Table 8.5; spec/08_gradient_exchange.md
Table 8.6) -/
def Obligations.StepsCloseAtTheirCurtain : Prop :=
  ∀ (s : State) (p : Fin 4),
    (∀ q rest, LinkReady s p 1 0x32 q rest → (s.ctx p q.ctx).dress = false →
      (s.curtain p (stepCurt q.words)).count ≠ 0 → s.epochOk p q.ctx (stepCast q.words) = true → (s.link p).step = none →
      ∃ t, Machine.exec (.leStep p) s = .next t ∧ WriteWork { s with links := t.links } t ∧ otherLinks s t p ∧ LinkTook s t p 1 rest ∧
        { t.link p with queues := (s.link p).queues } = { s.link p with
          carried := (s.link p).carried.filter (fun e => !(decide (e.ctx = q.ctx) && decide (e.step ≠ s.stepOf p q.ctx)))
          stepBook := q.bookoff
          step := some { ctx := q.ctx, curt := stepCurt q.words, cast := stepCast q.words, arrived := false,
                         setFlag := if q.head.set then some q.head.setFlag else none, released := none } } ∧
        (∀ a, s.xaddr p q.ctx = some a → t.xget p q.ctx 0x018 4 = (s.xget p q.ctx 0x018 4 +
          ((s.link p).carried.filter (fun e => decide (e.ctx = q.ctx) && decide (e.step ≠ s.stepOf p q.ctx))).length) % 2 ^ 32) ∧
        ∀ y, (∀ a, s.xaddr p q.ctx = some a → y < a + 0x18 ∨ a + 0x1C ≤ y) → t.dsByte y = s.dsByte y) ∧
    (∀ st, (s.link p).step = some st → st.arrived = false → s.stepOpen p st.ctx = false → (s.ctx p st.ctx).st ≠ 6 →
      ∃ t, Machine.exec (.stepCurtainArrival p) s = .next t ∧ { t with links := s.links, crt := s.crt } = s ∧ otherLinks s t p ∧
        t.link p = { s.link p with step := some { st with arrived := true } } ∧
        t.crt = (s.sendCrt linkNode (.arrive p st.curt ((s.link p).payload st.ctx) st.ctx 7 1)).crt) ∧
    (∀ st pay a, (s.link p).step = some st → st.released = some pay → s.xaddr p st.ctx = some a →
      (s.ctx p st.ctx).dress = false → GoesOn s p st.ctx → (s.link p).waiting = [] →
      ∃ t, Machine.exec (.stepVerdict p) s = .next t ∧
        { t with links := s.links, crt := s.crt, regs := s.regs, mem := s.mem, memErr := s.memErr, ddrKeyed := s.ddrKeyed,
                 cuePkts := s.cuePkts, free := s.free } = s ∧ otherLinks s t p ∧
        t.stepOf p st.ctx = s.stepOf p st.ctx + 1 ∧ t.reg (aXch p 0x18) = s.stepOf p st.ctx ∧ (t.link p).step = none ∧
        (∀ b ∈ (t.link p).buckets, b.ctx ≠ st.ctx) ∧ (∀ x ∈ (t.link p).landing, x.ctx ≠ st.ctx) ∧
        (∀ x ∈ (t.link p).updated, x.1 ≠ st.ctx) ∧ (t.link p).stepNf = (s.link p).stepNf.erase st.ctx ∧
        t.crt = match st.setFlag with | some k => (s.sendCrt linkNode (.flagSet p k)).crt | none => s.crt) ∧
    (∀ (we : Fin 8) (i : Nat) (x : LandedPart) (b : Bucket) (d : ODesc) (td : TDesc) (bs : List Byte), PartReady s p we i x b d td →
      (s.pinnedHalf p x.ctx b.opt (1 - d.live) = true →
        Machine.exec (.wingApplyPart we p i) s = .next (s.setWestat we x.ctx b.opt true)) ∧
      (s.pinnedHalf p x.ctx b.opt (1 - d.live) = false →
        (s.readMem (s.xget p x.ctx 0x030 8 + x.at_ + 32) (2 * x.elems)).2 = some bs →
        (partRefused x (g16Of x.elems bs) = true → ∃ t, Machine.exec (.wingApplyPart we p i) s = .next t ∧
          ReadWork { s with links := t.links } t ∧ otherLinks s t p ∧
          t.link p = { s.link p with landing := listDrop (s.link p).landing i }) ∧
        (partRefused x (g16Of x.elems bs) = false → s.updateBad p x.ctx d td = false →
          s.algoBad p x.ctx x.hdr.ncontrib.toNat d = none → (s.partApplied p we x b d td bs).2 = none →
          Machine.exec (.wingApplyPart we p i) s = .next ((s.partApplied p we x b d td bs).1.partDone p i we b.opt x))))

/-- A REBLOCK under a session of the owner or of the partition's tenant: with an empty plan it is answered ST_OK at once;
for a context that is not stopped, or that has a reblock in progress, ST_BUSY; with a plan that R258 does not allow,
ST_RANGE; else the reblock stands open, its square rows are sent or copied entry by entry, and it is not answered yet.
A square row of the new list's epoch, named by the plan and not landed yet, is written at its place and counts as
landed, and its stamp raises the tensor's highest. When every square row of a plan that this module owns has landed,
the oldest such reblock ends, its changes are made, and its request is answered ST_OK. A square row of another epoch
is discarded and counted. Nothing else changes. (spec/08_gradient_exchange.md Table 8.10;
spec/12_ethernet_and_command_protocol.md Table 12.6) -/
def Obligations.ReblocksMoveSquareRows : Prop :=
  ∀ s : State,
    (∀ (h : PcpHdr) (x : Session) (plan : List ReblockEntry), Asks s h x 0x41 .tenant (8 + 32 * plan.length) → NamesCtx s h →
      (plan = [] → Machine.exec (.reblock h plan) s = .next ((s.accept h x).reply h 0x41 stOk [])) ∧
      (plan ≠ [] → (s.ctx (hdrPart h) (hdrCtx h)).st ≠ 2 ∨ (s.reblockOf (hdrPart h) (hdrCtx h)).isSome = true →
        Machine.exec (.reblock h plan) s = .next ((s.accept h x).reply h 0x41 stBusy [])) ∧
      (plan ≠ [] → (s.ctx (hdrPart h) (hdrCtx h)).st = 2 → s.reblockOf (hdrPart h) (hdrCtx h) = none →
        (plan.any (s.reblockBad (hdrPart h) (hdrCtx h)) = true →
          Machine.exec (.reblock h plan) s = .next ((s.accept h x).reply h 0x41 stRange [])) ∧
        (plan.any (s.reblockBad (hdrPart h) (hdrCtx h)) = false → ∃ t, Machine.exec (.reblock h plan) s = .next t ∧
          t = plan.foldl (fun u e => u.moveEntry (hdrPart h) (hdrCtx h) e) ((s.accept h x).putReblock (hdrPart h)
            { hdr := h, ctx := hdrCtx h, plan := plan, landed := [], maxStamp := [] }) ∧
          t.ymr.replies = s.ymr.replies ∧ otherLinks s t (hdrPart h) ∧
          (t.reblockOf (hdrPart h) (hdrCtx h)).map Reblock.plan = some plan))) ∧
    (∀ (p : Fin 4) (m : SquareRow), m.epoch ≠ (s.cast m.newCast).epoch →
      Machine.exec (.reblockTransferArrival p m) s = .next (s.countSat (aXch p 0x08) 1)) ∧
    (∀ (p : Fin 4) (m : SquareRow) (rb : Reblock) (e : ReblockEntry) (d : TDesc), m.epoch = (s.cast m.newCast).epoch →
      s.reblockOf p m.ctx = some rb → rb.plan.find? (fun e => decide (e.tensor = m.tensor) && decide (e.newCast = m.newCast)) = some e →
      s.tensor p rb.ctx m.tensor = some d → rb.landed.contains (m.tensor, m.squareRow) = false →
      ∃ t, Machine.exec (.reblockTransferArrival p m) s = .next t ∧ WriteWork { s with links := t.links } t ∧ otherLinks s t p ∧
        t.reblockOf p m.ctx = some { rb with
          landed := rb.landed ++ [(e.tensor, m.squareRow)]
          maxStamp := sset 0 rb.maxStamp e.tensor (max (sget 0 rb.maxStamp e.tensor) m.stamp.toNat) } ∧
        (∀ c, c ≠ m.ctx → t.reblockOf p c = s.reblockOf p c) ∧
        { t.link p with reblocks := (s.link p).reblocks } = s.link p ∧
        (e.moveWc = false → e.moveState = false → t.mem = s.mem) ∧
        (e.moveWc = true → e.moveState = false → m.wcScales = [] → Wrote s t (e.newWcBase + (m.squareRow -
          (s.mySquareRows e.newCast e.newShards d.rows).1) * wcData d.fmt 32 d.cols) m.wcData)) ∧
    (∀ (p : Fin 4) (rb : Reblock), (s.link p).reblocks.find? (s.reblockDone p) = some rb →
      ∃ u, Machine.exec (.reblockComplete p) s = .next (u.reply rb.hdr 0x41 stOk []) ∧ WriteWork { s with links := u.links } u ∧
        otherLinks s u p ∧ u.reblockOf p rb.ctx = none ∧ ∀ c, c ≠ rb.ctx → u.reblockOf p c = s.reblockOf p c)

/-- A started stream command's next transfer that passes its checks, with room on its lane and no older command waiting
for it, takes the next free tag; its request joins the lane, and a write's blocks, read from the bay, are put on their
way; one that fails a check moves nothing. The oldest request of a bay on a lane reaches a controller as one request
for each block; a fenced wing refuses it. A read request that is not stale gives its block's 256 bytes as one flit,
marked when the block cannot be used. A write request whose blocks are all there commits them whole, every byte
outside unchanged (of a first block whose parity fails a fourth time, free bytes: the model's choice, log entry 187),
and counts for its transfer. A stale request of either kind is dropped with all its blocks. A transfer with all blocks
done frees its tag and takes one off its command. Nothing else changes but corrections found, counts and logs.
(spec/10_memory_wings_and_streams.md Table 10.7; spec/10_memory_wings_and_streams.md Table 10.12) -/
def Obligations.StreamTransfersRunToTheirEnd : Prop :=
  (∀ (s : State) (b : Fin 48) (id n tag : Nat) (c : Started) (a off : Nat) (v : List Byte),
    (s.bay b).started.find? (fun c => decide (c.id = id)) = some c → (s.bay b).nextTransfer c = some n →
    (s.bay b).freeTag c = some tag → (s.bay b).clk.stopped = false →
    (∀ e, (s.sePlan b c n).2 = .error e → ∃ t, Machine.exec (.transferIssue b id) s = .next t ∧
      t.mem = s.mem ∧ t.flits = s.flits ∧ t.ctls = s.ctls ∧ (t.bay b).transfers = (s.bay b).transfers) ∧
    ((s.sePlan b c n).2 = .ok (a, off) → s.laneFull b (laneOf a) = false →
      ((s.bay b).started.takeWhile (fun x => decide (x.id ≠ id))).any (fun x => decide (s.seLane b x = some (laneOf a))) = false →
      (c.seWrite = true → ((s.sePlan b c n).1.spRead b off (256 * seBlocks c.words)).2 = some v) →
      ∃ t, Machine.exec (.transferIssue b id) s = .next t ∧ IssueWork s t b ∧
        (t.bay b).transfers = (s.bay b).transfers ++ [{ tag := tag, cmd := c.id, write := c.seWrite, addr := a, spOff := off,
                                                        blocks := seBlocks c.words, arrived := 0, issuedAt := s.clock.house }] ∧
        (t.bay b).started = (s.bay b).started.map (fun x =>
          if x.id = c.id then { x with nextTag := (tag - seTag0 c.words + 1) % max 1 (seNtags c.words) } else x) ∧
        t.ctl (ctlOf a) = { s.ctl (ctlOf a) with lane := (s.ctl (ctlOf a)).lane ++ [s.request b c tag a off] } ∧
        (∀ k, k ≠ ctlOf a → t.ctl k = s.ctl k) ∧
        t.flits = s.flits ++ (if c.seWrite then writeFlits b c tag a off v else []))) ∧
  (∀ (s : State) (k : Fin 20) (i : Nat) (r : MemReq), (s.ctl k).lane[i]? = some r →
    ((s.ctl k).lane.take i).any (fun q => decide (q.bay = r.bay)) = false →
    (s.memFenced = false → ∃ t, Machine.exec (.memoryRequestArrival k i) s = .next t ∧ { t with ctls := s.ctls } = s ∧
      (∀ j, j ≠ k.val → t.ctl j = s.ctl j) ∧
      t.ctl k = { s.ctl k with lane := listDrop (s.ctl k).lane i,
                               reqs := (s.ctl k).reqs ++ r.blocks ((s.transferOf r).elim 1 Transfer.blocks) }) ∧
    (s.memFenced = true → Machine.exec (.memoryRequestArrival k i) s =
      .next ((s.setCtl k { s.ctl k with lane := listDrop (s.ctl k).lane i }).refuseReq r))) ∧
  (∀ (s : State) (k : Fin 20) (i parity : Nat) (fixed : Bool) (r : MemReq), (s.ctl k).reqs[i]? = some r → s.clock.refLost = false →
    ((s.ctl k).stale r = true → ∀ c, c = .readBlockDelivery k i parity fixed ∧ r.write = false ∨ c = .writeCommit k ⟨i, parity⟩ ∧ r.write = true →
      ∃ t, Machine.exec c s = .next t ∧ { t with ctls := s.ctls, regs := s.regs } = s ∧
        OnlyCtl s t k { s.ctl k with reqs := (s.ctl k).reqs.filter (fun q => !(r.same q)) } ∧
        ∀ a, t.reg a = if a = aMem k 0x24 then satInc (s.reg a) 1 else s.reg a) ∧
    ((s.ctl k).stale r = false → r.write = false →
      s.queueUse (edgeRouter k (edgeOf r.addr), wingQueuePort k, (readFlit k r [] false s.clock.house).cls) < 8 →
      ∃ t, Machine.exec (.readBlockDelivery k i parity fixed) s = .next t ∧
        OnlyCtl s t k { s.ctl k with reqs := listDrop (s.ctl k).reqs i } ∧
        t.flits = s.flits ++
          [readFlit k r (s.memBytes r.addr 256) (decide (s.blockErr r.addr = 2 ∨ 3 < parity)) s.clock.house] ∧
        LogWork { s with ctls := t.ctls, flits := t.flits, regs := t.regs, memErr := t.memErr } t ∧
        (s.blockErr r.addr ≠ 2 → parity ≤ 3 → { t with ctls := s.ctls, flits := s.flits, regs := s.regs, ymr := s.ymr } = s ∧
          ∀ a, (∀ c, a ≠ aMem c 0x04 ∧ a ≠ aMem c 0x18 ∧ a ≠ aMem c 0x28) → (∀ y, a ≠ aBay y 0x2054) → t.reg a = s.reg a)) ∧
    (∀ (mine : List MemReq) (a : Nat), (s.ctl k).stale r = false → r.write = true → (s.ctl k).reqs.filter r.same = mine →
      a % 256 = 0 → a + 256 * mine.length ≤ spBase →
      (∀ j q, mine[j]? = some q → q.addr = a + 256 * j ∧ q.data.length = 256) → (s.ctl k).heldBack i mine = false →
      ∃ t, Machine.exec (.writeCommit k ⟨i, parity⟩) s = .next t ∧ OnlyCtl s t k { s.ctl k with reqs := (s.ctl k).reqs.filter (fun q => !(r.same q)) } ∧
        Wrote s t a (if 3 < parity then (s.freeBytes 256).2 ++ (mine.drop 1).flatMap MemReq.data else mine.flatMap MemReq.data) ∧
        { t with mem := s.mem, memErr := s.memErr, ddrKeyed := s.ddrKeyed, ctls := s.ctls, bays := s.bays, regs := s.regs,
                 free := s.free } = s ∧
        (∀ x, x ≠ r.bay → t.bay x = s.bay x) ∧
        t.bay r.bay = { s.bay r.bay with
          transfers := (s.bay r.bay).transfers.map (fun x =>
            if x.tag = r.tag ∧ x.write = true then { x with arrived := x.arrived + mine.length } else x) } ∧
        ∀ x, (∀ c, x ≠ aMem c 0x1C ∧ x ≠ aMem c 0x28) → t.reg x = s.reg x)) ∧
  (∀ (s : State) (b : Fin 48) (tag : Fin 128) (x : Transfer),
    (s.bay b).transfers.find? (fun t => decide (t.tag = tag.val)) = some x → x.arrived = x.blocks → (s.bay b).clk.stopped = false →
    ∃ t, Machine.exec (.streamTransferComplete b tag) s = .next t ∧ { t with bays := s.bays, regs := s.regs } = s ∧
      (∀ k, k ≠ b.val → t.bay k = s.bay k) ∧ (∀ a, a ≠ aBay b 0x300C → t.reg a = s.reg a) ∧
      t.bay b = { s.bay b with
        transfers := (s.bay b).transfers.filter (fun y => decide (y.tag ≠ tag.val))
        seBytes := ((s.bay b).seBytes + 256 * x.blocks) % 2 ^ 64
        started := (s.bay b).started.map (fun c => if c.id = x.cmd then { c with left := c.left - 1, done := c.done + 1 } else c) })

/-- A training HBM becomes ready, at the slower rate exactly when some stack fails at 8 Gb/s and none at 6.4 too, and
fails otherwise, its bytes zero; eight DDR sockets of one listed capacity become ready at the rate they manage, and
any other population or failure leaves DDR failed and its bytes zero. The self-test zeroes the scratchpads and records
each bay's repair and the bays beyond repair. The key installation gives slot 4 the device key and each tenant slot
its partition's seed. Each is noted in power-up or in the L4 reset that waits for it. The zero fill leaves every byte
of installed memory zero. A patrol walker of a ready wing reads its next block, forgets the errors of one that is
corrected, and moves on, wrapping after the last with one more pass; no byte changes.
(spec/10_memory_wings_and_streams.md Table 10.10; spec/10_memory_wings_and_streams.md Table 10.11;
spec/05_stagehands.md Table 5.10) -/
def Obligations.MemoryTrainsAndIsTended : Prop :=
  ∀ s : State,
    (∀ f8 f64 : BitVec 12, s.trainsNow 0 = true → ∃ u,
      Machine.exec (.hbmTraining f8 f64) s = .next (u.l4Did (fun r => { r with hbmDone := true })).trained ∧
        trainedAs s u 0 11 (if f8 &&& f64 = 0 then 2 else 3) (!(decide (f8 = 0))) 0 ∧
        LogWork { s with ctls := u.ctls, mem := u.mem, memErr := u.memErr, ddrKeyed := u.ddrKeyed } u ∧
        (if f8 &&& f64 = 0 then u.mem = s.mem ∧ u.memErr = s.memErr ∧ u.ddrKeyed = s.ddrKeyed else zeroed s u 0 hbmBytes)) ∧
    (∀ (gib : List Nat) (r128 : Bool) (f128 f88 : BitVec 8), s.trainsNow 12 = true →
      let slow := !r128 || decide (f128 ≠ 0)
      let ok := dimmsOk gib && !(slow && decide (f88 ≠ 0))
      ∃ u, Machine.exec (.ddrTraining gib r128 f128 f88) s = .next (u.l4Did (fun r => { r with ddrDone := true, keysBack := !ok })).trained ∧
        trainedAs s u 12 19 (if ok then 2 else 3) slow (if ok then sizeCode (gib.headD 0) else 0) ∧
        (ok = true → { u with ctls := s.ctls } = if s.power = .training then s.reserveReset (gib.headD 0) else s) ∧
        (ok = false → zeroed s u ddrBase (2 ^ 41) ∧ u.inter.snaps = [] ∧
          LogWork { s with ctls := u.ctls, mem := u.mem, memErr := u.memErr, ddrKeyed := u.ddrKeyed,
                           inter := { s.inter with snaps := [] } } u)) ∧
    (∀ (failed : List (Nat × Nat)), ∃ u, (∀ x, u.byte x = if spBase ≤ x then 0 else s.byte x) ∧
      (∀ b, b < 48 → s.bayActive b = true → u.reg (aBay b 0x1014) = repairOf (rowsOf failed b)) ∧
      u.badBays = (List.range 48).filter (fun b => s.bayActive b && bit (repairOf (rowsOf failed b)) 31) ∧
      LogWork { s with badBays := u.badBays, mem := u.mem, memErr := u.memErr, regs := u.regs } u ∧
      (∀ a, (∀ b, a ≠ aBay b 0x1014) → (∀ k, a ≠ aMbx k 0x0C) → u.reg a = s.reg a) ∧
      (∀ r, s.l4 = some r → r.tested = false →
        Machine.exec (.selfTest failed) s = .next (u.l4Did (fun r => { r with tested := true }))) ∧
      (∀ filled, s.l4 = none → s.power = .testing false filled →
        Machine.exec (.selfTest failed) s = .next { u with power := .testing true filled })) ∧
    (∃ u, { u with keySlots := s.keySlots, keyRanges := s.keyRanges } = s ∧ u.keyRanges = keyRangesOf s.liveCtxs ∧
      (∀ p, sget 0 u.keySlots p = if p = 4 then deviceKey else if p < 4 ∧ s.partUsed p = true then (s.part p).seed else 0) ∧
      (∀ r, s.l4 = some r → r.ddrDone = true → r.keysBack = false →
        Machine.exec .ddrKeyInstall s = .next (u.l4Did (fun r => { r with keysBack := true }))) ∧
      (∀ tested, s.l4 = none → s.power = .testing tested false → s.ddrReady = true → sget 0 s.keySlots 4 = 0 →
        Machine.exec .ddrKeyInstall s = .next u)) ∧
    (∀ tested : Bool, s.power = .testing tested false → s.ddrReady = false ∨ sget 0 s.keySlots 4 ≠ 0 →
      ∃ t, Machine.exec .zeroFill s = .next t ∧ t.power = .testing tested true ∧
        { t with mem := s.mem, memErr := s.memErr, ddrKeyed := s.ddrKeyed, regs := s.regs, power := s.power } = s ∧
        (∀ a, t.byte a = if a < s.installedHbm ∨ (ddrBase ≤ a ∧ a < ddrBase + s.installedDdr) then 0 else s.byte a) ∧
        ∀ a, (∀ c, a ≠ aMem c 0x1C) → t.reg a = s.reg a) ∧
    (∀ k : Fin 20, (s.ctl k).st = 2 → s.memFenced = false → s.on → (s.ctl k).patrol < s.ctlBlocks k →
      let a := ctlBlockAddr k (s.ctl k).patrol
      let last := decide ((s.ctl k).patrol + 1 = s.ctlBlocks k)
      ∃ t, Machine.exec (.patrolVisit k) s = .next t ∧
        t.ctl k = { s.ctl k with patrol := if last then 0 else (s.ctl k).patrol + 1 } ∧ (∀ j, j ≠ k.val → t.ctl j = s.ctl j) ∧
        t.reg (aMem k 0x20) = (if last then (s.reg (aMem k 0x20) + 1) &&& 0xFFFF else s.reg (aMem k 0x20)) ∧
        LogWork { s with ctls := t.ctls, regs := t.regs, memErr := t.memErr } t ∧
        (∀ x, sget 0 t.memErr x = if s.blockErr a = 1 ∧ a / 256 * 32 ≤ x ∧ x < a / 256 * 32 + 32 then 0 else sget 0 s.memErr x) ∧
        ∀ x, (∀ c, ∀ o ∈ [0x04, 0x08, 0x0C, 0x10, 0x18, 0x1C, 0x20], x ≠ aMem c o) → (∀ n, x ≠ aMbx n 0x0C) → t.reg x = s.reg x)

/-- A running bay clock above its target moves down one code at once, below it up one code no sooner than 1 µs after its
last move; a droop lengthens the next period of a running clock. With the limit adaptive, 64 stretched periods in a
row lower it by five codes, a window with more than 256 by one, and sixteen windows in a row with at most 16 raise it
by one, to at most 0x5A; without, a window only ends. A source of throttling with the rails on is noted, and its first
counted and logged; its end is noted. Loss of the reference puts every bay on its own oscillator and takes the links
and PTP down; after it the monitor can report it good. A wake starts a stopped clock at the lower of code and target,
one stopped in the same instant as it was; autostop stops an idle bay's clock that no wake of the instant holds; an
event has crossed. Reads latch the upper words. Beside what is named here nothing changes but logs and their alerts.
(spec/11_clocks_and_crossings.md Table 11.2; spec/11_clocks_and_crossings.md Table 11.4;
spec/11_clocks_and_crossings.md Table 11.5) -/
def Obligations.ClocksFollowTheirRules : Prop :=
  ∀ s : State,
    (∀ (b : Fin 48), (s.bay b).clk.stopped = false → (s.bay b).clk.fallback = false →
      (s.target b < (s.bay b).clk.code → Machine.exec (.frequencyMove b) s =
        .next (s.withClk b { (s.bay b).clk with code := (s.bay b).clk.code - 1, moved := s.clock.house })) ∧
      ((s.bay b).clk.code < s.target b → (s.bay b).clk.moved + 1000 ≤ s.clock.house → Machine.exec (.frequencyMove b) s =
        .next (s.withClk b { (s.bay b).clk with code := (s.bay b).clk.code + 1, moved := s.clock.house }))) ∧
    (∀ (b : Fin 48) (deep : Bool), (s.bay b).clk.stopped = false → Machine.exec (.droopStretch b deep) s =
      .next (s.withClk b { (s.bay b).clk with nextEighths := max (s.bay b).clk.nextEighths (if deep then 10 else 9) })) ∧
    (∀ b : Fin 48, s.adapt b = true → 64 ≤ (s.bay b).clk.runLen → ∃ t, Machine.exec (.adaptiveDrop b) s = .next t ∧
      ClkStep s t b { (s.bay b).clk with alimit := (s.bay b).clk.alimit - 5, runLen := (s.bay b).clk.runLen - 64 }
        (min (s.bay b).clk.alimit 5)) ∧
    (∀ b : Fin 48, (s.bay b).clk.winStart + 16384 ≤ (s.bay b).clk.cyc →
      let c := (s.bay b).clk
      let q := if c.winStretch ≤ 16 then c.quiet + 1 else 0
      let w := { c with winStart := c.winStart + 16384, winStretch := 0, quiet := if s.adapt b then q % 16 else 0 }
      ∃ t, Machine.exec (.adaptiveWindow b) s = .next t ∧ ClkStep s t b
        { w with alimit := if s.adapt b = true ∧ 256 < c.winStretch then c.alimit - 1
                           else if s.adapt b = true ∧ q = 16 then min 0x5A (c.alimit + 1) else c.alimit }
        (if s.adapt b = true ∧ 256 < c.winStretch then min c.alimit 1 else 0)) ∧
    (∀ supply : Bool, s.on → (if supply then s.clock.thrSupply else s.clock.thrPin) = false →
      ∃ t, Machine.exec (.throttleStart supply) s = .next t ∧
        t.clock = { s.clock with thrSupply := s.clock.thrSupply || supply, thrPin := s.clock.thrPin || !supply } ∧
        LogWork { s with clock := t.clock, regs := t.regs, pins := { s.pins with throttleN := if supply then s.pins.throttleN else false } } t ∧
        ∀ a, (∀ k, a ≠ aMbx k 0x0C) → t.reg a = if a = aClk 0x24 ∧ s.throttling = false then satInc (s.reg a) 1 else s.reg a) ∧
    (∀ supply : Bool, s.ymr.dieOn = false ∨ (if supply then s.clock.thrSupply else s.clock.thrPin) = true →
      Machine.exec (.throttleStart supply) s =
        .next { s with pins := { s.pins with throttleN := if supply then s.pins.throttleN else false } }) ∧
    Machine.exec (.throttleEnd false) s =
      .next { s with pins := { s.pins with throttleN := true }, clock := { s.clock with thrPin := false } } ∧
    (s.clock.sag = none → s.clock.sagEnd + 1000000 ≤ s.clock.house →
      Machine.exec (.throttleEnd true) s = .next { s with clock := { s.clock with thrSupply := false } }) ∧
    (s.on → ∃ t, Machine.exec .referenceLoss s = .next t ∧
      (∀ b, t.bay b = if b < 48 then { s.bay b with clk := { (s.bay b).clk with fallback := true } } else s.bay b) ∧
      t.clock = { s.clock with refLost := true, refOk := false, trim := if s.chain.head then 0 else s.clock.trim } ∧
      (∀ e, t.port e = if (s.port e).up then { s.port e with up := false, downSince := s.clock.house } else s.port e) ∧
      { t.chain with w := s.chain.w, e := s.chain.e } = s.chain ∧
      t.eth = { s.eth with link := false, ptpGood := 0, ptpMaster := none, ptpDelay := 0, ptpSync := none, ptpReq := none } ∧
      LogWork { s with bays := t.bays, clock := t.clock, chain := t.chain, eth := t.eth, regs := t.regs } t ∧
      ∀ a, (∀ k, a ≠ aMbx k 0x0C) → t.reg a =
        if a = aClk 0x20 ∨ (a = aChn false 0x24 ∧ (s.port false).up = true) ∨ (a = aChn true 0x24 ∧ (s.port true).up = true)
        then satInc (s.reg a) 1 else s.reg a) ∧
    (s.clock.refLost = true → Machine.exec .referenceOk s = .next { s with clock := { s.clock with refOk := true } }) ∧
    (∀ b : Fin 48,
      let c := { (s.bay b).clk with woke := some s.clock.uptime, wakeEv := (s.bay b).clk.wakeEv || (s.bay b).clk.stopped }
      let starts := (s.bay b).clk.stopped && !(decide ((s.bay b).clk.stopAt = some s.clock.uptime))
      ∃ t, Machine.exec (.wakeRequest b) s = .next t ∧ { t with bays := s.bays, regs := s.regs } = s ∧
        (∀ k, k ≠ b.val → t.bay k = s.bay k) ∧
        t.bay b = { s.bay b with clk := if starts then { c with stopped := false, code := min c.code (s.target b), busyCyc := c.cyc, phase := 0 }
                                        else { c with stopped := false } } ∧
        ∀ a, t.reg a = if a = aClk 0x1C ∧ (s.bay b).clk.wakeEv = true then s.reg a ||| 1
          else if a = aBay b 0x4010 ∧ starts = true then satInc (s.reg a) 1 else s.reg a) ∧
    (∀ b : Fin 48, bit (s.clkcfg b) 9 = true → (s.bay b).clk.stopped = false → s.bayIdle b = true →
      (s.bay b).clk.busyCyc + 4096 ≤ (s.bay b).clk.cyc → s.on → (s.bay b).clk.woke ≠ some s.clock.uptime →
      Machine.exec (.autostop b) s = .next (s.withClk b { (s.bay b).clk with stopped := true, stopAt := some s.clock.uptime })) ∧
    (∀ x : EventXing, Machine.exec (.eventCrossing x) s = .next (match x with
      | .wake b => s.withClk b { (s.bay b).clk with wakeEv := false }
      | .scrubWake b => s.withClk b { (s.bay b).clk with scrubEv := false }
      | .fltNotify => { s with clock := { s.clock with faultEv := false } }
      | .mailbox n => s.setMail n { s.mail n with doorbell := false })) ∧
    (s.on → Machine.exec .clkHtLoRead s =
      .next { s with clock := { s.clock with latch := BitVec.ofNat 32 (s.clock.house / 2 ^ 32) } }) ∧
    (∀ b : Fin 48, s.on → ∃ u, BayAccess s u b [] ∧ Machine.exec (.bayCycLoRead b) s =
      .next (u.withClk b { (u.bay b).clk with latch := BitVec.ofNat 32 ((s.bay b).clk.cyc / 2 ^ 32) }))

/-- With the port up: an unsupported frame, a bad packet, and one of no connection that may not open one, are dropped and
counted; other protocols of Table 12.1 are answered and learnt from. A packet that opens a connection, and a data
packet of a known one, deliver what is in order and keep what is ahead; an acknowledgement ends the packets it names,
opens the window, and has missing ones sent again. An acknowledgement is due 2 us after an unacknowledged packet, a
retransmission 20 us (class 7) or 100 us after the last sending, at most 16 sendings; then the connection is down.
Egress sends the frame that the class order picks, as a packet of its connection, which it opens if there is none; a
connection whose XSEQ runs out is closed first, what it has unacknowledged waiting again. PFC pauses classes 3 and 5
only. The link goes down with PTP and comes up with the reference good. A Sync of the transmitter in force, or one
before it, gives an offset (stamps within 8 ns, free values: log entry 197); the chain head steps house time by more
than 1 us when no context runs, else trims it. The cluster root holds an arrival until all are in, then sends RELEASE
to the other members; a release of another epoch does nothing, one that finds its chain complete releases it, one that
comes early is kept. Nothing else changes but counts and logs. (spec/12_ethernet_and_command_protocol.md Table 12.1;
spec/12_ethernet_and_command_protocol.md Table 12.2; spec/12_ethernet_and_command_protocol.md Table 12.3;
spec/12_ethernet_and_command_protocol.md Table 12.8) -/
def Obligations.EthernetPortFollowsItsRules : Prop :=
  ∀ s : State,
    (∀ f : FrameInfo, s.ethUp = true → f.forUs = true →
      (s.frameOk f = false → Machine.exec (.frameReceive f) s = .next s.ethDrop) ∧
      (s.frameOk f = true → ∃ t, Machine.exec (.frameReceive f) s = .next t ∧ OnlyEth s t { s.eth with
        neighbours := match f.proto with
          | .solicit _ | .advert | .router _ => if s.eth.neighbours.contains f.src then s.eth.neighbours else s.eth.neighbours ++ [f.src]
          | _ => s.eth.neighbours
        slaac := match f.proto with
          | .router p => some (BitVec.ofNat 128 (p.toNat * 2 ^ 64 + linkLocal s.fuse.mac.toNat % 2 ^ 64))
          | _ => s.eth.slaac
        egress := s.eth.egress ++ match f.proto with
          | .solicit a => if s.ownAddrs.contains a then [waitsFor 3 6 f.src (toLE 16 a ++ toLE 6 s.fuse.mac.toNat) s.clock.house] else []
          | .echo => if s.ownAddrs.contains f.dst then [waitsFor 3 6 f.src f.bytes s.clock.house] else []
          | _ => [] })) ∧
    (∀ p : TransPkt, s.ethUp = true → p.version ≠ 1 ∨ classWindow p.cls = 0 ∨ (p.cls ≠ 6 ∧ p.tagOk = false) →
      Machine.exec (.transportPacket p) s = .next s.ethDrop) ∧
    (∀ p : TransPkt, PacketGood s p → s.eth.find p.peer p.cls p.conn = none →
      (p.opening = false ∨ p.psn ≠ 0 ∨ 256 ≤ s.eth.conns.length ∨ (p.cls ≠ 6 ∧ (s.ymrUp = false ∨ s.canSign = false)) →
        Machine.exec (.transportPacket p) s = .next s.ethDrop) ∧
      (p.opening = true → p.psn = 0 → s.eth.conns.length < 256 → p.cls = 6 ∨ (s.ymrUp = true ∧ s.canSign = true) →
        p.data = true → p.ack = false → ∃ t, Machine.exec (.transportPacket p) s = .next t ∧
          t.eth.conns = s.eth.conns ++ [{ Conn.fresh p.peer p.cls p.conn false (s.openKey p.cls) with
            rxNext := 1, rxSince := s.clock.house, rxUnacked := 1 }] ∧
          t.eth.delivered = s.eth.delivered ++ [(p.cls, p.peer, p.payload)] ∧ t.eth.egress = s.eth.egress ∧
          (if p.cls = 6 then { t with eth := s.eth } = s else SignWork { s with eth := t.eth } t 1))) ∧
    (∀ (p : TransPkt) (i : Nat) (c : Conn), PacketGood s p → s.eth.find p.peer p.cls p.conn = some i → s.eth.conns[i]? = some c →
      (p.data = true → (p.ack = true → p.sack = 0) →
        let k := (c.acked p).takes p
        ∃ t, Machine.exec (.transportPacket p) s = .next t ∧ { t with eth := s.eth } = s ∧
          { t.eth with conns := s.eth.conns, delivered := s.eth.delivered, egress := s.eth.egress, wire := s.eth.wire,
                       pausing3 := s.eth.pausing3, pausing5 := s.eth.pausing5 } = s.eth ∧
          t.eth.conns = listSet s.eth.conns i { k.1 with
            rxSince := if c.rxUnacked = 0 then s.clock.house else c.rxSince
            rxUnacked := if 15 ≤ c.rxUnacked then 0 else c.rxUnacked + 1 } ∧
          t.eth.delivered = s.eth.delivered ++ k.2.map (fun bs => (c.cls, c.peer, bs)) ∧
          t.eth.egress = s.eth.egress ++ (if 15 ≤ c.rxUnacked then [c.waits 2 0 [] s.clock.house] else []) ∧
          (c.cls = 3 → t.eth.pausing3 = decide (Config.rxCapacity 3 ≤ t.eth.buffered 3)) ∧
          (c.cls = 5 → t.eth.pausing5 = decide (Config.rxCapacity 5 ≤ t.eth.buffered 5)) ∧
          (p.psn = c.rxNext → c.rxBuf = [] → k.2 = [p.payload] ∧ k.1.rxNext = c.rxNext + 1)) ∧
      (p.data = false → p.ack = true → (c.txUnacked.map TxPkt.psn).Nodup → (∀ x ∈ c.missing p, x.tries < 16) →
        ∃ t, Machine.exec (.transportPacket p) s = .next t ∧ { t with eth := s.eth, regs := s.regs, ymr := s.ymr } = s ∧
          { t.ymr with lrHist := s.ymr.lrHist } = s.ymr ∧ (∀ a, a ≠ aEth 0x34 → t.reg a = s.reg a) ∧
          t.eth = { s.eth with
            conns := listSet s.eth.conns i { c.acked p with txUnacked := (c.acked p).txUnacked.map (fun x =>
              if x ∈ c.missing p then { x with sent := s.clock.house, tries := x.tries + 1 } else x) }
            egress := s.eth.egress ++ (c.missing p).map (fun x => c.waits 1 x.psn x.payload s.clock.house) })) ∧
    (∀ i c, s.eth.conns[i]? = some c →
      (0 < c.rxUnacked → c.rxSince + 2000 ≤ s.clock.house → ∃ t, Machine.exec (.ackTimer i) s = .next t ∧ OnlyEth s t { s.eth with
        conns := listSet s.eth.conns i { c with rxUnacked := 0 }
        egress := s.eth.egress ++ [c.waits 2 0 [] s.clock.house] }) ∧
      (∀ psn x, c.txUnacked.find? (fun x => decide (x.psn = psn)) = some x →
        x.sent + (if c.cls = 7 then 20000 else 100000) ≤ s.clock.house →
        ∃ t, Machine.exec (.retransmitTimer i psn) s = .next t ∧
          (x.tries < 16 → { t with eth := s.eth, regs := s.regs, ymr := s.ymr } = s ∧
            { t.ymr with lrHist := s.ymr.lrHist } = s.ymr ∧ (∀ a, t.reg a = if a = aEth 0x34 then satInc (s.reg a) 1 else s.reg a) ∧
            t.eth = { s.eth with
              conns := listSet s.eth.conns i { c with txUnacked := c.txUnacked.map (fun y =>
                if y.psn = psn then { y with sent := s.clock.house, tries := y.tries + 1 } else y) }
              egress := s.eth.egress ++ [c.waits 1 psn x.payload s.clock.house] }) ∧
          (16 ≤ x.tries → LogWork { s with eth := t.eth } t ∧ t.eth.conns = listDrop s.eth.conns i ∧
            { t.eth with conns := s.eth.conns, egress := s.eth.egress } = s.eth ∧
            t.eth.egress = s.eth.egress.filter (fun m => decide (m.kind = 3 ∨ m.peer ≠ c.peer ∨ m.cls ≠ c.cls ∨ (m.kind ≠ 0 ∧ m.conn ≠ c.conn))))))∧
    (∀ i m, s.ethUp = true → s.eth.pick = some i → s.eth.egress[i]? = some m →
      (m.kind = 3 → ∃ t, Machine.exec .egressFrame s = .next t ∧ { t with eth := s.eth, regs := s.regs } = s ∧
        LeftPort s t m s.eth.conns (listDrop s.eth.egress i) [{ peer := m.peer, prio := m.cls, vid := s.ethVid, body := .control m.payload }]) ∧
      (∀ j c, s.eth.conns[j]? = some c → m.kind ≠ 3 →
        (if m.kind = 0 then s.eth.connFor m.peer m.cls m.conn else s.eth.find m.peer m.cls m.conn) = some j →
        ∃ t, Machine.exec .egressFrame s = .next t ∧ { t with eth := s.eth, regs := s.regs } = s ∧
          (c.cls = 6 ∨ c.xseq + 1 < 2 ^ 32 →
            LeftPort s t m (listSet s.eth.conns j (c.sends m s.clock.house)) (listDrop s.eth.egress i) [s.sentOn c m]) ∧
          (c.cls ≠ 6 → 2 ^ 32 ≤ c.xseq + 1 → LeftPort s t m (listDrop s.eth.conns j)
            (c.txUnacked.map (fun x => waitsFor 0 c.cls c.peer x.payload s.clock.house) ++ (listDrop s.eth.egress i).filter (fun m =>
              decide ((m.kind ≠ 1 ∧ m.kind ≠ 2) ∨ m.peer ≠ c.peer ∨ m.cls ≠ c.cls ∨ m.conn ≠ c.conn))) [])) ∧
      (m.kind = 0 → s.eth.connFor m.peer m.cls m.conn = none → s.canOpen m.cls = true →
        let c := Conn.fresh m.peer m.cls (s.eth.nextConn m.peer m.cls m.conn) true (s.openKey m.cls)
        ∃ t, Machine.exec .egressFrame s = .next t ∧
          t.eth = { s.eth with
            egress := listDrop s.eth.egress i, conns := s.eth.conns ++ [c.sends m s.clock.house]
            wire := s.eth.wire ++ [s.sentOn c m] } ∧
          (if m.cls = 6 then { t with eth := s.eth } = s else SignWork { s with regs := t.regs, eth := t.eth } t 1))) ∧
    (∀ (prio : Fin 8) (pause : Bool), s.ethUp = true → Machine.exec (.pfcFrame prio pause) s =
      .next (if prio = 3 then { s with eth := { s.eth with paused3 := pause } }
        else if prio = 5 then { s with eth := { s.eth with paused5 := pause } } else s.countSat (aEth 0x44) 1)) ∧
    Machine.exec .ethLinkDown s = .next { s with
      eth := { s.eth with link := false, ptpGood := 0, ptpMaster := none, ptpDelay := 0, ptpSync := none, ptpReq := none }
      clock := { s.clock with trim := if s.chain.head then 0 else s.clock.trim } } ∧
    (∀ full : Bool, s.on → s.clock.refLost = false → full = true ∨ bit s.ethCfg 15 = true →
      Machine.exec (.ethLinkTrained full) s = .next { s with eth := { s.eth with link := true, slow := !full } }) ∧
    (∀ m : SyncMsg, s.ethUp = true → bit s.ethCfg 14 = true → m.domain.toNat = fld (s.reg (aEth 0x08)) 7 0 →
      s.eth.ptpMaster = some m.data ∨ s.eth.ptpMaster.elim true (fun d => ptpBefore m.data d) = true →
      let delay := if s.eth.ptpMaster = some m.data then s.eth.pathDelay m.response else 0
      let got : Int := (s.clock.house : Int) + ((Config.freeValue 8 s.free).toNat % 17 : Nat) - 8
      let off := got - m.sent - delay
      let steps := s.chain.head && decide (1000 < off.natAbs) && !s.dieRuns
      let house := if steps then ((s.clock.house : Int) - off).toNat else s.clock.house
      ∃ t, Machine.exec (.syncMessage m) s = .next t ∧ { t with eth := s.eth, clock := s.clock, free := s.free } = s ∧ t.free = s.free + 2 ∧
        t.clock = { s.clock with
          house := house, frac := if steps then 0 else s.clock.frac
          trim := if !s.chain.head then s.clock.trim else if steps then 0 else if off.natAbs < 10 then 0 else if 0 < off then -25000 else 25000 } ∧
        t.eth = { s.eth with
          ptpOffset := off, ptpGood := if off.natAbs < 100 then min 16 (s.eth.ptpGood + 1) else 0, ptpMaster := some m.data, ptpDelay := delay
          ptpSync := if steps then none else some (m.sent, got)
          ptpReq := some ((house : Int) + ((Config.freeValue 8 (s.free + 1)).toNat % 17 : Nat) - 8)
          egress := s.eth.egress ++ [waitsFor 3 6 m.data.source [] house] }) ∧
    (∀ m : CurtMsg, s.ethUp = true → (s.cast m.cast).ethernet = true →
      (m.kind = 1 → s.ownAddrs.contains ((s.cast m.cast).members.getD 0 0) = true →
        let held := s.eth.arrives.filter (fun x => sameCurt x m)
        let all := if held.any (fun x => decide (x.src = m.src)) then held else held ++ [m]
        let rest := s.eth.arrives.filter (fun x => !(sameCurt x m))
        let tell := ((s.cast m.cast).members.filter (fun a => !(s.ownAddrs.contains a))).map (fun a =>
          waitsFor 0 7 a (curtMsgBytes (releaseOf m all)) s.clock.house)
        (m.epoch ≠ (s.cast m.cast).epoch ∨ (s.cast m.cast).members.length ≤ m.src →
          Machine.exec (.clusterArrive m) s = .next (s.reclose m.part m.curtain)) ∧
        (m.epoch = (s.cast m.cast).epoch → m.src < (s.cast m.cast).members.length →
          Machine.exec (.clusterArrive m) s = .next (State.reclose
            (if all.length < (s.cast m.cast).members.length then { s with eth := { s.eth with arrives := rest ++ all } }
             else State.clusterReleased { s with eth := { s.eth with arrives := rest, egress := s.eth.egress ++ tell } } (releaseOf m all))
            m.part m.curtain))) ∧
      (m.kind = 2 →
        let hit := s.chain.arrives.find? (fun c => decide (c.part = m.part) && decide (c.curtain = m.curtain) &&
          decide (c.uplink = some m.cast) && s.arrivesAll c)
        (m.epoch ≠ (s.cast m.cast).epoch → Machine.exec (.clusterRelease m) s = .next (s.reclose m.part m.curtain)) ∧
        (m.epoch = (s.cast m.cast).epoch → hit = none → Machine.exec (.clusterRelease m) s = .next (State.reclose
          { s with eth := { s.eth with releases := s.eth.releases.filter (fun x => decide (x.2 = s.clock.house)) ++ [(m, s.clock.house)] } }
          m.part m.curtain)) ∧
        (∀ c, m.epoch = (s.cast m.cast).epoch → hit = some c → Machine.exec (.clusterRelease m) s = .next (State.reclose
          (State.releaseChain { s with chain := { s.chain with arrives := s.chain.arrives.filter (fun x => !(sameArrive x c)) } }
            { c with kind := 2, payload := m.payload, src := s.chain.addr.getD 0 })
          m.part m.curtain))))

/-- Under a session whose role may use the opcode, and for DISCOVER, ATTEST, SESSION_OPEN and HEALTH from any sender:
DISCOVER is answered with the module's identity; ATTEST with the report and its signature, or ST_AUTH once it cannot
sign; SESSION_OPEN with ST_BUSY at 16 sessions, ST_AUTH when the credential fails or it cannot sign, and else by a new
session of the role with its key, under a signed reply; SESSION_CLOSE by ending the session; HEALTH and LOG_READ with
what they hold. REG_READ and REG_WRITE of no register are answered ST_OK, of ones that their checks refuse with the
status, else the registers are read or written in order; an access that gets no answer ends so too, with ST_TIMEOUT.
MEM_READ answers the bytes of its blocks, zeros and a bit for a lost one; MEM_WRITE stores its bytes and changes no
other byte. FW_STAGE puts the image into the inactive slot and cancels a pending commit; FW_COMMIT makes it pending
exactly when every check passes, else answers the failing check's status and logs it; both then set YMR_ALERT.FW. A
session without a request for 300 s is closed. Beside that only counts, logs and free values (nonces, keys) change.
(spec/12_ethernet_and_command_protocol.md Table 12.6; spec/14_yemir_and_security.md Table 14.11;
spec/14_yemir_and_security.md Table 14.4) -/
def Obligations.RequestsAboutTheModule : Prop :=
  ∀ s : State,
    (∀ (h g : PcpHdr) (v : State), AskedBy s h 0x01 0 v g → Machine.exec (.discover h) s = .next (v.reply g 0x01 stOk
      (regBytes s [0x0, 0x4, 0x8, 0xC] ++ toLE 1 (s.chain.addr.getD 0xFF) ++ toLE 1 s.ymr.st ++
        toLE 1 (b2n (s.eth.link && s.eth.slow)) ++ [0] ++ s.identDigest ++ toLE 4 s.activeFw.version.toNat))) ∧
    (∀ (h g : PcpHdr) (v : State), AskedBy s h 0x38 0 v g →
      Machine.exec (.health h) s = .next (v.reply g 0x38 stOk (v.health (v.roleOf g)))) ∧
    (∀ (h g : PcpHdr) (v : State) (nonce : Nat) (mask : BitVec 8), AskedBy s h 0x02 40 v g →
      (s.canSign = true → ∃ u, SignWork v u 0 ∧ Machine.exec (.attest h nonce mask) s =
        .next (u.reply g 0x02 stOk (v.report nonce mask ++ v.signature (v.report nonce mask)))) ∧
      (s.canSign = false → Machine.exec (.attest h nonce mask) s = .next (v.reply g 0x02 stAuth []))) ∧
    (∀ (h g : PcpHdr) (v : State) (role encap nonce : Nat) (c : Credential), AskedBy s h 0x03 1608 v g →
      (16 ≤ s.ymr.sessions.length → Machine.exec (.sessionOpen h role encap nonce c) s = .next (v.reply g 0x03 stBusy [])) ∧
      (s.ymr.sessions.length < 16 → s.credentialOk role h.body c = false →
        Machine.exec (.sessionOpen h role encap nonce c) s = .next ((v.authFail role 10).reply g 0x03 stAuth [])) ∧
      (s.ymr.sessions.length < 16 → s.credentialOk role h.body c = true → s.canSign = false →
        Machine.exec (.sessionOpen h role encap nonce c) s = .next (({ v with free := v.free + 34 } : State).reply g 0x03 stAuth [])) ∧
      (s.ymr.sessions.length < 16 → s.credentialOk role h.body c = true → s.canSign = true →
        let dn := (v.freeBytes 32).2
        let id := unusedId (v.ymr.sessions.map Session.id) 18 (Config.freeValue 64 (v.free + 32))
        let r := fitTo 1568 (Config.kemCiphertext encap (v.free + 33)) ++ dn ++ toLE 8 id.toNat
        ∃ u, SignWork v u 34 ∧ Machine.exec (.sessionOpen h role encap nonce c) s =
          .next ((u.reply g 0x03 stOk (r ++ v.signature (h.body ++ r))).withSession
            { id := id, role := role, peer := h.peer, lastSeq := none, lastTime := s.now, tenantGen := c.tenantGen,
              key := sessionKey (Config.kemSecret encap (v.free + 33)) nonce dn id, open_ := 0 }))) ∧
    (∀ (h : PcpHdr) (x : Session), Asks s h x 0x04 .session 0 → ∃ u, u = (s.accept h x).reply h 0x04 stOk [] ∧
      Machine.exec (.sessionClose h) s =
        .next { u with ymr := { u.ymr with sessions := u.ymr.sessions.filter (fun y => decide (y.id ≠ h.session)) } }) ∧
    (∀ i x, s.ymrUp = true → s.ymr.sessions[i]? = some x → x.lastTime + 300000000000 ≤ (s.now : Int) → Machine.exec (.sessionIdleTimeout i) s =
      .next { s with ymr := { s.ymr with sessions := s.ymr.sessions.filter (fun y => decide (y.id ≠ x.id)) } }) ∧
    (∀ (h : PcpHdr) (x : Session) (addr count : Nat), Asks s h x 0x10 .session 6 →
      let v := s.accept h x
      let l := regAddrs addr (count % 2048)
      (l = [] → Machine.exec (.regRead h addr count) s = .next (v.reply h 0x10 stOk [])) ∧
      (v.regStatus h false l ≠ stOk → Machine.exec (.regRead h addr count) s = .next (v.reply h 0x10 (v.regStatus h false l) [])) ∧
      (l ≠ [] → v.regStatus h false l = stOk → Machine.exec (.regRead h addr count) s =
        .next ((v.readRegs l).1.reply h 0x10 stOk (((v.readRegs l).2.map (fun w => toLE 4 w.toNat)).flatten)))) ∧
    (∀ (h : PcpHdr) (x : Session) (addr count : Nat) (vs : List Word),
      Asks s h x 0x11 .owner (if count % 2048 = 0 then 6 else 8 + 4 * (count % 2048)) →
      let v := s.accept h x
      let l := regAddrs addr (count % 2048)
      (l = [] → Machine.exec (.regWrite h addr count vs) s = .next (v.reply h 0x11 stOk [])) ∧
      (v.regStatus h true l ≠ stOk → Machine.exec (.regWrite h addr count vs) s = .next (v.reply h 0x11 (v.regStatus h true l) [])) ∧
      (l ≠ [] → v.regStatus h true l = stOk → Machine.exec (.regWrite h addr count vs) s = .next ((v.writeRegs l vs).reply h 0x11 stOk []))) ∧
    (∀ (h : PcpHdr) (x : Session) (write : Bool) (addr : Nat) (vs : List Word),
      Asks s h x (if write then 0x11 else 0x10) (if write then .owner else .session) 6 →
      let v := s.accept h x
      let l := regAddrs addr vs.length
      (v.regStatus h write l ≠ stOk → Machine.exec (.registerAccessTimeout h write addr vs) s =
        .next (v.reply h (if write then 0x11 else 0x10) (v.regStatus h write l) [])) ∧
      (v.regStatus h write l = stOk → Machine.exec (.registerAccessTimeout h write addr vs) s =
        .next ((if write then v.writeRegs l vs else (v.readRegs l).1).reply h (if write then 0x11 else 0x10) stTimeout []))) ∧
    (∀ (h : PcpHdr) (x : Session) (addr count : Nat), Asks s h x 0x12 .tenant 9 →
      let v := s.accept h x
      let l := blockAddrs addr (count % 32)
      (l = [] → Machine.exec (.memRead h addr count) s = .next (v.reply h 0x12 stOk [])) ∧
      (l ≠ [] → v.memStatus h addr (count % 32) ≠ stOk →
        Machine.exec (.memRead h addr count) s = .next (v.reply h 0x12 (v.memStatus h addr (count % 32)) [])) ∧
      (l ≠ [] → v.memStatus h addr (count % 32) = stOk → ∃ u, LogWork { v with regs := u.regs, bays := u.bays } u ∧
        (∀ b, { u.bay b with writeBack := (v.bay b).writeBack } = v.bay b) ∧
        Machine.exec (.memRead h addr count) s = .next (u.reply h 0x12 stOk (toLE 4 (v.lostBits l) ++ l.flatMap v.blockAnswer)))) ∧
    (∀ (h : PcpHdr) (x : Session) (addr count : Nat) (data : List Byte),
      Asks s h x 0x13 .tenant (if count % 32 = 0 then 9 else 16 + 256 * (count % 32)) →
      let v := s.accept h x
      let n := count % 32
      (n = 0 → Machine.exec (.memWrite h addr count data) s = .next (v.reply h 0x13 stOk [])) ∧
      (n ≠ 0 → v.memStatus h addr n ≠ stOk → Machine.exec (.memWrite h addr count data) s = .next (v.reply h 0x13 (v.memStatus h addr n) [])) ∧
      (n ≠ 0 → v.memStatus h addr n = stOk → ∃ u, Wrote v u addr (fitTo (256 * n) data) ∧ WriteWork v u ∧
        Machine.exec (.memWrite h addr count data) s = .next ((u.snapWrite addr n (fitTo (256 * n) data)).reply h 0x13 stOk []))) ∧
    (∀ (h : PcpHdr) (x : Session) (first max : Nat), Asks s h x 0x39 .session 9 → Machine.exec (.logRead h first max) s =
      .next ((s.accept h x).reply h 0x39 stOk
        (((s.ymr.log.filter (fun e => decide (first ≤ e.number))).take (max % 256)).map LogEntry.bytes).flatten)) ∧
    (∀ (h : PcpHdr) (x : Session) (offset : Nat) (image : List Byte), Asks s h x 0x3A .owner 8 →
      let v := s.accept h x
      (image = [] → Machine.exec (.fwStage h offset image) s = .next (v.reply h 0x3A stOk [])) ∧
      (image ≠ [] → fwSlotBytes < offset + image.length → Machine.exec (.fwStage h offset image) s = .next (v.reply h 0x3A stRange [])) ∧
      (image ≠ [] → offset + image.length ≤ fwSlotBytes → Machine.exec (.fwStage h offset image) s = .next ((v.setInactiveFw
        { s.inactiveFw with valid := false, pending := false, fails := 0, image := putImage s.inactiveFw.image offset image }).reply h 0x3A stOk []))) ∧
    (∀ (h : PcpHdr) (x : Session) (length : Nat), Asks s h x 0x3B .owner 4 →
      let v := s.accept h x
      let f := s.inactiveFw
      (length = 0 → Machine.exec (.fwCommit h length) s = .next (v.reply h 0x3B stOk [])) ∧
      (∀ k st, length ≠ 0 → s.fwBad f length = some (k, st) → Machine.exec (.fwCommit h length) s =
        .next (((v.logEvent 0x0009 whereModule k).setAlert 0x20).reply h 0x3B st [])) ∧
      (length ≠ 0 → s.fwBad f length = none → Machine.exec (.fwCommit h length) s = .next (((v.setInactiveFw
        { f with valid := true, version := BitVec.ofNat 32 (f.num 8 4), rollback := f.num 12 1 % 64, advance := (f.num 13 1).testBit 0,
                 pending := true, fails := 0 }).setAlert 0x20).reply h 0x3B stOk [])))

/-- Under a session whose role may use the opcode: LOAD_BOOK is answered ST_BUSY but of a created context, ST_RANGE when
the image lies outside the quota or where the book will stand, the failing check's status when one fails, and else
loads the book, leaving the context stopped with the book's measurement. PATCH of a created or running context is
ST_BUSY, with an entry that may not be bound ST_RANGE; else it binds its entries in order, each rewriting the fields
of its symbol. CTX_CREATE answers the status of its checks, and when they pass makes the record it asks for.
CTX_DESTROY of a context that is not running leaves none there and its HBM quota zero; a running one is ST_BUSY. START
starts a stopped context whose symbols are bound, else ST_RANGE, and is ST_BUSY while created or faulted. STOP of a
running context waits for its boundary and is not answered yet; a started one stops at once; any other is stopped. Its
TIMEOUT answers ST_TIMEOUT. DOORBELL of a created or faulted context is ST_BUSY, else adds credit in every cue
processor of the partition, at most to the largest number. CAST_SET answers the status of its checks, and when they
pass sets the list and the epoch that each bound context holds. Of the states of contexts and of memory these name
what changes. (spec/12_ethernet_and_command_protocol.md Table 12.6; spec/09_prompt_books_and_call_sheets.md Table 9.7;
spec/08_gradient_exchange.md Table 8.1) -/
def Obligations.RequestsAboutContexts : Prop :=
  ∀ (s : State) (h : PcpHdr) (x : Session),
    let p := hdrPart h
    let c := hdrCtx h
    let v := s.accept h x
    let k := s.ctx p c
    (∀ addr length, Asks s h x 0x20 .tenant 16 → NamesCtx s h →
      let bs := s.memBytes addr length
      let r := v.readBlocks (blocksOf addr length)
      (k.st ≠ 1 → Machine.exec (.loadBook h addr length) s = .next (v.reply h 0x20 stBusy [])) ∧
      (k.st = 1 → k.hbmOk addr length = false → Machine.exec (.loadBook h addr length) s = .next (v.reply h 0x20 stRange [])) ∧
      (∀ b, k.st = 1 → k.hbmOk addr length = true → r.2 = some b →
        Machine.exec (.loadBook h addr length) s = .next (r.1.reply h 0x20 stMalformed (loadReply 12 (b - addr) []))) ∧
      (k.st = 1 → k.hbmOk addr length = true → r.2 = none → ReadWork v r.1 ∧
        (addr < k.hbmBase + bkHbmNeed bs → Machine.exec (.loadBook h addr length) s = .next (r.1.reply h 0x20 stRange [])) ∧
        (∀ n st off, k.hbmBase + bkHbmNeed bs ≤ addr → r.1.loadChecks p k bs length = some (n, st, off) →
          Machine.exec (.loadBook h addr length) s = .next (r.1.reply h 0x20 st (loadReply n off []))) ∧
        (k.hbmBase + bkHbmNeed bs ≤ addr → r.1.loadChecks p k bs length = none →
          Machine.exec (.loadBook h addr length) s = .next ((r.1.loadBook p c bs).reply h 0x20 stOk (loadReply 0 0 (bkMeasure bs))) ∧
          (r.1.loadBook p c bs).ctx p c = { k with
            book := some (bookOf bs k), st := 2, progress := 0, credit := [], rdptr := [], passes := 0, midPass := false, stnFlags := []
            shFlags := [], curtains := planCurtains (planWords bs) (bkStations bs) } ∧
          (bookOf bs k).measure = bkMeasure bs))) ∧
    (∀ es : List PatchEntry, Asks s h x 0x21 .tenant (8 + 24 * es.length) → NamesCtx s h →
      (k.st = 1 ∨ ((k.st = 4 ∨ k.st = 5) ∧ es ≠ []) → Machine.exec (.patch h es) s = .next (v.reply h 0x21 stBusy [])) ∧
      (k.st ≠ 1 → es = [] → Machine.exec (.patch h es) s = .next (v.reply h 0x21 stOk [])) ∧
      (k.st ≠ 1 → k.st ≠ 4 → k.st ≠ 5 → es ≠ [] → es.all s.patchEntryOk = false →
        Machine.exec (.patch h es) s = .next (v.reply h 0x21 stRange [])) ∧
      (k.st ≠ 1 → k.st ≠ 4 → k.st ≠ 5 → es ≠ [] → es.all s.patchEntryOk = true →
        Machine.exec (.patch h es) s = .next ((es.foldl (fun u e => u.bindSymbol p c e) v).reply h 0x21 stOk []))) ∧
    (∀ (e : PatchEntry) (b : Book) (q : Nat × Nat × Nat × Nat), k.book = some b → q.1 + 16 ≤ spBase →
      b.patches.filter (fun q => decide (q.2.1 = e.kind) && decide (q.2.2.2 = e.symbol)) = [q] → e.kind = 5 ∨ q.2.2.1 ≤ 16 →
      Wrote s (s.bindSymbol p c e) q.1 (if e.kind = 5 then (toLE 16 e.value).reverse else toLE q.2.2.1 e.value) ∧
      (s.bindSymbol p c e).ctx p c = { k with book := some { b with
        bound := b.bound.filter (fun k => !(decide (k.1 = e.kind) && decide (k.2.1 = e.symbol))) ++ [(e.kind, e.symbol, e.value)] } }) ∧
    (∀ a : CtxParams, Asks s h x 0x22 .owner 64 →
      (v.createStatus p c a ≠ stOk → Machine.exec (.ctxCreate h a) s = .next (v.reply h 0x22 (v.createStatus p c a) [])) ∧
      (v.createStatus p c a = stOk → Machine.exec (.ctxCreate h a) s = .next ((v.createCtx p c a).reply h 0x22 stOk []) ∧
        (v.createCtx p c a).ctx p c = ctxOf a ∧ (v.createCtx p c a).shape = a.shape ∧ (v.createCtx p c a).mem = s.mem)) ∧
    (Asks s h x 0x23 .tenant 0 → NamesCtx s h →
      (k.st = 4 ∨ k.st = 5 → Machine.exec (.ctxDestroy h) s = .next (v.reply h 0x23 stBusy [])) ∧
      (k.st ≠ 4 → k.st ≠ 5 → Machine.exec (.ctxDestroy h) s = .next ((v.destroyCtx p c).reply h 0x23 stOk []) ∧
        ((v.destroyCtx p c).ctx p c).st = 0 ∧
        ∀ a, k.hbmBase ≤ a → a < k.hbmBase + k.hbmSize → (v.destroyCtx p c).byte a = 0)) ∧
    (Asks s h x 0x24 .tenant 0 → NamesCtx s h →
      (k.st = 1 ∨ k.st = 6 → Machine.exec (.start h) s = .next (v.reply h 0x24 stBusy [])) ∧
      (k.st ≠ 1 → k.st ≠ 6 → k.st ≠ 2 → Machine.exec (.start h) s = .next (v.reply h 0x24 stOk [])) ∧
      (k.st = 2 → k.allBound = false → Machine.exec (.start h) s = .next (v.reply h 0x24 stRange [])) ∧
      (k.st = 2 → k.allBound = true → ∃ u, u = (v.setCtx p c { k with st := 3 }).settleState p c ∧
        ((u.ctx p c).st = if s.hasCredit p c || k.midPass then 4 else 3) ∧
        Machine.exec (.start h) s = .next ((u.trySwitch p).reply h 0x24 stOk []))) ∧
    (∀ timeout, Asks s h x 0x25 .tenant 4 → NamesCtx s h →
      (k.st = 3 → Machine.exec (.stop h timeout) s = .next ((((v.stopNow p c).startInter).trySwitch p).reply h 0x25 stOk []) ∧
        ((v.stopNow p c).ctx p c).st = 2) ∧
      (k.st = 4 ∨ k.st = 5 → ∃ u, u = v.setCtx p c { k with
          st := 5, stops := k.stops ++ [(h, if timeout = 0 then none else some (s.clock.house + 1000 * timeout))] } ∧
        Machine.exec (.stop h timeout) s = .next { u with ymr := { u.ymr with busy := u.ymr.busy ++ [(hdrKey h, 0x25)] } }) ∧
      (k.st ≠ 3 → k.st ≠ 4 → k.st ≠ 5 → Machine.exec (.stop h timeout) s = .next (v.reply h 0x25 stOk []))) ∧
    (∀ (p : Fin 4) (c : Fin 16), Machine.exec (.stopTimeout p c) s = .next
      (((s.ctx p c).stops.filter (fun q => q.2.elim false (fun t => decide (t < s.clock.house)))).foldl
        (fun u q => u.reply q.1 0x25 stTimeout [])
        (s.setCtx p c { s.ctx p c with stops := (s.ctx p c).stops.filter (fun q => !(q.2.elim false (fun t => decide (t < s.clock.house)))) }))) ∧
    (∀ count : Word, Asks s h x 0x26 .tenant 4 → NamesCtx s h →
      (count = 0 → Machine.exec (.doorbell h count) s = .next (v.reply h 0x26 stOk [])) ∧
      (count ≠ 0 → k.st = 1 ∨ k.st = 6 → Machine.exec (.doorbell h count) s = .next (v.reply h 0x26 stBusy [])) ∧
      (count ≠ 0 → k.st ≠ 1 → k.st ≠ 6 → ∃ u : State, Machine.exec (.doorbell h count) s =
          .next ((((u.noteParent p c).settleState p c).trySwitch p).reply h 0x26 stOk []) ∧
        { u with ctxs := s.ctxs } = v ∧ (∀ q d, ctxKey q d ≠ ctxKey p c → u.ctx q d = s.ctx q d) ∧
        { u.ctx p c with credit := k.credit } = k ∧
        ∀ n, (u.ctx p c).creditOf n = if n ∈ cpsOf s.shape p then min 0xFFFFFFFF (k.creditOf n + count.toNat) else k.creditOf n)) ∧
    (∀ a : CastParams, Asks s h x 0x40 .tenant (16 + (if a.ethernet then 16 else 1) * a.members.length) → NamesPart s h →
      (a.members = [] → Machine.exec (.castSet h a) s = .next (v.reply h 0x40 stOk [])) ∧
      (a.members ≠ [] → v.castStatus p a ≠ stOk → Machine.exec (.castSet h a) s = .next (v.reply h 0x40 (v.castStatus p a) [])) ∧
      (a.members ≠ [] → v.castStatus p a = stOk → ∃ u, Machine.exec (.castSet h a) s = .next (u.reply h 0x40 stOk []) ∧
        WriteWork { v with casts := u.casts } u ∧ (∀ g, u.cast g = if g = a.cast then
          { ethernet := a.ethernet, carry := a.carry, deadline := if a.deadline = 0 then 200 else a.deadline, epoch := a.epoch,
            uplink := if a.ethernet then none else a.uplink, members := a.members }
          else s.cast g) ∧
        (a.bind = 0 → u.mem = s.mem) ∧
        (∀ n, n < 16 → a.bind = BitVec.ofNat 16 (2 ^ n) → u.epochOk p n a.cast = true)))

/-- On a port that is up: a flit with a bad CRC, counted, or out of order is discarded and answered by a NAK; any other
has its ACK and credits taken, then what its NAK asks for sent again, then is taken itself. A flit that ends a good
message for this module delivers it and returns its credits; one that ends a bad message is counted and answered by a
NAK to the message's first flit, the third time by the link's going down. A NAK has every flit from the one it names
sent again and counted; after 16 resends of one the link is down. A link that trains again under new keys (a free
value: log entry 191) sends its unacknowledged flits again, a lost one starts afresh. A link down for 1 s is lost and
drops its traffic but a company revolve's; in a loop the routes become those of the loop broken there, also at a
LINK_LOST message, which goes on. A curtain slice with a bad tag is counted, one out of order, of KIND 3 or of no KIND
of the table is not applied; its CACK confirms slices; a slice unacknowledged for 500 ns goes out again. Toward the
head, TIME is sent every 10 us and is answered with house time; the reply of the port toward the head trims a
follower's house time while a context runs, else steps it. (spec/13_chains.md Table 13.1; spec/13_chains.md Table
13.2; spec/13_chains.md Table 13.4; spec/13_chains.md Table 13.6; spec/13_chains.md Table 13.7;
spec/11_clocks_and_crossings.md Table 11.5) -/
def Obligations.ChainLinksCarryTheirFlits : Prop :=
  ∀ (s : State) (port : Port),
    let e := isE port
    let x := s.port e
    (∀ (raw plain : List Byte) (tagOk : Bool), s.portUp e = true →
      let f := flitOf raw plain tagOk
      (crcHolds raw = false ∨ (f.len ≠ 0 ∧ f.seq ≠ x.rxSeq) → ∃ t, Machine.exec (.chainFlitReceive port ⟨raw, plain, tagOk⟩) s = .next t ∧
        OnlyPort { s with regs := t.regs } t e { x with line := x.line ++ [.ctl true x.rxSeq 0 0] } ∧
        ∀ a, t.reg a = if a = aChn e 0x0C ∧ crcHolds raw = false then satInc (s.reg a) 1 else s.reg a) ∧
      (crcHolds raw = true → f.len = 0 ∨ f.seq = x.rxSeq → ∃ u v, u = s.takeFlitAck e f ∧ v = (if f.nak then u.resendFrom e f.ack else u) ∧
        Machine.exec (.chainFlitReceive port ⟨raw, plain, tagOk⟩) s = .next (if f.len = 0 then v else v.takeFlit e f) ∧
        (s.inter.phase ≠ 4 → x.txQueue = [] → f.nak = false → f.cvl = 0 → OnlyPort s v e { x with
          txUnacked := x.txUnacked.drop (ackedBy x.txUnacked x.txSeq f.ack)
          resends := if 0 < ackedBy x.txUnacked x.txSeq f.ack then 0 else x.resends }))) ∧
    (∀ f : ChainFlit, EndsMessage s e f → s.flitMine f = true → f.tagOk = true → f.vl = 3 ∨ f.islocal = true → f.vl ≠ 2 →
      (x.whole f).length ≤ 255 →
      let k := ((x.others f).head?).elim ((x.rxSeq + 1) % 4096) ChainFlit.seq
      OnlyPort s (s.takeFlit e f) e { x with
        rxSeq := (x.rxSeq + 1) % 4096, rxMsg := x.others f
        rxDone := if (x.others f).isEmpty then [] else x.rxDone ++ (x.whole f).map ChainFlit.seq
        tagFails := sset 0 x.tagFails (msgKey f) 0, msgRx := sset 0 x.msgRx f.vl (sget 0 x.msgRx f.vl + 1)
        delivered := x.delivered ++ [(f.vl, f.src, ((x.whole f).map ChainFlit.plain).flatten)]
        line := x.line ++ [.ctl false k f.vl (x.whole f).length, .ctl false k 0 0] }) ∧
    (∀ f : ChainFlit, EndsMessage s e f → f.tagOk = false → ∃ first, (x.whole f).head?.map ChainFlit.seq = some first ∧
      let n := sget 0 x.tagFails (msgKey f) + 1
      ((s.takeFlit e f).port e).rxSeq = first ∧ ((s.takeFlit e f).port e).rxMsg = x.others f ∧
      ((s.takeFlit e f).port e).delivered = x.delivered ∧ ((s.takeFlit e f).port e).up = (x.up && decide (n < 3)) ∧
      (s.takeFlit e f).reg (aChn e 0x10) = satInc (s.reg (aChn e 0x10)) 1 ∧
      (n < 3 → ((s.takeFlit e f).port e).line = x.line ++ [.ctl true first 0 0])) ∧
    (∀ seq, s.portUp e = true →
      let l := x.txUnacked.drop (ackedBy x.txUnacked x.txSeq seq)
      let n := if x.resendSeq = seq then x.resends else 0
      ∃ t, Machine.exec (.flitNak port seq) s = .next t ∧
        OnlyPort { s with regs := t.regs, ymr := { s.ymr with lrHist := t.ymr.lrHist } } t e (if l.isEmpty then x else if 16 ≤ n then x.goneDown s.clock.house
          else { x with resends := n + 1, resendSeq := seq, line := x.line ++ l.map (fun f => .data (x.outKey e) f x.ackNum) }) ∧
        ∀ a, t.reg a = if a = aChn e 0x24 ∧ 16 ≤ n ∧ l.isEmpty = false then satInc (s.reg a) 1
          else if a = aChn e 0x08 ∧ n < 16 ∧ l.isEmpty = false then satInc (s.reg a) l.length else s.reg a) ∧
    (∃ t, Machine.exec (.chainLinkDown port) s = .next t ∧
      OnlyPort { s with regs := t.regs } t e (if x.up then x.goneDown s.clock.house else x) ∧
      ∀ a, t.reg a = if a = aChn e 0x24 ∧ x.up = true then satInc (s.reg a) 1 else s.reg a) ∧
    (x.up = false → s.on → s.clock.refLost = false → s.ymrUp = true → s.canSign = true →
      let y := { x.restarts with
        up := true, lost := false, trainedOnce := true, resends := 0, tagFails := [], rxSeq := x.restarts.ackNum, rxMsg := []
        key := (Config.freeValue 512 s.free).toNat, msgTx := [], msgRx := [], sliceTx := x.restarts.sliceTx % 65536
        sliceRx := x.restarts.sliceRx % 65536 }
      ∃ u, Machine.exec (.chainLinkTrained port) s = .next (if x.trainedOnce then (u.chainPump e).offerAddress e else u.chainPump e) ∧
        SignWork { s with chain := u.chain, regs := u.regs, ymr := { s.ymr with lrHist := u.ymr.lrHist } } u 1 ∧
        { u.chain with w := s.chain.w, e := s.chain.e } = s.chain ∧ u.port (!e) = s.port (!e) ∧
        u.port e = { y with line := y.line ++ y.txUnacked.map (fun f => .data (y.outKey e) f y.ackNum) }) ∧
    (x.up = false → x.lost = false → x.trainedOnce = true → s.on → x.downSince + 1000000000 ≤ s.clock.house →
      ∃ u, LogWork { s with chain := u.chain } u ∧ { u.chain with w := s.chain.w, e := s.chain.e } = s.chain ∧ u.port (!e) = s.port (!e) ∧
        u.port e = { x with
          lost := true, txQueue := (x.txUnacked ++ x.txQueue).filter (fun f => decide (f.vl = 2)), txUnacked := [], rxMsg := []
          rxDone := [], relays := [], curtOut := [] } ∧
        (s.chain.addr = none → Machine.exec (.chainLinkLost port) s = .next u) ∧
        (∀ a, s.chain.addr = some a → s.chain.isLoop = false → Machine.exec (.chainLinkLost port) s = .next (u.rerouteSlices e x.curtOut)) ∧
        (∀ a b, s.chain.addr = some a → s.chain.isLoop = true → b = (if e then a else (a + max 1 s.chain.count - 1) % max 1 s.chain.count) →
          Machine.exec (.chainLinkLost port) s = .next ((State.sendLink { u with chain := { u.chain with isLoop := false, broken := some b } }
            (!e) .linkLost b false).rerouteSlices e x.curtOut))) ∧
    (∀ b, s.portUp e = true → Machine.exec (.linkLost port b) s = .next (State.sendLink
      (if s.chain.isLoop then { s with chain := { s.chain with isLoop := false, broken := some b } } else s) (!e) .linkLost b false)) ∧
    (∀ (i : Instr) (kind : Nat) (c : CurtSlice), isSlice i kind port c → s.portUp e = true →
      c.kind = kind ∨ (c.kind = 0 ∨ 5 < c.kind) →
      (c.tagOk = false → Machine.exec i s = .next (State.ackSlice (s.countSat (aChn e 0x10) 1) e)) ∧
      (c.tagOk = true → c.kind = 3 → Machine.exec i s = .next (State.ackSlice (s.setPort e (x.confirmed c)) e)) ∧
      (c.tagOk = true → c.kind ≠ 3 → c.cseq ≠ (x.sliceRx + 1) % 65536 →
        Machine.exec i s = .next (State.ackSlice (s.setPort e { x.confirmed c with ackDue := true }) e)) ∧
      (NextSlice s e c → c.kind ≠ kind → Machine.exec i s = .next ((s.sliceTaken e c).ackSlice e))) ∧
    (∀ (cseq : Nat) (y : CurtSlice × Nat × Nat), s.portUp e = true →
      x.curtOut.find? (fun y => decide (y.1.cseq = cseq) && decide (y.2.2 + 500 ≤ s.clock.house)) = some y →
      let c := { y.1 with cack := x.sliceRx % 65536 }
      ∃ t, Machine.exec (.curtainSliceResend port cseq) s = .next t ∧ OnlyPort s t e { x with
        curtOut := x.curtOut.map (fun z => if z.1.cseq = cseq ∧ z.2.2 + 500 ≤ s.clock.house then (c, z.2.1, s.clock.house) else z)
        ackDue := false, line := x.line ++ [.slice (x.outKey e) c y.2.1] }) ∧
    (s.portUp e = true → s.chain.addr.isSome = true → s.chain.head = false → s.chain.headPort = e →
      x.timeSent + 10000 ≤ s.clock.house → x.sliceTx + 1 < 2 ^ 64 →
      let c := { s.timeSlice 4 with cseq := x.sliceTx % 65536, cack := x.sliceRx % 65536 }
      ∃ t, Machine.exec (.timeExchangeTimer port) s = .next t ∧ OnlyPort s t e { x with
        timeSent := s.clock.house, curtOut := x.curtOut ++ [(c, x.sliceTx, s.clock.house)], sliceTx := x.sliceTx + 1, ackDue := false
        line := x.line ++ [.slice (x.outKey e) c x.sliceTx] }) ∧
    (∀ c : CurtSlice, NextSlice s e c → c.kind = 4 →
      Machine.exec (.timeMsg port c) s = .next ((s.sliceTaken e c).sendSlice e (s.timeSlice 5))) ∧
    (∀ c : CurtSlice, NextSlice s e c → c.kind = 5 →
      let u := s.sliceTaken e c
      let off : Int := (s.clock.house : Int) - ((c.step.toNat * 2 ^ 32 + c.epoch.toNat + (s.clock.house - x.timeSent) / 2 : Nat) : Int)
      let follows := !s.chain.head && decide (s.chain.headPort = e)
      let v := u.setPort e { u.port e with
        timeOffset := off, timeGood := if off.natAbs < 20 then min 16 (x.timeGood + 1) else 0, timeRecv := s.clock.house }
      Machine.exec (.timeReply port c) s = .next (State.ackSlice { v with clock := { s.clock with
        house := if follows && !s.dieRuns then ((s.clock.house : Int) - off).toNat else s.clock.house
        frac := if follows && !s.dieRuns then 0 else s.clock.frac
        trim := if !follows then s.clock.trim else if s.dieRuns = false ∨ off = 0 then 0 else if 0 < off then -25000 else 25000 } } e))

/-- The head starts the enumeration with address 0 when its E link is up, or 1 s after ready; without any link it is a
chain of one. Any other module takes the address ENUM brings at its W port and passes the next one east, or sends
ENUM_END west at the end of the line; one that comes back takes the address it is offered. Address 63 with a module
beyond, and an ENUM that the head does not expect, fail the enumeration with their event. ENUM_END makes the head
close a line, ENUM back at its W port a loop; ENUM_DONE carries the length east; ENUM_FAIL takes the address and goes
on; the time limits fail it too. An ARRIVE goes on toward the head, which counts each source once; with one of every
member of a list without an uplink it sends RELEASE with the OR of the payloads, and with an uplink takes part in the
cluster's release. A RELEASE goes on away from the head and releases the held curtain of a member of its list. Each is
then acknowledged. (spec/13_chains.md Table 13.5; spec/13_chains.md Table 13.4) -/
def Obligations.ChainsEnumerateAndClose : Prop :=
  ∀ s : State,
    (s.power = .ready → s.chain.head = true → s.chain.enumSt = 0 → s.on → s.chain.e.up = true ∨ s.chain.enumAt + 1000000000 ≤ s.clock.house →
      (s.chain.e.up = true → Machine.exec .enumStart s = .next (State.sendLink
        { s with chain := { s.chain with addr := some 0, enumSt := 1, enumAt := s.clock.house } } true .enumerate 1 false)) ∧
      (s.chain.e.up = false → s.chain.w.up = true → Machine.exec .enumStart s =
        .next { s with chain := { s.chain with addr := some 0, enumSt := 1, enumAt := s.clock.house } }) ∧
      (s.chain.e.up = false → s.chain.w.up = false → Machine.exec .enumStart s =
        .next { s with chain := { s.chain with addr := some 0, enumSt := 2, count := 1, isLoop := false } })) ∧
    (∀ a, s.portUp false = true → s.chain.head = false →
      ∃ u, u = { s with chain := { s.chain with addr := some a, enumSt := 1, broken := none } } ∧
      (s.chain.e.up = true → a ≠ 63 → Machine.exec (.enum .w a false) s = .next (u.sendLink true .enumerate (a + 1) false)) ∧
      (s.chain.e.up = false → Machine.exec (.enum .w a false) s = .next (u.sendLink false .enumEnd (a + 1) false)) ∧
      (s.chain.e.up = true → a = 63 → Machine.exec (.enum .w a false) s = .next ((s.logEvent 0x0051 whereModule 0).chainFailed.tellFail))) ∧
    (∀ (port : Port) (a : Nat), s.portUp (isE port) = true → s.chain.head = false → s.chain.addr = none → a < 64 →
      port = .w ∨ s.chain.w.up = false →
      Machine.exec (.enum port a true) s = .next { s with chain := { s.chain with addr := some a, enumSt := 2 } }) ∧
    (∀ (port : Port) (a : Nat), s.portUp (isE port) = true → s.chain.head = true →
      (s.chain.enumSt = 1 → s.chain.e.up = true → port = .w → Machine.exec (.enum port a false) s = .next (State.sendLink
        { s with chain := { s.chain with count := a, isLoop := true, broken := none, enumSt := 2 } } true .enumDone a true)) ∧
      (s.chain.enumSt ≠ 1 ∨ s.chain.e.up = false ∨ port = .e → Machine.exec (.enum port a false) s =
        .next ((s.logEvent 0x0050 whereModule (if port = .e then 1 else 0)).chainFailed.tellFail))) ∧
    (∀ count, s.portUp true = true →
      (s.chain.head = true → s.chain.enumSt = 1 → Machine.exec (.enumEnd count) s = .next (State.sendLink
        { s with chain := { s.chain with count := count, isLoop := false, broken := none, enumSt := 2 } } true .enumDone count false)) ∧
      (s.chain.head = false → Machine.exec (.enumEnd count) s = .next (s.sendLink false .enumEnd count false))) ∧
    (∀ (count : Nat) (isLoop : Bool), s.chain.head = false → s.on → s.chain.addr.isSome = true →
      Machine.exec (.enumDone count isLoop) s = .next (State.sendLink
        { s with chain := { s.chain with count := count, isLoop := isLoop, broken := none, enumSt := 2 } } true .enumDone count isLoop)) ∧
    (∀ port : Port, s.portUp (isE port) = true →
      Machine.exec (.enumFail port) s = .next (s.chainFailed.sendLink (!isE port) .enumFail 0 false)) ∧
    (s.chain.head = true → s.chain.enumSt = 1 → s.chain.w.up = true → s.chain.enumAt + 5000000000 ≤ s.clock.house →
      Machine.exec .enumTimeout s = .next ((s.logEvent 0x0052 whereModule 0).chainFailed.tellFail)) ∧
    (s.chain.head = false → s.power = .ready → s.chain.enumSt = 0 → s.chain.enumAt + 60000000000 ≤ s.clock.house →
      Machine.exec .enumTimeout s = .next { s with chain := { s.chain with enumSt := 3, addr := none } }) ∧
    (∀ (port : Port) (c : CurtSlice), NextSlice s (isE port) c → c.kind = 1 →
      let u := s.sliceTaken (isE port) c
      let old := s.chain.arrives.filter (fun x => sameArrive x c)
      let v := { u with chain := { u.chain with arrives := s.chain.arrives ++ [c] } }
      let pay := (old ++ [c]).foldl (fun p x => p ||| x.payload) 0
      let ends := fun (w : State) => Machine.exec (.chainArrive port c) s = .next (State.ackSlice (w.reclose c.part c.curtain) (isE port))
      (s.chain.head = false ∨ s.chain.addr = none →
        Machine.exec (.chainArrive port c) s = .next (State.ackSlice (u.sendSlice s.chain.headPort c) (isE port))) ∧
      (s.chain.head = true → s.chain.addr.isSome = true →
        (c.epoch.toNat < (s.cast c.cast).epoch.toNat ∨ (∃ x ∈ old, x.src = c.src) → ends u) ∧
        (¬ c.epoch.toNat < (s.cast c.cast).epoch.toNat → (∀ x ∈ old, x.src ≠ c.src) →
          (old.length + 1 < c.members → ends v) ∧
          (c.members ≤ old.length + 1 → c.uplink = none → ends (State.releaseChain
            { v with chain := { v.chain with arrives := s.chain.arrives.filter (fun x => !(sameArrive x c)) } }
            { c with kind := 2, payload := pay, src := s.chain.addr.getD 0 })) ∧
          (∀ g, c.members ≤ old.length + 1 → c.uplink = some g → ends (v.headComplete c pay))))) ∧
    (∀ (port : Port) (c : CurtSlice), NextSlice s (isE port) c → c.kind = 2 →
      let u := s.sliceTaken (isE port) c
      (s.chain.head = true → Machine.exec (.chainRelease port c) s = .next (u.ackSlice (isE port))) ∧
      (s.chain.head = false → Machine.exec (.chainRelease port c) s =
        .next (State.ackSlice (((u.forwardRelease (isE port) c).applyRelease c).reclose c.part c.curtain) (isE port)))) ∧
    (∀ c : CurtSlice, (s.memberOf c.cast).isSome = true → (s.cast c.cast).ethernet = false → ¬ c.epoch.toNat < (s.cast c.cast).epoch.toNat →
      (s.curtain c.part c.curtain).held = true →
      (s.applyRelease c).curtain c.part c.curtain = (s.curtain c.part c.curtain).released c.payload ∧
      (s.applyRelease c).crt.seq = s.crt.seq + 1 ∧ { s.applyRelease c with crt := s.crt } = s)

/-- While Yemir's firmware runs, the mark of a 60 s multiple that has not been taken yet takes one eighth, rounded up, off
the event accumulator E, once, and changes nothing else; with every mark taken nothing changes. The multiples are
those of house time while the die rails are on, of Yemir uptime while they are off. While they are off the score is
min(255, E): the other terms are 0. (R394) -/
def Obligations.RiskAccumulatorDecays : Prop :=
  ∀ s : State,
    (s.ymrUp = true → s.ymr.decayed < (if s.ymr.dieOn then s.clock.house else s.clock.uptime) / 60000000000 →
      ∃ t, Machine.exec .riskDecay s = .next t ∧
        8 * (s.ymr.riskE - t.ymr.riskE) < s.ymr.riskE + 8 ∧ s.ymr.riskE ≤ 8 * (s.ymr.riskE - t.ymr.riskE) ∧
        t.ymr.decayed = s.ymr.decayed + 1 ∧
        t = { s with ymr := { s.ymr with riskE := t.ymr.riskE, decayed := t.ymr.decayed } }) ∧
    ((if s.ymr.dieOn then s.clock.house else s.clock.uptime) / 60000000000 ≤ s.ymr.decayed →
      Machine.exec .riskDecay s = .next s) ∧
    (s.ymr.dieOn = false → s.riskScore = min 255 s.ymr.riskE)

/-- A sample is kept; the coolant's first above 45 C is logged with an alert, and an input within 44 to 60 V in power-up's
first step brings the rails up. A half above 95 C goes one code down after 10 ms, below 92 C one up after 100 ms; the
cap registers take the lower of the tray's and Yemir's cap. A score update shows the score, disarms a threshold that
it reaches and re-arms one above it. A heartbeat services the watchdog; a second without it halts Yemir and a pending
slot on its way has failed. The boot ROM runs the slot its checks pick, or sets an alert. A push enters a channel with
room, or meets its full policy; a pop takes the oldest entry; a doorbell rings or sets its overrun flag, and rings
none of channels 8 to 11; a cue processor pushes its oldest kept entry again. I3C writes act word by word and leave
the index behind the last; reads return words from the index on. ENROL stores digest and policy when no owner is
enrolled; CLEAR erases owner, sessions and seeds when no context exists; both are refused otherwise. Nothing else
changes but what logging touches. (spec/14_yemir_and_security.md Table 14.3; spec/14_yemir_and_security.md Table 14.8;
spec/14_yemir_and_security.md Table 14.12; spec/14_yemir_and_security.md Table 14.6; spec/16_module_and_power_up.md
Table 16.6) -/
def Obligations.YemirWatchesAndAnswersTheTray : Prop :=
  ∀ s : State,
    (s.ymrUp = true →
      (∀ (x : Sensor) (v v2 : Nat), Machine.exec (.sensorSample x v v2) s =
        .next (if s.power = .yemir ∧ x = .input ∧ 4400 ≤ v ∧ v ≤ 6000 then (s.sample x v v2).dieUp else s.sample x v v2)) ∧
      (∀ (east : Bool),
        let hot := s.hottest ((List.range 48).filter (fun b => bayEast b == east))
        let t := s.therm east
        let u := State.setAlert (State.applyCaps (s.setTherm east { cap := t.cap - 1, time := s.now, logged := true })) 2
        (380 < hot → t.time + 10000000 ≤ s.now → 0 < t.cap → Machine.exec (.thermalCapAdjust east) s = .next (if t.logged then u
          else u.logEvent 0x0033 whereModule (packData [(1, b2n east), (1, t.cap - 1), (1, hot / 4)]))) ∧
        (hot < 368 → t.time + 100000000 ≤ s.now → t.cap < 0x5A → Machine.exec (.thermalCapAdjust east) s =
          .next (State.applyCaps (s.setTherm east { cap := t.cap + 1, time := s.now, logged := false }))) ∧
        (368 ≤ hot → hot ≤ 380 → Machine.exec (.thermalCapAdjust east) s = .next (s.setTherm east { t with logged := false }))) ∧
      (∃ t, Machine.exec .riskScoreUpdate s = .next t ∧ LogWork s t ∧ t.ymr.score = s.riskScore ∧
        ∀ x ∈ riskLevels, t.ymr.disarmed.getLsbD x.1 =
          if s.riskScore < x.2.2 then false else if x.2.1 ≤ s.riskScore then true else s.ymr.disarmed.getLsbD x.1) ∧
      Machine.exec .heartbeat s = .next { s with ymr := { s.ymr with
        heartbeat := s.ymr.heartbeat + 1, watchdogAt := s.clock.uptime } } ∧
      (s.ymr.watchdogAt + 1000000000 ≤ s.clock.uptime →
        let u := if s.inactiveFw.pending = true ∧ s.poweringUp = true then s.setInactiveFw { s.inactiveFw with fails := s.inactiveFw.fails + 1 } else s
        Machine.exec .watchdogExpiry s = .next { u with ymr := { u.ymr with halted := true, wdog := true, wdogPending := some s.ymr.heartbeat } } ∧
        ({ u with ymr := { u.ymr with halted := true, wdog := true, wdogPending := some s.ymr.heartbeat } } : State).modAlertLow = true) ∧
      (s.ymr.owner = none → Machine.exec .enrol s = .next (State.logEvent { s with ymr := { s.ymr with
        owner := some s.ymr.enrolDigest, policy := s.ymr.ownerPolW &&& 0xFF03, st := if s.ymr.st = 2 then 1 else s.ymr.st, ownerCmd := 1
        ownerResult := 1 } } 0x0071 whereModule 1)) ∧
      (s.ymr.owner.isSome = true → Machine.exec .enrol s = .next { s with ymr := { s.ymr with ownerCmd := 1, ownerResult := 2 } }) ∧
      (s.liveCtxs.isEmpty = true → ∃ u : State, Machine.exec .clearOwner s = .next (u.logEvent 0x0071 whereModule 2) ∧
        { u with parts := s.parts } = { s with ymr := { s.ymr with
          owner := none, policy := 0, sessions := [], st := if s.ymr.st = 1 then 2 else s.ymr.st, ownerCmd := 2, ownerResult := 1 } } ∧
        ∀ p, u.part p = { s.part p with seed := 0, seedTime := 0 }) ∧
      (s.liveCtxs.isEmpty = false → Machine.exec .clearOwner s = .next { s with ymr := { s.ymr with ownerCmd := 2, ownerResult := 2 } })) ∧
    (∀ okA okB : Bool, s.power ≠ .off → s.ymr.inRom = true →
      (∀ b, s.bootSlot okA okB = some b → ∃ t, Machine.exec (.yemirBoot okA okB) s = .next t ∧
        let gone := s.inactiveFw.pending && decide (b = s.ymr.activeB)
        let u := if gone then s.setInactiveFw { s.inactiveFw with pending := false, fails := 0 } else s
        LogWork { u with ymr := { u.ymr with
          inRom := false, halted := false, activeB := if s.inactiveFw.pending then s.ymr.activeB else b, watchdogAt := s.clock.uptime
          bootAt := s.clock.uptime, xmssNext := s.ymr.xmssReserved, wdogPending := none } } t) ∧
      (s.bootSlot okA okB = none → Machine.exec (.yemirBoot okA okB) s = .next (s.setAlert 0x20))) ∧
    (∀ n : Fin 16, s.mbxOn = true →
      let m := s.mail n
      (∀ v : Word,
        let y := { m with staged := sset 0 m.staged 15 v }
        let e := (List.range 16).map (fun i => if i = 15 then v else sget 0 m.staged i)
        ∃ t, Machine.exec (.mbxPush n v) s = .next t ∧ OnlyMail { s with regs := t.regs } t n
          (if m.entries.length < 8 then { y with entries := m.entries ++ [e] }
            else if m.overwrite then { y with entries := m.entries.drop 1 ++ [e], collision := true } else y) ∧
        ∀ a, t.reg a = if a = aMbx n 0x0C ∧ 8 ≤ m.entries.length ∧ m.overwrite = false then satInc (s.reg a) 1 else s.reg a) ∧
      (∃ t, Machine.exec (.mbxDoorbell n) s = .next t ∧ OnlyMail s t n (if 8 ≤ n.val ∧ n.val ≤ 11 then m
        else if m.doorbell then { m with dbOvr := true } else { m with doorbell := true })) ∧
      (∃ t, Machine.exec (.mbxPop n) s = .next t ∧ OnlyMail s t n { m with entries := m.entries.drop 1 }) ∧
      (∀ e rest, n.val < 4 → (s.cp n).mbxRetry = e :: rest → (s.cp n).mbxAt + 1000 ≤ s.clock.house →
        Machine.exec (.mailboxRetry n) s = .next (if m.entries.length < 8 ∨ m.overwrite = true then
            State.ringMail ((s.mbxPush n e).1.setCp n { s.cp n with mbxRetry := rest }) n
          else (s.mbxPush n e).1.setCp n { s.cp n with mbxAt := s.clock.house }))) ∧
    (s.i3cOn = true →
      (∀ (i : Nat) (vs : List Word), i < 256 → ∃ u : State, u = (List.range vs.length).foldl
          (fun u k => u.i3cPut ((i + 4 * k) % 256) (vs.getD k 0)) s ∧
        Machine.exec (.i3cPrivateWrite i vs) s = .next { u with ymr := { u.ymr with i3cIndex := (i + 4 * vs.length) % 256 } }) ∧
      (∀ n, Machine.exec (.i3cPrivateRead n) s = .next { s with ymr := { s.ymr with
        i3cOut := (List.range n).map (fun k => s.i3cValue ((s.ymr.i3cIndex + 4 * k) % 256)),
        i3cIndex := (s.ymr.i3cIndex + 4 * n) % 256 } })) ∧
    (∀ (dasa : Bool) (a : BitVec 7), s.power ≠ .off →
      Machine.exec (.dynamicAddressAssignment dasa a) s = .next { s with pins := { s.pins with i3cAddr := some a } }) ∧
    (∀ v : Word, s.i3cPut 0x18 v = { s with ymr := { s.ymr with alert := s.ymr.alert &&& ~~~(v.setWidth 6) } } ∧
      s.i3cPut 0x1C v = { s with ymr := { s.ymr with alertMask := v.setWidth 6 } } ∧
      s.i3cPut 0x20 v = State.applyCaps { s with ymr := { s.ymr with
        capE := if fld v 14 8 ≤ 0x5A then fld v 14 8 else s.ymr.capE, capW := if fld v 6 0 ≤ 0x5A then fld v 6 0 else s.ymr.capW } } ∧
      (∀ k, k < 8 → s.i3cPut (0x24 + 4 * k) v = { s with ymr := { s.ymr with ownerKeyW := sset 0 s.ymr.ownerKeyW k v } }) ∧
      s.i3cPut 0x44 v = { s with ymr := { s.ymr with ownerPolW := v } } ∧
      (s.ymrUp = true → fld v 1 0 = 1 → Machine.exec .enrol s = .next (s.i3cPut 0x48 v)) ∧
      (s.ymrUp = true → fld v 1 0 = 2 → Machine.exec .clearOwner s = .next (s.i3cPut 0x48 v))) ∧
    (s.ymrUp = true → s.on → s.ymr.capW ≤ 0x5A → s.ymr.capE ≤ 0x5A → { s.applyCaps with regs := s.regs } = s ∧
      (∀ east, fld (s.applyCaps.reg (halfCap east)) 14 8 = min (if east then s.ymr.capE else s.ymr.capW) (s.therm east).cap) ∧
      ∀ a, a ≠ halfCap false → a ≠ halfCap true → s.applyCaps.reg a = s.reg a) ∧
    (∀ v v2 : Nat, let z := s.ymr.sensors
      s.sample .input v v2 = s.sensed { z with vin := v, iin := v2 } ∧
      (∀ n, s.sample (.rail n) v v2 = s.sensed { z with railV := sset 0 z.railV n v, railI := sset 0 z.railI n v2 }) ∧
      (∀ b : Fin 48, s.sample (.bayTemp b) v v2 = s.sensed { z with bayTemp := sset 0 z.bayTemp b v }) ∧
      (∀ b : Fin 48, s.sample (.droopCount b) v v2 = s.sensed { z with droop := sset 0 z.droop b (s.reg (aBay b 0x4008)).toNat }) ∧
      (∀ n, s.sample (.hbmTemp n) v v2 = State.setReg (s.sensed { z with hbmTemp := sset 0 z.hbmTemp n v }) (aMem n 0x14) (BitVec.ofNat 32 (v % 256))) ∧
      (∀ n, s.sample (.dimmTemp n) v v2 = State.setReg (s.sensed { z with dimmTemp := sset 0 z.dimmTemp n v }) (aMem (12 + n) 0x14)
        (BitVec.ofNat 32 (v / 4 % 256))) ∧
      let u := s.sensed { z with inlet := v, outlet := v2, coolantOver := decide (450 < v) }
      s.sample .coolant v v2 = if 450 < v ∧ z.coolantOver = false then (u.setAlert 8).logEvent 0x0034 whereModule (packData [(2, v), (2, v2)]) else u)

/-- Power enable, a tray reset and a pending slot's boot that does not reach ready in 60 s restart Yemir with the die off,
keeping fuses, log, owner, firmware slots and a sag. The fall of power enable and a rail failure switch everything
off. A brown-out, an overvoltage and a thermal trip switch the die rails off: what the die held is gone, Yemir runs on
with its sessions, and alert and event are set. A sag is noted from its start to its end, and throttles. With every
check of power-up done the module becomes ready, its chain waiting to be enumerated, and a pending slot that has
brought it there is active, its higher rollback number blown. Rails that come up start house time at 0, sample the
chain-head pin, put the memories in training and let standing throttle requests act. What a byte reads as after its
contents are lost is the model's choice (log entry 6). (spec/16_module_and_power_up.md Table 16.6;
spec/16_module_and_power_up.md Table 16.2; spec/11_clocks_and_crossings.md Table 11.4; spec/14_yemir_and_security.md
Table 14.5) -/
def Obligations.PowerComesAndGoes : Prop :=
  ∀ s : State,
    (s.pins.pwrEn = false → Machine.exec .trayPwrEnRise s = .next { s.restart with pins := { s.restart.pins with pwrEn := true } }) ∧
    (s.power ≠ .off → Machine.exec .trayResetN s = .next s.restart) ∧
    (s.ymrUp = true → s.poweringUp = true → s.inactiveFw.pending = true → s.ymr.bootAt + 60000000000 ≤ s.clock.uptime →
      Machine.exec .bootReadyTimeout s = .next (State.restart (s.setInactiveFw { s.inactiveFw with fails := s.inactiveFw.fails + 1 }))) ∧
    (Machine.exec .yemirRailFailure s = .next { s.restart with power := .off, ymr := { s.restart.ymr with inRom := false } }) ∧
    (Machine.exec .trayPwrEnFall s = .next { s.restart with
      power := .off, ymr := { s.restart.ymr with inRom := false }, pins := { s.restart.pins with pwrEn := false } }) ∧
    (s.restart = { State.reset with
      pending := s.pending, fuse := s.fuse, pins := { s.pins with modPgood := false, i3cAddr := none, ibi := none }, power := .yemir
      clock := { State.reset.clock with sag := s.clock.sag.map (fun (x : Nat × Nat) => (0, x.2)) }, ymr := s.ymr.restart
      inter := { Inter.reset with serial := s.inter.serial }, free := s.free }) ∧
    (s.ymr.restart = { Yemir.reset with
      inRom := true, owner := s.ymr.owner, policy := s.ymr.policy, replies := s.ymr.replies, log := s.ymr.log
      nextEvent := s.ymr.nextEvent, slotA := s.ymr.slotA, slotB := s.ymr.slotB, activeB := s.ymr.activeB, rollback := s.ymr.rollback
      xmssReserved := s.ymr.xmssReserved, xmssNext := s.ymr.xmssReserved, wdogPending := s.ymr.wdogPending }) ∧
    (s.on →
      (∀ cv, Machine.exec (.brownOut cv) s = .next ((s.dieOff.setAlert 4).logSag (s.clock.sag.elim 0 (fun x => (s.now - x.1) / 1000))
        (s.clock.sag.elim cv (fun x => min cv x.2)))) ∧
      (∀ cv, Machine.exec (.overvoltage cv) s = .next ((s.dieOff.setAlert 4).logSag 0xFFFFFFFF cv)) ∧
      (∀ b : Fin 48, Machine.exec (.thermalTrip b) s = .next ((s.dieOff.setAlert 2).logEvent 0x0033 whereModule
        (packData [(1, b2n (bayEast b)), (1, 0x7F), (1, sget 0 s.ymr.sensors.bayTemp b / 4)])))) ∧
    (∀ t, t = s.dieOff →
      { t with clock := State.reset.clock, ymr := s.ymr } = { State.reset with
        pending := s.pending, fuse := s.fuse, pins := { s.pins with modPgood := false }, power := .railsOff, ymr := s.ymr
        inter := { Inter.reset with serial := s.inter.serial }, free := s.free } ∧
      (∀ a, t.byte a = 0) ∧ t.clock.uptime = s.clock.uptime ∧ t.clock.sag.map Prod.snd = s.clock.sag.map Prod.snd ∧
      t.ymr.dieOn = false ∧ t.ymr.st = 3 ∧ t.ymr.sessions.map Session.id = s.ymr.sessions.map Session.id ∧ (∀ x ∈ t.ymr.sessions, x.open_ = 0) ∧
      { t.ymr with
        dieOn := s.ymr.dieOn, st := s.ymr.st, busy := s.ymr.busy, decayed := s.ymr.decayed, ceHist := s.ymr.ceHist, lrHist := s.ymr.lrHist
        sessions := s.ymr.sessions, thermTimeW := s.ymr.thermTimeW, thermTimeE := s.ymr.thermTimeE } = s.ymr) ∧
    (∀ (m : BitVec 6), { s.setAlert m with pins := s.pins, ymr := s.ymr } = s ∧
      (s.setAlert m).ymr = { s.ymr with alert := s.ymr.alert ||| m } ∧
      (s.setAlert m).pins = { s.pins with
        ibi := if m &&& ~~~s.ymr.alert &&& s.ymr.alertMask = 0 then s.pins.ibi
        else some (BitVec.ofNat 8 (s.ymr.alert ||| m).toNat) }) ∧
    (∀ us cv, LogWork s (s.logSag us cv)) ∧ (∀ code loc data, LogWork s (s.logEvent code loc data)) ∧
    (∀ cv : Nat, cv < 4400 → s.clock.sag = none → s.power ≠ .off →
      let u := { s with clock := { s.clock with sag := some (s.now, cv) } }
      Machine.exec (.sagStart cv) s = .next (if s.ymr.dieOn = true ∧ s.clock.thrSupply = false then u.throttleOn true else u.setAlert 4)) ∧
    (∀ (cv : Nat) (x : Nat × Nat), s.clock.sag = some x → Machine.exec (.sagEnd cv) s =
      .next (State.logSag { s with clock := { s.clock with sag := none, sagEnd := s.now } } ((s.now - x.1) / 1000) (min cv x.2))) ∧
    (s.ymrUp = true → s.power = .testing true true → ∃ t, Machine.exec .moduleReady s = .next t ∧
      let f := s.inactiveFw
      let up := f.pending && (f.advance && decide (s.ymr.rollback < f.rollback))
      let u := if f.pending then s.setInactiveFw { f with pending := false, fails := 0 } else s
      LogWork { u with
        power := .ready, chain := { s.chain with enumSt := 0, enumAt := s.clock.house }
        ymr := { u.ymr with
          st := s.moduleState, activeB := s.ymr.activeB ^^ f.pending, rollback := if up then f.rollback else s.ymr.rollback } } t) ∧
    (s.ymrUp = true → ∃ t, t = s.dieUp ∧ (∀ n, n < 20 → t.ctl n = { s.ctl n with st := 1 }) ∧ (∀ n, 20 ≤ n → t.ctl n = s.ctl n) ∧
      t.clock = { s.clock with
        house := 0, frac := 0, sag := s.clock.sag.map (fun (x : Nat × Nat) => (0, x.2)), sagEnd := 0
        thrPin := s.clock.thrPin || !s.pins.throttleN, thrSupply := s.clock.thrSupply || s.clock.sag.isSome } ∧
      (∀ a, a ≠ halfCap false → a ≠ halfCap true → a ≠ aClk 0x24 → (∀ k, a ≠ aMbx k 0x0C) → t.reg a = s.reg a) ∧
      LogWork { s with
        power := .training, pins := { s.pins with modPgood := true }, clock := t.clock, ctls := t.ctls, regs := t.regs
        chain := { s.chain with head := s.pins.chainHead }
        ymr := { s.ymr with
          dieOn := true, decayed := 0, thermTimeW := 0, thermTimeE := 0
          sessions := s.ymr.sessions.map (fun (x : Session) => { x with lastTime := x.lastTime - s.clock.uptime }) } } t)

/-- Under a session whose role may use it, a RESET of a level that is covered by one in progress is ST_BUSY, as is an L0
of a context in state 1; a LEVEL of 5 or above is ST_MALFORMED, an absent engine, partition or context ST_NOENGINE or
ST_BUSY. Any other is accepted: covered resets of a lower level end as superseded, it stands among those in progress,
its level is shown, and it is not answered yet; L0 begins at once. What L0 does leaves the context stopped, without
credit, read positions or fault record, its buckets and gathers gone, its sticky flags and curtain generations
cleared. When a fence has nothing left, or after 100 us, requesters' generations advance and the engine, partition or
compute part is back at reset; L1 to L3 then end with ST_OK; L4 puts the controllers in training, erases keys and
fault records, samples the chain-head pin, and ends when all its parts are done: contexts whose memory is lost are
destroyed, the others reloaded. A reset past its time, and an L0 after 1 ms of waiting, end with ST_TIMEOUT; the end
of any is shown, logged and answered. (spec/15_faults_resets_intermissions.md Table 15.1;
spec/15_faults_resets_intermissions.md Table 15.7; spec/12_ethernet_and_command_protocol.md Table 12.6) -/
def Obligations.ResetsRunToTheirEnd : Prop :=
  ∀ s : State,
    (∀ (h : PcpHdr) (x : Session),
      let v := s.accept h x
      let p := hdrPart h
      let c := hdrCtx h
      let l0 := Machine.exec (.resetCtx h) s
      let held := s.ymr.busy.any (fun b => decide (b.1 = hdrKey h) && holdsOff.contains b.2) ||
        s.resets.any (fun r => decide (r.level = 0) && decide (ctxKey r.part r.ctx = hdrKey h))
      (AsksReset s h x 0 .tenant →
        (s.partExists p = false → l0 = .next (v.reply h 0x32 stNoEngine [])) ∧
        (s.partExists p = true → (s.ctx p c).st ≤ 1 ∨ held = true → l0 = .next (v.reply h 0x32 stBusy [])) ∧
        (s.partExists p = true → 2 ≤ (s.ctx p c).st → held = false →
          l0 = .next (v.beginReset (s.newReset h 0 0 0 0) (fun u => u.startL0 p c)))) ∧
      (∀ cls bay index, AsksReset s h x 1 .tenant →
        ((3 < cls ∨ (cls = 3 ∧ 2 < index)) ∨ (cls < 3 ∧ (48 ≤ bay ∨ s.bayActive bay = false)) →
          Machine.exec (.resetEngine h cls bay index) s = .next (v.reply h 0x32 stNoEngine [])) ∧
        ((cls = 3 ∧ index ≤ 2) ∨ (cls < 3 ∧ bay < 48 ∧ s.bayActive bay = true) →
          Machine.exec (.resetEngine h cls bay index) s = .next (v.beginReset (s.newReset h 1 cls bay index) id))) ∧
      (AsksReset s h x 2 .tenant → Machine.exec (.resetPart h) s =
        .next (if s.partExists p then v.beginReset (s.newReset h 2 0 0 0) id else v.reply h 0x32 stNoEngine [])) ∧
      (AsksReset s h x 3 .owner → Machine.exec (.resetChip h) s = .next (v.beginReset (s.newReset h 3 0 0 0) id)) ∧
      (AsksReset s h x 4 .owner → Machine.exec (.resetChipFull h) s = .next (v.beginReset (s.newReset h 4 0 0 0) id)) ∧
      (∀ (level cls bay index : Nat), AsksReset s h x level .tenant → h.body ≠ [] → 5 ≤ level →
        ∀ i ∈ [Instr.resetCtx h, .resetEngine h cls bay index, .resetPart h, .resetChip h, .resetChipFull h],
          Machine.exec i s = .next (v.reply h 0x32 stMalformed []))) ∧
    (∀ (r : ResetOp) (go : State → State),
      (s.resets.any (fun q => q.includes r s) = true → s.beginReset r go = s.reply r.hdr 0x32 stBusy []) ∧
      (s.resets.any (fun q => q.includes r s) = false → ∃ u, u = (s.resets.filter (fun q => decide (q.level < r.level) && r.includes q s)).foldl
          (fun u q => u.closeReset q 2 stFenced) s ∧
        s.beginReset r go = go (State.setReg { u with resets := u.resets ++ [r] } (aFlt 0x2004) (setFld (u.reg (aFlt 0x2004)) 30 28 r.level)))) ∧
    (∀ (r : ResetOp) (k st : Nat), ∃ u, s.closeReset r k st = (State.logEvent u 0x0061 whereModule
          (packData [(1, r.level), (1, r.cls), (1, r.bay), (1, k)])).reply r.hdr 0x32 st [] ∧
      { u with resets := s.resets, regs := s.regs } = s ∧ u.resets = s.resets.erase r ∧
      ∀ a, u.reg a = if a = aFlt 0x2004 then setFld (setFld (s.reg a) 30 28 r.level) 27 26 k
        else if a = aFlt 0x2008 then BitVec.ofNat 32 ((s.clock.house - r.since) / 1000) else s.reg a) ∧
    (∀ p c, let t := s.resetCtx p c
      { t with ctxs := s.ctxs, faults := s.faults, links := s.links, bays := s.bays, stagehands := s.stagehands, crt := s.crt, cps := s.cps } = s ∧
      (t.ctx p c).st = 2 ∧ (t.ctx p c).credit = [] ∧ (t.ctx p c).rdptr = [] ∧ (t.ctx p c).midPass = false ∧
      (t.ctx p c).stnFlags = [] ∧ (t.ctx p c).shFlags = [] ∧ t.faultRec p c = none ∧
      (∀ q d, ctxKey q d ≠ ctxKey p c → t.ctx q d = s.ctx q d ∧ t.faultRec q d = s.faultRec q d) ∧
      otherLinks s t p ∧ (∀ b ∈ (t.link p).buckets, b.ctx ≠ c) ∧ (∀ g ∈ (t.link p).gathers, g.ctx ≠ c) ∧
      (s.curCtx p ≠ some c → t.bays = s.bays ∧ t.stagehands = s.stagehands ∧ t.crt = s.crt ∧ t.cps = s.cps) ∧
      (s.curCtx p = some c → (∀ b ∈ s.baysOf p, t.bay b = { s.bay b with flags := 0 }) ∧
        (∀ l, s.partOfBay (handBay l) = p → (t.hand l).flags = 0) ∧ (∀ n, n < 16 → t.curtain p n = (s.curtain p n).regen) ∧
        ∀ n ∈ cpsOf s.shape p, t.cp n = { CueProc.idle with mbxRetry := (s.cp n).mbxRetry, mbxAt := (s.cp n).mbxAt })) ∧
    (∀ r : ResetOp, s.resets.find? (fun r => decide (1 ≤ r.level) && !r.drained) = some r →
      s.drainLeft r = false ∨ r.since + 100000 ≤ s.clock.house →
      let w := s.restartReplica
      Machine.exec .fenceDrainEnd s = .next (if r.level = 1 then (w.runL1 r).endReset r else if r.level = 2 then (w.runL2 r).endReset r
        else if r.level = 3 then (w.runCompute r).endReset r
        else { w.runL4 r with resets := (w.runL4 r).resets.map (fun q => if q = r then { q with drained := true } else q) })) ∧
    (∀ l : List Nat, l.Nodup → let t := s.bumpGens l
      { t with ctls := s.ctls } = s ∧ (∀ n, 20 ≤ n → t.ctl n = s.ctl n) ∧ ∀ n, n < 20 → { t.ctl n with gens := (s.ctl n).gens } = s.ctl n ∧
        ∀ q, sget 0 (t.ctl n).gens q = if q ∈ l then (sget 0 (s.ctl n).gens q + 1) % 16 else sget 0 (s.ctl n).gens q) ∧
    (∀ b, let t := s.resetStation b
      { t with bays := s.bays, revolve := s.revolve, regs := s.regs } = s ∧ t.bay b = (s.bay b).dropStation ∧ (∀ k, k ≠ b → t.bay k = s.bay k) ∧
      (t.bay b).tiles = [] ∧ (t.bay b).acc = [] ∧ (t.bay b).ledger = [] ∧ (t.bay b).flags = 0 ∧ ∀ d i, i < 4 → t.revQ (stationOfBay b) d i = []) ∧
    (∀ b, let t := s.resetDispatcher b
      { t with bays := s.bays, stagehands := s.stagehands, flits := s.flits } = s ∧ (∀ l, handBay l = b → t.hand l = Stagehand.idle) ∧
      (∀ l, handBay l ≠ b → t.hand l = s.hand l) ∧ (t.bay b).queue 4 = [] ∧ ∀ k, k ≠ b → t.bay k = s.bay k) ∧
    (∀ b, OnlyBay s (s.resetStream b) b ∧ ((s.resetStream b).bay b).transfers = [] ∧ ∀ q, 5 ≤ q → q < 9 → ((s.resetStream b).bay b).queue q = []) ∧
    (∀ p, let t := s.resetPartition p
      (∀ f ∈ t.flits, f.part ≠ p) ∧ (t.part p).cur = none ∧ (∀ n ∈ cpsOf s.shape p, t.cp n = CueProc.idle) ∧ otherLinks s t p ∧
      t.link p = { LinkEng.idle with carried := (s.link p).carried } ∧ ∀ b ∈ s.baysOf p, ∀ q, q < 9 → (t.bay b).queue q = []) ∧
    (∀ r : ResetOp, let t := s.runL4 r
      (∀ n, n < 20 → (t.ctl n).st = 1) ∧ t.keySlots = [] ∧ t.keyRanges = [] ∧ (∀ p c, t.faultRec p c = none) ∧ t.flits = [] ∧
      t.stagehands = [] ∧ t.chain.addr = none ∧ t.chain.head = s.pins.chainHead ∧ t.chain.enumAt = s.clock.house) ∧
    (∀ r : ResetOp, s.endReset r = State.switchAll ((if 3 ≤ r.level then s.reloadAll else s).closeReset r 0 stOk)) ∧
    (∀ (f : ResetOp → ResetOp) (r : ResetOp), s.l4 = some r →
      let done := (f r).hbmDone && (f r).ddrDone && (f r).tested && (f r).keysBack
      let u := { s with resets := s.resets.map (fun q => if q = r then f r else q) }
      (done = false → s.l4Did f = u) ∧
      (done = true → ∃ w : State, w = State.endReset ((u.liveCtxs.filter (fun k => u.memLost k.2.2)).foldl (fun w k => w.destroyCtx k.1 k.2.1) u) (f r) ∧
        s.l4Did f = { w with ymr := { w.ymr with st := w.moduleState } })) ∧
    (∀ (p : Fin 4) (c : Fin 16) (r : ResetOp), s.l0Of p c = some r → r.since + 1000000 < s.clock.house →
      Machine.exec (.l0WaitTimeout p c) s = .next (s.closeReset r 1 stTimeout)) ∧
    (∀ r : ResetOp, s.resets.find? (fun r => decide (r.since + resetLimit r.level < s.clock.house)) = some r →
      Machine.exec .resetTimeout s = .next (s.closeReset r 1 stTimeout))

/-- Under a session whose role may use it, an INTERMISSION of a created or faulted context is ST_BUSY, without a signature
ST_AUTH, without room for its snapshot here, or in the buddy's reserve (a free value), ST_RANGE; any other waits, and
begins at once where it is first, none is in progress and its context is stopped; it is answered later. A waiting
request past its TIMEOUT is ST_TIMEOUT. The stop's end takes the image into the own slot, answers with its id and lets
the partition resume; without a slot it is ST_RANGE. The state copy's end makes the snapshot complete, signed and
counted, and with a buddy replication begins; its end marks the snapshot replicated, a second without progress leaves
it local; then the copy to the host follows if asked for, else the intermission is over. The seed goes to the buddy,
signed. The host's copy puts every packet on class 3. RESTORE answers the status its first failing check gives; past
them a missing seed is taken, and the context is rebuilt, or, with a chunk in neither copy, left stopped with
unpredictable contents; rebuilt it is stopped, with its saved key, credit and progress and no fault record.
(spec/15_faults_resets_intermissions.md Table 15.2; spec/15_faults_resets_intermissions.md Table 15.5;
spec/15_faults_resets_intermissions.md Table 15.7; spec/12_ethernet_and_command_protocol.md Table 12.6) -/
def Obligations.IntermissionsTakeSnapshots : Prop :=
  ∀ s : State,
    (∀ (h : PcpHdr) (x : Session) (copyHost : Bool) (timeout : Nat), Asks s h x 0x30 .tenant 8 → NamesCtx s h →
      let w := (s.accept h x).draw.1
      let st := (s.ctx (hdrPart h) (hdrCtx h)).st
      let full := (w.nextSlot (hdrPart h) (hdrCtx h)).isNone || (w.buddy.isSome && decide (Config.freeValue 1 (s.free + 1) = 1))
      let i := Machine.exec (.intermission h copyHost timeout) s
      (st = 1 ∨ st = 6 → i = .next (w.reply h 0x30 stBusy [])) ∧
      (st ≠ 1 → st ≠ 6 → s.canSign = false → i = .next (w.reply h 0x30 stAuth [])) ∧
      (st ≠ 1 → st ≠ 6 → s.canSign = true → full = true → i = .next (w.reply h 0x30 stRange [])) ∧
      (st ≠ 1 → st ≠ 6 → s.canSign = true → full = false → ∃ u, i = .next u.startInter ∧
        u = { w.heldOff h 0x30 with inter := { s.inter with reqs := s.inter.reqs ++ [s.interReq h copyHost timeout] } })) ∧
    (∀ (r : IReq) (l : List IReq), s.inter.reqs = r :: l →
      (s.inter.phase = 0 → (s.ctx r.part r.ctx).st = 2 ∨ (s.ctx r.part r.ctx).st = 3 → ∃ q, s.startInter = { s with
          inter := { s.inter with phase := 2, part := r.part, ctx := r.ctx, stopAt := s.clock.house, copyHost := q.copyHost
                                  reqs := q :: l.filter (fun y => !(decide (y.part = r.part) && decide (y.ctx = r.ctx))) } } ∧
        q.part = r.part ∧ q.ctx = r.ctx ∧ (∀ g ∈ r.hdrs, g ∈ q.hdrs) ∧ (r.copyHost = true → q.copyHost = true)) ∧
      (s.inter.phase ≠ 0 ∨ ((s.ctx r.part r.ctx).st ≠ 2 ∧ (s.ctx r.part r.ctx).st ≠ 3) → s.startInter = s)) ∧
    (∀ (i : Nat) (r : IReq) (due : Nat), s.inter.reqs[i]? = some r → (i ≠ 0 ∨ s.inter.phase = 0) → r.expires = some due → due < s.clock.house →
      Machine.exec (.intermissionTimeout i) s = .next (State.startInter (State.replyAll
        { s with inter := { s.inter with reqs := listDrop s.inter.reqs i } } r.hdrs 0x30 stTimeout []))) ∧
    (∀ (r : IReq) (l : List IReq), s.inter.reqs = r :: l → s.inter.phase = 2 → s.ymrUp = true → s.on →
      (s.nextSlot r.part r.ctx = none → Machine.exec .intermissionStop s = .next (State.trySwitch
        ((s.replyAll r.hdrs 0x30 stRange []).endInter.startInter) r.part)) ∧
      (∀ a n, s.nextSlot r.part r.ctx = some (a, n) → ∃ u x, StopEnded s u r a n x ∧
        Machine.exec .intermissionStop s = .next (State.trySwitch (u.replyAll r.hdrs 0x30 stOk (toLE 8 x.id.toNat)) r.part))) ∧
    (s.inter.phase = 3 → s.ymrUp = true → s.on →
      (s.ownSnap s.inter.part s.inter.ctx = none → Machine.exec .stateCopyDone s = .next s.afterCopies) ∧
      (∀ x, s.ownSnap s.inter.part s.inter.ctx = some x →
        let m := x.manifest (Config.identityKey s.fuse.identitySeed)
        let t := State.countSat (State.modSnap (s.sign m).1 (fun y => { y with
          halves := s.takeHalves s.inter.part s.inter.ctx, complete := true, sigOk := s.canSign
          sig := if s.canSign then s.signature m else [] })) (aFlt 0x2030) 1
        (s.buddy = none → Machine.exec .stateCopyDone s = .next t.afterCopies) ∧
        (s.buddy.isSome = true → Machine.exec .stateCopyDone s = .next (State.replicate { t with inter := { t.inter with
          phase := 4, progressAt := s.clock.house, replicaSent := false
          snaps := t.inter.snaps.filter (fun y => !(decide (y.part = s.inter.part) && decide (y.ctx = s.inter.ctx) && !y.own)) } })))) ∧
    (∀ b x, s.buddy = some b → s.ownSnap s.inter.part s.inter.ctx = some x → s.inter.phase = 4 → s.inter.replicaSent = false →
      (∀ r ∈ s.resets, r.level = 0) → s.replicate = State.chainSend { s with inter := { s.inter with
        replicaSent := true, progressAt := s.clock.house } } (s.chain.portTo b) 3 b false (x.bytes (Config.identityKey s.fuse.identitySeed))) ∧
    (s.inter.phase = 4 → ∃ u, u = s.modSnap (fun x => { x with replicated := true }) ∧
      Machine.exec .replicationDone s = .next (State.afterCopies { u with inter := { u.inter with replica := true } })) ∧
    (s.inter.phase = 4 → s.inter.progressAt + 1000000000 ≤ s.clock.house →
      Machine.exec .replicationAbandon s = .next (State.afterCopies { s with inter := { s.inter with replica := false } })) ∧
    (s.inter.copyHost = true → s.afterCopies = { s with inter := { s.inter with pinned := false, pinHalves := [], phase := 5 } }) ∧
    (s.inter.copyHost = false → s.afterCopies = State.startInter { s with inter := { s.inter with
      phase := 0, pinned := false, pinHalves := [], reqs := s.inter.reqs.drop 1 } }) ∧
    (∀ f x, s.ownSnap s.inter.part s.inter.ctx = some x → (∀ y, (f y).own = y.own ∧ (f y).part = y.part ∧ (f y).ctx = y.ctx) →
      { s.modSnap f with inter := s.inter } = s ∧ (s.modSnap f).ownSnap s.inter.part s.inter.ctx = some (f x)) ∧
    (∀ (p : Fin 4) (b : Nat), s.buddy = some b → s.inter.phase = 4 → s.inter.part = p.val → s.ymrUp = true → (s.part p).seed ≠ 0 →
      (s.canSign = false → Machine.exec (.seedHandover p) s = .next { s with free := s.free + 32 }) ∧
      (s.canSign = true → ∃ u, SignWork s u 32 ∧ Machine.exec (.seedHandover p) s = .next (State.chainSend { u with inter := { u.inter with
          seeds := s.inter.seeds.filter (fun x => decide (x.1 ≠ p.val)) ++ [(p.val, (s.part p).seed)] } } (s.chain.portTo b) 1 b false
        ((s.freeBytes 32).2 ++ s.signature (s.freeBytes 32).2)))) ∧
    (s.inter.phase = 5 →
      (s.ownSnap s.inter.part s.inter.ctx = none → Machine.exec .hostCopyDone s = .next s.endInter.startInter) ∧
      (∀ x, s.ownSnap s.inter.part s.inter.ctx = some x →
        let bs := x.bytes (Config.identityKey s.fuse.identitySeed)
        Machine.exec .hostCopyDone s = .next (State.startInter (State.endInter { s with eth := { s.eth with
          egress := s.eth.egress ++ (hostPackets x.id bs.length 0 bs).map (fun k => waitsFor 0 3 s.inter.copyPeer k s.clock.house) } })))) ∧
    (∀ (h : PcpHdr) (x : Session) (id : BitVec 64), Asks s h x 0x31 .tenant 8 → NamesCtx s h →
      let p := hdrPart h
      let c := hdrCtx h
      let src := (s.accept h x).source p c id
      let w := { s.accept h x with free := s.free + 3 }
      let u := if src.seedHeld then w else w.takeSeed p src.snap
      let lost := !src.fromBuddy.isEmpty && !(src.away && src.awayOk)
      let i := Machine.exec (.restore h id) s
      (w.restoreStatus p c src ≠ stOk → i = .next (w.reply h 0x31 (w.restoreStatus p c src) [])) ∧
      (w.restoreStatus p c src = stOk → lost = true →
        i = .next ((State.logEvent (u.ruin p c) 0x0064 (whereOf p c 0 0) src.snap.id.toNat).reply h 0x31 stAuth [])) ∧
      (w.restoreStatus p c src = stOk → lost = false → ∃ y, y = (u.rebuild p c src.snap).draw.1 ∧
        i = .next ((State.logEvent (y.countSat (aFlt 0x2034) src.fromBuddy.length) 0x0063 (whereOf p c 0 0)
          (Config.freeValue 64 y.free).toNat).reply h 0x31 stOk []))) ∧
    (∀ p c (n : Snapshot), p < 4 → c < 16 → let t := s.rebuild p c n
      (t.ctx p c).st = 2 ∧ (t.ctx p c).key = n.key ∧ (t.ctx p c).credit = n.credit ∧ (t.ctx p c).progress = n.progress ∧ t.faultRec p c = none)

/-- The linear id of stagehand (x, y) is y * 96 + x. Its slice starts at 0xF000_0000_0000 + id * 0x0002_0000 and is 128
KiB long: byte k of the slice is byte handLocal * 0x20000 + k of its bay, and the address leads back to that bay and
offset. The stagehand lives in bay (y div 16) * 12 + (x div 8), one of 0 to 47. The layout is the same in every state,
whatever bays are fused. (R14; R16) -/
def Obligations.ScratchpadWindowGeometry : Prop :=
  ∀ x y k : Nat, x < 96 → y < 64 → k < 0x20000 →
    handBay (y * 96 + x) = y / 16 * 12 + x / 8 ∧ handBay (y * 96 + x) < 48 ∧
    spAddr (handBay (y * 96 + x)) (handLocal (y * 96 + x) * 0x20000 + k) = 0xF00000000000 + (y * 96 + x) * 0x20000 + k ∧
    spBayOff (0xF00000000000 + (y * 96 + x) * 0x20000 + k) = (handBay (y * 96 + x), handLocal (y * 96 + x) * 0x20000 + k)

/-- In every state, the set bits of GBL_BAYMASK_LO and of GBL_BAYMASK_HI together are as many as GBL_IDENT.STATIONS says.
Where STATIONS is 48, as on AXL-OZR96-W (Table 0.1), the two registers read 0xFFFF_FFFF and 0x0000_FFFF. (R7) -/
def Obligations.IdentityCountsTheActiveBays : Prop :=
  ∀ s : State,
    ((List.range 32).filter (fun i => bit (s.regValue 0x0008) i)).length +
        ((List.range 32).filter (fun i => bit (s.regValue 0x000C) i)).length = fld (s.regValue 0x0004) 15 8 ∧
      (fld (s.regValue 0x0004) 15 8 = 48 → s.regValue 0x0008 = 0xFFFFFFFF ∧ s.regValue 0x000C = 0x0000FFFF)
end

