-- ==== Sys2Proof/Laws/Keeps.lean ====
section
/-!
SUPPORT. Laws/Keeps.lean: what no command does. A state keeps another when its memory is in canonical form if the other's
is, and its fuses and its queue are the other's.
-/
namespace Sys2Proof.Machine

/-- t keeps r: memory stays in canonical form, the fuses and the queue are unchanged. -/
structure Keeps (r t : State) : Prop where
  wf : Memory.wf r.mem = true → Memory.wf t.mem = true
  fuse : t.fuse = r.fuse
  queue : t.pending = r.pending

theorem Keeps.refl (s : State) : Keeps s s := ⟨id, rfl, rfl⟩

theorem Keeps.trans {r s t : State} (a : Keeps r s) (b : Keeps s t) : Keeps r t :=
  ⟨fun h => b.wf (a.wf h), b.fuse.trans a.fuse, b.queue.trans a.queue⟩

/-- A fold of updates that each keep what stood before keeps it. -/
theorem Keeps.foldl {α : Type} {r : State} {f : State → α → State} (hf : ∀ t x, Keeps r t → Keeps r (f t x)) {s : State}
    (k : Keeps r s) (l : List α) : Keeps r (l.foldl f s) := by
  induction l generalizing s with
  | nil => exact k
  | cons x l ih => exact ih (hf s x k)

/-- The first part of a pair that has been taken apart. -/
theorem Keeps.of_pair {α : Type} {r t : State} {x : α} {p : State × α} (h : p = (t, x)) (k : Keeps r p.1) : Keeps r t := by
  subst h; exact k

/-- An outcome keeps a state when the next state does. -/
def KeepsOut (r : State) (o : Out) : Prop := ∀ t, o = .next t → Keeps r t

theorem KeepsOut.next {r t : State} (k : Keeps r t) : KeepsOut r (.next t) := by
  intro u h; cases h; exact k

theorem KeepsOut.idle {r s : State} (k : Keeps r s) : KeepsOut r (idle s) := KeepsOut.next k

end Sys2Proof.Machine
end

