-- ==== Sys2Proof/Laws/Memory.lean ====
section
/-!
SUPPORT. Laws/Memory.lean: the laws of sparse stores and of the data space: reading after writing, and the canonical form.
-/
namespace Sys2Proof.Machine

theorem sget_sdel_same {α : Type} (d : α) (m : Sparse α) (k : Nat) : sget d (sdel m k) k = d := by
  induction m with
  | nil => rfl
  | cons x m ih =>
    obtain ⟨j, v⟩ := x
    by_cases h : j = k
    · simp [sdel, h, ih]
    · simp [sdel, sget, h, ih]

theorem sget_sdel_other {α : Type} (d : α) (m : Sparse α) {k j : Nat} (h : j ≠ k) : sget d (sdel m k) j = sget d m j := by
  induction m with
  | nil => rfl
  | cons x m ih =>
    obtain ⟨i, v⟩ := x
    by_cases hi : i = k
    · have : i ≠ j := fun e => h (e ▸ hi)
      simp [sdel, sget, hi, ih, hi ▸ this]
    · simp [sdel, sget, hi, ih]

theorem sget_sins_same {α : Type} (d : α) (m : Sparse α) (k : Nat) (v : α) (h : ∀ x ∈ m, x.1 ≠ k) : sget d (sins m k v) k = v := by
  induction m with
  | nil => simp [sins, sget]
  | cons x m ih =>
    obtain ⟨j, w⟩ := x
    have hj : j ≠ k := h (j, w) (by simp)
    by_cases hk : k < j
    · simp [sins, sget, hk]
    · simp [sins, sget, hk, hj, ih (fun x hx => h x (by simp [hx]))]

theorem sget_sins_other {α : Type} (d : α) (m : Sparse α) {k j : Nat} (v : α) (h : j ≠ k) : sget d (sins m k v) j = sget d m j := by
  induction m with
  | nil => simp [sins, sget, Ne.symm h]
  | cons x m ih =>
    obtain ⟨i, w⟩ := x
    by_cases hk : k < i
    · simp [sins, sget, hk, Ne.symm h]
    · simp [sins, sget, hk, ih]

theorem sdel_ne {α : Type} (m : Sparse α) (k : Nat) : ∀ x ∈ sdel m k, x.1 ≠ k := by
  induction m with
  | nil => intro x hx; cases hx
  | cons y m ih =>
    obtain ⟨j, w⟩ := y
    intro x hx
    by_cases h : j = k
    · exact ih x (by simpa [sdel, h] using hx)
    · rcases (by simpa [sdel, h] using hx : x = (j, w) ∨ x ∈ sdel m k) with e | e
      · simpa [e] using h
      · exact ih x e

/-- Reading the key written gives the value written. -/
@[simp] theorem sget_sset_same {α : Type} [DecidableEq α] (d : α) (m : Sparse α) (k : Nat) (v : α) : sget d (sset d m k v) k = v := by
  by_cases h : v = d
  · simp [sset, h, sget_sdel_same]
  · simp [sset, h, sget_sins_same d _ k v (sdel_ne m k)]

/-- Every other key reads as before. -/
theorem sget_sset_other {α : Type} [DecidableEq α] (d : α) (m : Sparse α) {k j : Nat} (v : α) (h : j ≠ k) :
    sget d (sset d m k v) j = sget d m j := by
  by_cases hv : v = d
  · simp [sset, hv, sget_sdel_other d m h]
  · simp [sset, hv, sget_sins_other d _ v h, sget_sdel_other d m h]

theorem sdel_of_ne {α : Type} {m : Sparse α} {k : Nat} (h : ∀ x ∈ m, x.1 ≠ k) : sdel m k = m := by
  induction m with
  | nil => rfl
  | cons x m ih =>
    obtain ⟨j, v⟩ := x
    simp [sdel, h (j, v) (by simp), ih (fun x hx => h x (by simp [hx]))]

theorem sdel_sins {α : Type} {m : Sparse α} {k : Nat} (h : ∀ x ∈ m, x.1 ≠ k) (v : α) : sdel (sins m k v) k = m := by
  induction m with
  | nil => simp [sins, sdel]
  | cons x m ih =>
    obtain ⟨j, w⟩ := x
    have hm := fun x hx => h x (List.mem_cons_of_mem (j, w) hx)
    by_cases hk : k < j
    · simp [sins, sdel, hk, h (j, w) (by simp), sdel_of_ne hm]
    · simp [sins, sdel, hk, h (j, w) (by simp), ih hm]

/-- The last of two values written under one key stands. -/
@[simp] theorem sset_sset {α : Type} [DecidableEq α] (d : α) (m : Sparse α) (k : Nat) (v w : α) :
    sset d (sset d m k v) k w = sset d m k w := by
  have e : sdel (sset d m k v) k = sdel m k := by
    unfold sset
    split
    · exact sdel_of_ne (sdel_ne m k)
    · exact sdel_sins (sdel_ne m k) v
  show (if w = d then sdel (sset d m k v) k else sins (sdel (sset d m k v) k) k w) = _
  rw [e]
  rfl

theorem swfFrom_mono {α : Type} [DecidableEq α] {d : α} {lo lo' : Nat} {m : Sparse α} (h : swfFrom d lo m = true) (l : lo' ≤ lo) :
    swfFrom d lo' m = true := by
  cases m with
  | nil => rfl
  | cons x m => simp [swfFrom] at h ⊢; exact ⟨⟨by omega, h.1.2⟩, h.2⟩

theorem swfFrom_filter {α : Type} [DecidableEq α] {d : α} (p : Nat × α → Bool) {m : Sparse α} {lo : Nat} (h : swfFrom d lo m = true) :
    swfFrom d lo (m.filter p) = true := by
  induction m generalizing lo with
  | nil => rfl
  | cons x m ih =>
    obtain ⟨k, v⟩ := x
    simp [swfFrom] at h
    by_cases hp : p (k, v) = true
    · simp [hp, swfFrom, h, ih h.2]
    · simp [hp]; exact swfFrom_mono (ih h.2) (by omega)

theorem swfFrom_sdel {α : Type} [DecidableEq α] {d : α} (k : Nat) {m : Sparse α} {lo : Nat} (h : swfFrom d lo m = true) :
    swfFrom d lo (sdel m k) = true := by
  induction m generalizing lo with
  | nil => rfl
  | cons x m ih =>
    obtain ⟨j, v⟩ := x
    simp [swfFrom] at h
    by_cases hj : j = k
    · simp [sdel, hj]; exact swfFrom_mono (ih h.2) (by omega)
    · simp [sdel, hj, swfFrom, h, ih h.2]

theorem swfFrom_sins {α : Type} [DecidableEq α] {d : α} {k : Nat} {v : α} (hv : v ≠ d) {m : Sparse α} {lo : Nat}
    (h : swfFrom d lo m = true) (hk : lo ≤ k) (hn : ∀ x ∈ m, x.1 ≠ k) : swfFrom d lo (sins m k v) = true := by
  induction m generalizing lo with
  | nil => simp [sins, swfFrom, hv, hk]
  | cons x m ih =>
    obtain ⟨j, w⟩ := x
    have hj : j ≠ k := hn (j, w) (by simp)
    simp [swfFrom] at h
    by_cases hlt : k < j
    · simp [sins, hlt, swfFrom, hv, hk, h] <;> omega
    · simp [sins, hlt, swfFrom, h]
      exact ih h.2 (by omega) (fun x hx => hn x (by simp [hx]))

/-- A write keeps a store in canonical form. -/
theorem swf_sset {α : Type} [DecidableEq α] {d : α} {m : Sparse α} (h : swf d m = true) (k : Nat) (v : α) : swf d (sset d m k v) = true := by
  by_cases hv : v = d
  · simp only [sset, hv, if_pos]; exact swfFrom_sdel k h
  · simp only [sset, if_neg hv]
    exact swfFrom_sins hv (swfFrom_sdel k h) (by omega) (sdel_ne m k)

/-- Forgetting entries keeps a store in canonical form. -/
theorem swf_filter {α : Type} [DecidableEq α] {d : α} {m : Sparse α} (h : swf d m = true) (p : Nat × α → Bool) : swf d (m.filter p) = true :=
  swfFrom_filter p h

/-- A byte written is the byte read, and every other byte reads as before. -/
@[simp] theorem State.byte_putByte_same (s : State) (a : Nat) (v : Byte) : (s.putByte a v).byte a = v := sget_sset_same _ _ _ _

theorem State.byte_putByte_other (s : State) {a b : Nat} (v : Byte) (h : b ≠ a) : (s.putByte a v).byte b = s.byte b :=
  sget_sset_other _ _ _ h

/-- Bytes outside a written range read as before. -/
theorem State.byte_putBytes_outside (s : State) (a : Nat) (v : List Byte) (b : Nat) (h : b < a ∨ a + v.length ≤ b) :
    (s.putBytes a v).byte b = s.byte b := by
  induction v generalizing s a with
  | nil => rfl
  | cons x v ih =>
    simp only [State.putBytes]
    rw [ih (s.putByte a x) (a + 1) (by simp at h; omega)]
    exact State.byte_putByte_other s x (by simp at h; omega)

/-- The bytes of a written range read as written. -/
theorem State.byte_putBytes_inside (s : State) (a : Nat) (v : List Byte) (i : Nat) (h : i < v.length) :
    (s.putBytes a v).byte (a + i) = v.getD i 0 := by
  induction v generalizing s a i with
  | nil => simp at h
  | cons x v ih =>
    simp only [State.putBytes]
    cases i with
    | zero => rw [State.byte_putBytes_outside _ _ _ _ (by omega)]; simp
    | succ i =>
      have := ih (s.putByte a x) (a + 1) i (by simpa using h)
      rw [show a + (i + 1) = a + 1 + i by omega, this]; rfl

theorem State.putByte_wf {s : State} (h : Memory.wf s.mem = true) (a : Nat) (v : Byte) : Memory.wf (s.putByte a v).mem = true :=
  swf_sset h a v

theorem State.putBytes_wf {s : State} (h : Memory.wf s.mem = true) (a : Nat) (v : List Byte) : Memory.wf (s.putBytes a v).mem = true := by
  induction v generalizing s a with
  | nil => exact h
  | cons x v ih => exact ih (State.putByte_wf h a x) (a + 1)

/-- Memory at reset is in canonical form. -/
theorem State.reset_wf : Memory.wf State.reset.mem = true := rfl

end Sys2Proof.Machine
end

