-- ==== Sys2Proof/Laws/State.lean ====
section
/-!
SUPPORT. Laws/State.lean: what each named update of the state leaves as it was, and what reading the part written gives: one
lemma for each field and each update, so that no proof unfolds a record update.
-/
namespace Sys2Proof.Machine

/-! setBay -/

@[simp] theorem State.setBay_pending (s : State) (b : Nat) (x : Bay) : (s.setBay b x).pending = s.pending := rfl
@[simp] theorem State.setBay_fuse (s : State) (b : Nat) (x : Bay) : (s.setBay b x).fuse = s.fuse := rfl
@[simp] theorem State.setBay_pins (s : State) (b : Nat) (x : Bay) : (s.setBay b x).pins = s.pins := rfl
@[simp] theorem State.setBay_power (s : State) (b : Nat) (x : Bay) : (s.setBay b x).power = s.power := rfl
@[simp] theorem State.setBay_clock (s : State) (b : Nat) (x : Bay) : (s.setBay b x).clock = s.clock := rfl
@[simp] theorem State.setBay_regs (s : State) (b : Nat) (x : Bay) : (s.setBay b x).regs = s.regs := rfl
@[simp] theorem State.setBay_mem (s : State) (b : Nat) (x : Bay) : (s.setBay b x).mem = s.mem := rfl
@[simp] theorem State.setBay_memErr (s : State) (b : Nat) (x : Bay) : (s.setBay b x).memErr = s.memErr := rfl
@[simp] theorem State.setBay_ddrKeyed (s : State) (b : Nat) (x : Bay) : (s.setBay b x).ddrKeyed = s.ddrKeyed := rfl
@[simp] theorem State.setBay_stagehands (s : State) (b : Nat) (x : Bay) : (s.setBay b x).stagehands = s.stagehands := rfl
@[simp] theorem State.setBay_revolve (s : State) (b : Nat) (x : Bay) : (s.setBay b x).revolve = s.revolve := rfl
@[simp] theorem State.setBay_walkers (s : State) (b : Nat) (x : Bay) : (s.setBay b x).walkers = s.walkers := rfl
@[simp] theorem State.setBay_flits (s : State) (b : Nat) (x : Bay) : (s.setBay b x).flits = s.flits := rfl
@[simp] theorem State.setBay_slotUsed (s : State) (b : Nat) (x : Bay) : (s.setBay b x).slotUsed = s.slotUsed := rfl
@[simp] theorem State.setBay_cuePkts (s : State) (b : Nat) (x : Bay) : (s.setBay b x).cuePkts = s.cuePkts := rfl
@[simp] theorem State.setBay_cueCyc (s : State) (b : Nat) (x : Bay) : (s.setBay b x).cueCyc = s.cueCyc := rfl
@[simp] theorem State.setBay_cueLinks (s : State) (b : Nat) (x : Bay) : (s.setBay b x).cueLinks = s.cueLinks := rfl
@[simp] theorem State.setBay_cueTurn (s : State) (b : Nat) (x : Bay) : (s.setBay b x).cueTurn = s.cueTurn := rfl
@[simp] theorem State.setBay_cueArrived (s : State) (b : Nat) (x : Bay) : (s.setBay b x).cueArrived = s.cueArrived := rfl
@[simp] theorem State.setBay_crt (s : State) (b : Nat) (x : Bay) : (s.setBay b x).crt = s.crt := rfl
@[simp] theorem State.setBay_cps (s : State) (b : Nat) (x : Bay) : (s.setBay b x).cps = s.cps := rfl
@[simp] theorem State.setBay_ctxs (s : State) (b : Nat) (x : Bay) : (s.setBay b x).ctxs = s.ctxs := rfl
@[simp] theorem State.setBay_parts (s : State) (b : Nat) (x : Bay) : (s.setBay b x).parts = s.parts := rfl
@[simp] theorem State.setBay_shape (s : State) (b : Nat) (x : Bay) : (s.setBay b x).shape = s.shape := rfl
@[simp] theorem State.setBay_faults (s : State) (b : Nat) (x : Bay) : (s.setBay b x).faults = s.faults := rfl
@[simp] theorem State.setBay_links (s : State) (b : Nat) (x : Bay) : (s.setBay b x).links = s.links := rfl
@[simp] theorem State.setBay_casts (s : State) (b : Nat) (x : Bay) : (s.setBay b x).casts = s.casts := rfl
@[simp] theorem State.setBay_ctls (s : State) (b : Nat) (x : Bay) : (s.setBay b x).ctls = s.ctls := rfl
@[simp] theorem State.setBay_keySlots (s : State) (b : Nat) (x : Bay) : (s.setBay b x).keySlots = s.keySlots := rfl
@[simp] theorem State.setBay_keyRanges (s : State) (b : Nat) (x : Bay) : (s.setBay b x).keyRanges = s.keyRanges := rfl
@[simp] theorem State.setBay_eth (s : State) (b : Nat) (x : Bay) : (s.setBay b x).eth = s.eth := rfl
@[simp] theorem State.setBay_chain (s : State) (b : Nat) (x : Bay) : (s.setBay b x).chain = s.chain := rfl
@[simp] theorem State.setBay_ymr (s : State) (b : Nat) (x : Bay) : (s.setBay b x).ymr = s.ymr := rfl
@[simp] theorem State.setBay_mbx (s : State) (b : Nat) (x : Bay) : (s.setBay b x).mbx = s.mbx := rfl
@[simp] theorem State.setBay_resets (s : State) (b : Nat) (x : Bay) : (s.setBay b x).resets = s.resets := rfl
@[simp] theorem State.setBay_inter (s : State) (b : Nat) (x : Bay) : (s.setBay b x).inter = s.inter := rfl
@[simp] theorem State.setBay_badBays (s : State) (b : Nat) (x : Bay) : (s.setBay b x).badBays = s.badBays := rfl
@[simp] theorem State.setBay_free (s : State) (b : Nat) (x : Bay) : (s.setBay b x).free = s.free := rfl
@[simp] theorem State.hand_setBay (s : State) (b : Nat) (x : Bay) (l' : Nat) : (s.setBay b x).hand l' = s.hand l' := rfl
@[simp] theorem State.cp_setBay (s : State) (b : Nat) (x : Bay) (n' : Nat) : (s.setBay b x).cp n' = s.cp n' := rfl
@[simp] theorem State.part_setBay (s : State) (b : Nat) (x : Bay) (p' : Nat) : (s.setBay b x).part p' = s.part p' := rfl
@[simp] theorem State.ctx_setBay (s : State) (b : Nat) (x : Bay) (p' c' : Nat) : (s.setBay b x).ctx p' c' = s.ctx p' c' := rfl
@[simp] theorem State.link_setBay (s : State) (b : Nat) (x : Bay) (p' : Nat) : (s.setBay b x).link p' = s.link p' := rfl
@[simp] theorem State.cast_setBay (s : State) (b : Nat) (x : Bay) (g' : Nat) : (s.setBay b x).cast g' = s.cast g' := rfl
@[simp] theorem State.ctl_setBay (s : State) (b : Nat) (x : Bay) (n' : Nat) : (s.setBay b x).ctl n' = s.ctl n' := rfl
@[simp] theorem State.mail_setBay (s : State) (b : Nat) (x : Bay) (n' : Nat) : (s.setBay b x).mail n' = s.mail n' := rfl
@[simp] theorem State.curtain_setBay (s : State) (b : Nat) (x : Bay) (p' n' : Nat) : (s.setBay b x).curtain p' n' = s.curtain p' n' := rfl
@[simp] theorem State.faultRec_setBay (s : State) (b : Nat) (x : Bay) (p' c' : Nat) : (s.setBay b x).faultRec p' c' = s.faultRec p' c' := rfl
@[simp] theorem State.reg_setBay (s : State) (b : Nat) (x : Bay) (a' : Nat) : (s.setBay b x).reg a' = s.reg a' := rfl
@[simp] theorem State.port_setBay (s : State) (b : Nat) (x : Bay) (e' : Bool) : (s.setBay b x).port e' = s.port e' := rfl
@[simp] theorem State.byte_setBay (s : State) (b : Nat) (x : Bay) (a' : Nat) : (s.setBay b x).byte a' = s.byte a' := rfl
@[simp] theorem State.flagAt_setBay (s : State) (b : Nat) (x : Bay) (n' p' k' : Nat) : (s.setBay b x).flagAt n' p' k' = s.flagAt n' p' k' := rfl
@[simp] theorem State.partOfBay_setBay (s : State) (b : Nat) (x : Bay) (b' : Nat) : (s.setBay b x).partOfBay b' = s.partOfBay b' := rfl
@[simp] theorem State.bayActive_setBay (s : State) (b : Nat) (x : Bay) (b' : Nat) : (s.setBay b x).bayActive b' = s.bayActive b' := rfl
@[simp] theorem State.curCtx_setBay (s : State) (b : Nat) (x : Bay) (p' : Nat) : (s.setBay b x).curCtx p' = s.curCtx p' := rfl

/-! setHand -/

@[simp] theorem State.setHand_pending (s : State) (l : Nat) (x : Stagehand) : (s.setHand l x).pending = s.pending := rfl
@[simp] theorem State.setHand_fuse (s : State) (l : Nat) (x : Stagehand) : (s.setHand l x).fuse = s.fuse := rfl
@[simp] theorem State.setHand_pins (s : State) (l : Nat) (x : Stagehand) : (s.setHand l x).pins = s.pins := rfl
@[simp] theorem State.setHand_power (s : State) (l : Nat) (x : Stagehand) : (s.setHand l x).power = s.power := rfl
@[simp] theorem State.setHand_clock (s : State) (l : Nat) (x : Stagehand) : (s.setHand l x).clock = s.clock := rfl
@[simp] theorem State.setHand_regs (s : State) (l : Nat) (x : Stagehand) : (s.setHand l x).regs = s.regs := rfl
@[simp] theorem State.setHand_mem (s : State) (l : Nat) (x : Stagehand) : (s.setHand l x).mem = s.mem := rfl
@[simp] theorem State.setHand_memErr (s : State) (l : Nat) (x : Stagehand) : (s.setHand l x).memErr = s.memErr := rfl
@[simp] theorem State.setHand_ddrKeyed (s : State) (l : Nat) (x : Stagehand) : (s.setHand l x).ddrKeyed = s.ddrKeyed := rfl
@[simp] theorem State.setHand_bays (s : State) (l : Nat) (x : Stagehand) : (s.setHand l x).bays = s.bays := rfl
@[simp] theorem State.setHand_revolve (s : State) (l : Nat) (x : Stagehand) : (s.setHand l x).revolve = s.revolve := rfl
@[simp] theorem State.setHand_walkers (s : State) (l : Nat) (x : Stagehand) : (s.setHand l x).walkers = s.walkers := rfl
@[simp] theorem State.setHand_flits (s : State) (l : Nat) (x : Stagehand) : (s.setHand l x).flits = s.flits := rfl
@[simp] theorem State.setHand_slotUsed (s : State) (l : Nat) (x : Stagehand) : (s.setHand l x).slotUsed = s.slotUsed := rfl
@[simp] theorem State.setHand_cuePkts (s : State) (l : Nat) (x : Stagehand) : (s.setHand l x).cuePkts = s.cuePkts := rfl
@[simp] theorem State.setHand_cueCyc (s : State) (l : Nat) (x : Stagehand) : (s.setHand l x).cueCyc = s.cueCyc := rfl
@[simp] theorem State.setHand_cueLinks (s : State) (l : Nat) (x : Stagehand) : (s.setHand l x).cueLinks = s.cueLinks := rfl
@[simp] theorem State.setHand_cueTurn (s : State) (l : Nat) (x : Stagehand) : (s.setHand l x).cueTurn = s.cueTurn := rfl
@[simp] theorem State.setHand_cueArrived (s : State) (l : Nat) (x : Stagehand) : (s.setHand l x).cueArrived = s.cueArrived := rfl
@[simp] theorem State.setHand_crt (s : State) (l : Nat) (x : Stagehand) : (s.setHand l x).crt = s.crt := rfl
@[simp] theorem State.setHand_cps (s : State) (l : Nat) (x : Stagehand) : (s.setHand l x).cps = s.cps := rfl
@[simp] theorem State.setHand_ctxs (s : State) (l : Nat) (x : Stagehand) : (s.setHand l x).ctxs = s.ctxs := rfl
@[simp] theorem State.setHand_parts (s : State) (l : Nat) (x : Stagehand) : (s.setHand l x).parts = s.parts := rfl
@[simp] theorem State.setHand_shape (s : State) (l : Nat) (x : Stagehand) : (s.setHand l x).shape = s.shape := rfl
@[simp] theorem State.setHand_faults (s : State) (l : Nat) (x : Stagehand) : (s.setHand l x).faults = s.faults := rfl
@[simp] theorem State.setHand_links (s : State) (l : Nat) (x : Stagehand) : (s.setHand l x).links = s.links := rfl
@[simp] theorem State.setHand_casts (s : State) (l : Nat) (x : Stagehand) : (s.setHand l x).casts = s.casts := rfl
@[simp] theorem State.setHand_ctls (s : State) (l : Nat) (x : Stagehand) : (s.setHand l x).ctls = s.ctls := rfl
@[simp] theorem State.setHand_keySlots (s : State) (l : Nat) (x : Stagehand) : (s.setHand l x).keySlots = s.keySlots := rfl
@[simp] theorem State.setHand_keyRanges (s : State) (l : Nat) (x : Stagehand) : (s.setHand l x).keyRanges = s.keyRanges := rfl
@[simp] theorem State.setHand_eth (s : State) (l : Nat) (x : Stagehand) : (s.setHand l x).eth = s.eth := rfl
@[simp] theorem State.setHand_chain (s : State) (l : Nat) (x : Stagehand) : (s.setHand l x).chain = s.chain := rfl
@[simp] theorem State.setHand_ymr (s : State) (l : Nat) (x : Stagehand) : (s.setHand l x).ymr = s.ymr := rfl
@[simp] theorem State.setHand_mbx (s : State) (l : Nat) (x : Stagehand) : (s.setHand l x).mbx = s.mbx := rfl
@[simp] theorem State.setHand_resets (s : State) (l : Nat) (x : Stagehand) : (s.setHand l x).resets = s.resets := rfl
@[simp] theorem State.setHand_inter (s : State) (l : Nat) (x : Stagehand) : (s.setHand l x).inter = s.inter := rfl
@[simp] theorem State.setHand_badBays (s : State) (l : Nat) (x : Stagehand) : (s.setHand l x).badBays = s.badBays := rfl
@[simp] theorem State.setHand_free (s : State) (l : Nat) (x : Stagehand) : (s.setHand l x).free = s.free := rfl
@[simp] theorem State.bay_setHand (s : State) (l : Nat) (x : Stagehand) (b' : Nat) : (s.setHand l x).bay b' = s.bay b' := rfl
@[simp] theorem State.cp_setHand (s : State) (l : Nat) (x : Stagehand) (n' : Nat) : (s.setHand l x).cp n' = s.cp n' := rfl
@[simp] theorem State.part_setHand (s : State) (l : Nat) (x : Stagehand) (p' : Nat) : (s.setHand l x).part p' = s.part p' := rfl
@[simp] theorem State.ctx_setHand (s : State) (l : Nat) (x : Stagehand) (p' c' : Nat) : (s.setHand l x).ctx p' c' = s.ctx p' c' := rfl
@[simp] theorem State.link_setHand (s : State) (l : Nat) (x : Stagehand) (p' : Nat) : (s.setHand l x).link p' = s.link p' := rfl
@[simp] theorem State.cast_setHand (s : State) (l : Nat) (x : Stagehand) (g' : Nat) : (s.setHand l x).cast g' = s.cast g' := rfl
@[simp] theorem State.ctl_setHand (s : State) (l : Nat) (x : Stagehand) (n' : Nat) : (s.setHand l x).ctl n' = s.ctl n' := rfl
@[simp] theorem State.mail_setHand (s : State) (l : Nat) (x : Stagehand) (n' : Nat) : (s.setHand l x).mail n' = s.mail n' := rfl
@[simp] theorem State.curtain_setHand (s : State) (l : Nat) (x : Stagehand) (p' n' : Nat) : (s.setHand l x).curtain p' n' = s.curtain p' n' := rfl
@[simp] theorem State.faultRec_setHand (s : State) (l : Nat) (x : Stagehand) (p' c' : Nat) : (s.setHand l x).faultRec p' c' = s.faultRec p' c' := rfl
@[simp] theorem State.reg_setHand (s : State) (l : Nat) (x : Stagehand) (a' : Nat) : (s.setHand l x).reg a' = s.reg a' := rfl
@[simp] theorem State.port_setHand (s : State) (l : Nat) (x : Stagehand) (e' : Bool) : (s.setHand l x).port e' = s.port e' := rfl
@[simp] theorem State.byte_setHand (s : State) (l : Nat) (x : Stagehand) (a' : Nat) : (s.setHand l x).byte a' = s.byte a' := rfl
@[simp] theorem State.flagAt_setHand (s : State) (l : Nat) (x : Stagehand) (n' p' k' : Nat) : (s.setHand l x).flagAt n' p' k' = s.flagAt n' p' k' := rfl
@[simp] theorem State.partOfBay_setHand (s : State) (l : Nat) (x : Stagehand) (b' : Nat) : (s.setHand l x).partOfBay b' = s.partOfBay b' := rfl
@[simp] theorem State.bayActive_setHand (s : State) (l : Nat) (x : Stagehand) (b' : Nat) : (s.setHand l x).bayActive b' = s.bayActive b' := rfl
@[simp] theorem State.curCtx_setHand (s : State) (l : Nat) (x : Stagehand) (p' : Nat) : (s.setHand l x).curCtx p' = s.curCtx p' := rfl

/-! setCp -/

@[simp] theorem State.setCp_pending (s : State) (n : Nat) (x : CueProc) : (s.setCp n x).pending = s.pending := rfl
@[simp] theorem State.setCp_fuse (s : State) (n : Nat) (x : CueProc) : (s.setCp n x).fuse = s.fuse := rfl
@[simp] theorem State.setCp_pins (s : State) (n : Nat) (x : CueProc) : (s.setCp n x).pins = s.pins := rfl
@[simp] theorem State.setCp_power (s : State) (n : Nat) (x : CueProc) : (s.setCp n x).power = s.power := rfl
@[simp] theorem State.setCp_clock (s : State) (n : Nat) (x : CueProc) : (s.setCp n x).clock = s.clock := rfl
@[simp] theorem State.setCp_regs (s : State) (n : Nat) (x : CueProc) : (s.setCp n x).regs = s.regs := rfl
@[simp] theorem State.setCp_mem (s : State) (n : Nat) (x : CueProc) : (s.setCp n x).mem = s.mem := rfl
@[simp] theorem State.setCp_memErr (s : State) (n : Nat) (x : CueProc) : (s.setCp n x).memErr = s.memErr := rfl
@[simp] theorem State.setCp_ddrKeyed (s : State) (n : Nat) (x : CueProc) : (s.setCp n x).ddrKeyed = s.ddrKeyed := rfl
@[simp] theorem State.setCp_bays (s : State) (n : Nat) (x : CueProc) : (s.setCp n x).bays = s.bays := rfl
@[simp] theorem State.setCp_stagehands (s : State) (n : Nat) (x : CueProc) : (s.setCp n x).stagehands = s.stagehands := rfl
@[simp] theorem State.setCp_revolve (s : State) (n : Nat) (x : CueProc) : (s.setCp n x).revolve = s.revolve := rfl
@[simp] theorem State.setCp_walkers (s : State) (n : Nat) (x : CueProc) : (s.setCp n x).walkers = s.walkers := rfl
@[simp] theorem State.setCp_flits (s : State) (n : Nat) (x : CueProc) : (s.setCp n x).flits = s.flits := rfl
@[simp] theorem State.setCp_slotUsed (s : State) (n : Nat) (x : CueProc) : (s.setCp n x).slotUsed = s.slotUsed := rfl
@[simp] theorem State.setCp_cuePkts (s : State) (n : Nat) (x : CueProc) : (s.setCp n x).cuePkts = s.cuePkts := rfl
@[simp] theorem State.setCp_cueCyc (s : State) (n : Nat) (x : CueProc) : (s.setCp n x).cueCyc = s.cueCyc := rfl
@[simp] theorem State.setCp_cueLinks (s : State) (n : Nat) (x : CueProc) : (s.setCp n x).cueLinks = s.cueLinks := rfl
@[simp] theorem State.setCp_cueTurn (s : State) (n : Nat) (x : CueProc) : (s.setCp n x).cueTurn = s.cueTurn := rfl
@[simp] theorem State.setCp_cueArrived (s : State) (n : Nat) (x : CueProc) : (s.setCp n x).cueArrived = s.cueArrived := rfl
@[simp] theorem State.setCp_crt (s : State) (n : Nat) (x : CueProc) : (s.setCp n x).crt = s.crt := rfl
@[simp] theorem State.setCp_ctxs (s : State) (n : Nat) (x : CueProc) : (s.setCp n x).ctxs = s.ctxs := rfl
@[simp] theorem State.setCp_parts (s : State) (n : Nat) (x : CueProc) : (s.setCp n x).parts = s.parts := rfl
@[simp] theorem State.setCp_shape (s : State) (n : Nat) (x : CueProc) : (s.setCp n x).shape = s.shape := rfl
@[simp] theorem State.setCp_faults (s : State) (n : Nat) (x : CueProc) : (s.setCp n x).faults = s.faults := rfl
@[simp] theorem State.setCp_links (s : State) (n : Nat) (x : CueProc) : (s.setCp n x).links = s.links := rfl
@[simp] theorem State.setCp_casts (s : State) (n : Nat) (x : CueProc) : (s.setCp n x).casts = s.casts := rfl
@[simp] theorem State.setCp_ctls (s : State) (n : Nat) (x : CueProc) : (s.setCp n x).ctls = s.ctls := rfl
@[simp] theorem State.setCp_keySlots (s : State) (n : Nat) (x : CueProc) : (s.setCp n x).keySlots = s.keySlots := rfl
@[simp] theorem State.setCp_keyRanges (s : State) (n : Nat) (x : CueProc) : (s.setCp n x).keyRanges = s.keyRanges := rfl
@[simp] theorem State.setCp_eth (s : State) (n : Nat) (x : CueProc) : (s.setCp n x).eth = s.eth := rfl
@[simp] theorem State.setCp_chain (s : State) (n : Nat) (x : CueProc) : (s.setCp n x).chain = s.chain := rfl
@[simp] theorem State.setCp_ymr (s : State) (n : Nat) (x : CueProc) : (s.setCp n x).ymr = s.ymr := rfl
@[simp] theorem State.setCp_mbx (s : State) (n : Nat) (x : CueProc) : (s.setCp n x).mbx = s.mbx := rfl
@[simp] theorem State.setCp_resets (s : State) (n : Nat) (x : CueProc) : (s.setCp n x).resets = s.resets := rfl
@[simp] theorem State.setCp_inter (s : State) (n : Nat) (x : CueProc) : (s.setCp n x).inter = s.inter := rfl
@[simp] theorem State.setCp_badBays (s : State) (n : Nat) (x : CueProc) : (s.setCp n x).badBays = s.badBays := rfl
@[simp] theorem State.setCp_free (s : State) (n : Nat) (x : CueProc) : (s.setCp n x).free = s.free := rfl
@[simp] theorem State.bay_setCp (s : State) (n : Nat) (x : CueProc) (b' : Nat) : (s.setCp n x).bay b' = s.bay b' := rfl
@[simp] theorem State.hand_setCp (s : State) (n : Nat) (x : CueProc) (l' : Nat) : (s.setCp n x).hand l' = s.hand l' := rfl
@[simp] theorem State.part_setCp (s : State) (n : Nat) (x : CueProc) (p' : Nat) : (s.setCp n x).part p' = s.part p' := rfl
@[simp] theorem State.ctx_setCp (s : State) (n : Nat) (x : CueProc) (p' c' : Nat) : (s.setCp n x).ctx p' c' = s.ctx p' c' := rfl
@[simp] theorem State.link_setCp (s : State) (n : Nat) (x : CueProc) (p' : Nat) : (s.setCp n x).link p' = s.link p' := rfl
@[simp] theorem State.cast_setCp (s : State) (n : Nat) (x : CueProc) (g' : Nat) : (s.setCp n x).cast g' = s.cast g' := rfl
@[simp] theorem State.ctl_setCp (s : State) (n : Nat) (x : CueProc) (n' : Nat) : (s.setCp n x).ctl n' = s.ctl n' := rfl
@[simp] theorem State.mail_setCp (s : State) (n : Nat) (x : CueProc) (n' : Nat) : (s.setCp n x).mail n' = s.mail n' := rfl
@[simp] theorem State.curtain_setCp (s : State) (n : Nat) (x : CueProc) (p' n' : Nat) : (s.setCp n x).curtain p' n' = s.curtain p' n' := rfl
@[simp] theorem State.faultRec_setCp (s : State) (n : Nat) (x : CueProc) (p' c' : Nat) : (s.setCp n x).faultRec p' c' = s.faultRec p' c' := rfl
@[simp] theorem State.reg_setCp (s : State) (n : Nat) (x : CueProc) (a' : Nat) : (s.setCp n x).reg a' = s.reg a' := rfl
@[simp] theorem State.port_setCp (s : State) (n : Nat) (x : CueProc) (e' : Bool) : (s.setCp n x).port e' = s.port e' := rfl
@[simp] theorem State.byte_setCp (s : State) (n : Nat) (x : CueProc) (a' : Nat) : (s.setCp n x).byte a' = s.byte a' := rfl
@[simp] theorem State.flagAt_setCp (s : State) (n : Nat) (x : CueProc) (n' p' k' : Nat) : (s.setCp n x).flagAt n' p' k' = s.flagAt n' p' k' := rfl
@[simp] theorem State.partOfBay_setCp (s : State) (n : Nat) (x : CueProc) (b' : Nat) : (s.setCp n x).partOfBay b' = s.partOfBay b' := rfl
@[simp] theorem State.bayActive_setCp (s : State) (n : Nat) (x : CueProc) (b' : Nat) : (s.setCp n x).bayActive b' = s.bayActive b' := rfl
@[simp] theorem State.curCtx_setCp (s : State) (n : Nat) (x : CueProc) (p' : Nat) : (s.setCp n x).curCtx p' = s.curCtx p' := rfl

/-! setPart -/

@[simp] theorem State.setPart_pending (s : State) (p : Nat) (x : Partition) : (s.setPart p x).pending = s.pending := rfl
@[simp] theorem State.setPart_fuse (s : State) (p : Nat) (x : Partition) : (s.setPart p x).fuse = s.fuse := rfl
@[simp] theorem State.setPart_pins (s : State) (p : Nat) (x : Partition) : (s.setPart p x).pins = s.pins := rfl
@[simp] theorem State.setPart_power (s : State) (p : Nat) (x : Partition) : (s.setPart p x).power = s.power := rfl
@[simp] theorem State.setPart_clock (s : State) (p : Nat) (x : Partition) : (s.setPart p x).clock = s.clock := rfl
@[simp] theorem State.setPart_regs (s : State) (p : Nat) (x : Partition) : (s.setPart p x).regs = s.regs := rfl
@[simp] theorem State.setPart_mem (s : State) (p : Nat) (x : Partition) : (s.setPart p x).mem = s.mem := rfl
@[simp] theorem State.setPart_memErr (s : State) (p : Nat) (x : Partition) : (s.setPart p x).memErr = s.memErr := rfl
@[simp] theorem State.setPart_ddrKeyed (s : State) (p : Nat) (x : Partition) : (s.setPart p x).ddrKeyed = s.ddrKeyed := rfl
@[simp] theorem State.setPart_bays (s : State) (p : Nat) (x : Partition) : (s.setPart p x).bays = s.bays := rfl
@[simp] theorem State.setPart_stagehands (s : State) (p : Nat) (x : Partition) : (s.setPart p x).stagehands = s.stagehands := rfl
@[simp] theorem State.setPart_revolve (s : State) (p : Nat) (x : Partition) : (s.setPart p x).revolve = s.revolve := rfl
@[simp] theorem State.setPart_walkers (s : State) (p : Nat) (x : Partition) : (s.setPart p x).walkers = s.walkers := rfl
@[simp] theorem State.setPart_flits (s : State) (p : Nat) (x : Partition) : (s.setPart p x).flits = s.flits := rfl
@[simp] theorem State.setPart_slotUsed (s : State) (p : Nat) (x : Partition) : (s.setPart p x).slotUsed = s.slotUsed := rfl
@[simp] theorem State.setPart_cuePkts (s : State) (p : Nat) (x : Partition) : (s.setPart p x).cuePkts = s.cuePkts := rfl
@[simp] theorem State.setPart_cueCyc (s : State) (p : Nat) (x : Partition) : (s.setPart p x).cueCyc = s.cueCyc := rfl
@[simp] theorem State.setPart_cueLinks (s : State) (p : Nat) (x : Partition) : (s.setPart p x).cueLinks = s.cueLinks := rfl
@[simp] theorem State.setPart_cueTurn (s : State) (p : Nat) (x : Partition) : (s.setPart p x).cueTurn = s.cueTurn := rfl
@[simp] theorem State.setPart_cueArrived (s : State) (p : Nat) (x : Partition) : (s.setPart p x).cueArrived = s.cueArrived := rfl
@[simp] theorem State.setPart_crt (s : State) (p : Nat) (x : Partition) : (s.setPart p x).crt = s.crt := rfl
@[simp] theorem State.setPart_cps (s : State) (p : Nat) (x : Partition) : (s.setPart p x).cps = s.cps := rfl
@[simp] theorem State.setPart_ctxs (s : State) (p : Nat) (x : Partition) : (s.setPart p x).ctxs = s.ctxs := rfl
@[simp] theorem State.setPart_shape (s : State) (p : Nat) (x : Partition) : (s.setPart p x).shape = s.shape := rfl
@[simp] theorem State.setPart_faults (s : State) (p : Nat) (x : Partition) : (s.setPart p x).faults = s.faults := rfl
@[simp] theorem State.setPart_links (s : State) (p : Nat) (x : Partition) : (s.setPart p x).links = s.links := rfl
@[simp] theorem State.setPart_casts (s : State) (p : Nat) (x : Partition) : (s.setPart p x).casts = s.casts := rfl
@[simp] theorem State.setPart_ctls (s : State) (p : Nat) (x : Partition) : (s.setPart p x).ctls = s.ctls := rfl
@[simp] theorem State.setPart_keySlots (s : State) (p : Nat) (x : Partition) : (s.setPart p x).keySlots = s.keySlots := rfl
@[simp] theorem State.setPart_keyRanges (s : State) (p : Nat) (x : Partition) : (s.setPart p x).keyRanges = s.keyRanges := rfl
@[simp] theorem State.setPart_eth (s : State) (p : Nat) (x : Partition) : (s.setPart p x).eth = s.eth := rfl
@[simp] theorem State.setPart_chain (s : State) (p : Nat) (x : Partition) : (s.setPart p x).chain = s.chain := rfl
@[simp] theorem State.setPart_ymr (s : State) (p : Nat) (x : Partition) : (s.setPart p x).ymr = s.ymr := rfl
@[simp] theorem State.setPart_mbx (s : State) (p : Nat) (x : Partition) : (s.setPart p x).mbx = s.mbx := rfl
@[simp] theorem State.setPart_resets (s : State) (p : Nat) (x : Partition) : (s.setPart p x).resets = s.resets := rfl
@[simp] theorem State.setPart_inter (s : State) (p : Nat) (x : Partition) : (s.setPart p x).inter = s.inter := rfl
@[simp] theorem State.setPart_badBays (s : State) (p : Nat) (x : Partition) : (s.setPart p x).badBays = s.badBays := rfl
@[simp] theorem State.setPart_free (s : State) (p : Nat) (x : Partition) : (s.setPart p x).free = s.free := rfl
@[simp] theorem State.bay_setPart (s : State) (p : Nat) (x : Partition) (b' : Nat) : (s.setPart p x).bay b' = s.bay b' := rfl
@[simp] theorem State.hand_setPart (s : State) (p : Nat) (x : Partition) (l' : Nat) : (s.setPart p x).hand l' = s.hand l' := rfl
@[simp] theorem State.cp_setPart (s : State) (p : Nat) (x : Partition) (n' : Nat) : (s.setPart p x).cp n' = s.cp n' := rfl
@[simp] theorem State.ctx_setPart (s : State) (p : Nat) (x : Partition) (p' c' : Nat) : (s.setPart p x).ctx p' c' = s.ctx p' c' := rfl
@[simp] theorem State.link_setPart (s : State) (p : Nat) (x : Partition) (p' : Nat) : (s.setPart p x).link p' = s.link p' := rfl
@[simp] theorem State.cast_setPart (s : State) (p : Nat) (x : Partition) (g' : Nat) : (s.setPart p x).cast g' = s.cast g' := rfl
@[simp] theorem State.ctl_setPart (s : State) (p : Nat) (x : Partition) (n' : Nat) : (s.setPart p x).ctl n' = s.ctl n' := rfl
@[simp] theorem State.mail_setPart (s : State) (p : Nat) (x : Partition) (n' : Nat) : (s.setPart p x).mail n' = s.mail n' := rfl
@[simp] theorem State.curtain_setPart (s : State) (p : Nat) (x : Partition) (p' n' : Nat) : (s.setPart p x).curtain p' n' = s.curtain p' n' := rfl
@[simp] theorem State.faultRec_setPart (s : State) (p : Nat) (x : Partition) (p' c' : Nat) : (s.setPart p x).faultRec p' c' = s.faultRec p' c' := rfl
@[simp] theorem State.reg_setPart (s : State) (p : Nat) (x : Partition) (a' : Nat) : (s.setPart p x).reg a' = s.reg a' := rfl
@[simp] theorem State.port_setPart (s : State) (p : Nat) (x : Partition) (e' : Bool) : (s.setPart p x).port e' = s.port e' := rfl
@[simp] theorem State.byte_setPart (s : State) (p : Nat) (x : Partition) (a' : Nat) : (s.setPart p x).byte a' = s.byte a' := rfl
@[simp] theorem State.flagAt_setPart (s : State) (p : Nat) (x : Partition) (n' p' k' : Nat) : (s.setPart p x).flagAt n' p' k' = s.flagAt n' p' k' := rfl
@[simp] theorem State.partOfBay_setPart (s : State) (p : Nat) (x : Partition) (b' : Nat) : (s.setPart p x).partOfBay b' = s.partOfBay b' := rfl
@[simp] theorem State.bayActive_setPart (s : State) (p : Nat) (x : Partition) (b' : Nat) : (s.setPart p x).bayActive b' = s.bayActive b' := rfl

/-! setCtx -/

@[simp] theorem State.setCtx_pending (s : State) (p c : Nat) (x : Context) : (s.setCtx p c x).pending = s.pending := rfl
@[simp] theorem State.setCtx_fuse (s : State) (p c : Nat) (x : Context) : (s.setCtx p c x).fuse = s.fuse := rfl
@[simp] theorem State.setCtx_pins (s : State) (p c : Nat) (x : Context) : (s.setCtx p c x).pins = s.pins := rfl
@[simp] theorem State.setCtx_power (s : State) (p c : Nat) (x : Context) : (s.setCtx p c x).power = s.power := rfl
@[simp] theorem State.setCtx_clock (s : State) (p c : Nat) (x : Context) : (s.setCtx p c x).clock = s.clock := rfl
@[simp] theorem State.setCtx_regs (s : State) (p c : Nat) (x : Context) : (s.setCtx p c x).regs = s.regs := rfl
@[simp] theorem State.setCtx_mem (s : State) (p c : Nat) (x : Context) : (s.setCtx p c x).mem = s.mem := rfl
@[simp] theorem State.setCtx_memErr (s : State) (p c : Nat) (x : Context) : (s.setCtx p c x).memErr = s.memErr := rfl
@[simp] theorem State.setCtx_ddrKeyed (s : State) (p c : Nat) (x : Context) : (s.setCtx p c x).ddrKeyed = s.ddrKeyed := rfl
@[simp] theorem State.setCtx_bays (s : State) (p c : Nat) (x : Context) : (s.setCtx p c x).bays = s.bays := rfl
@[simp] theorem State.setCtx_stagehands (s : State) (p c : Nat) (x : Context) : (s.setCtx p c x).stagehands = s.stagehands := rfl
@[simp] theorem State.setCtx_revolve (s : State) (p c : Nat) (x : Context) : (s.setCtx p c x).revolve = s.revolve := rfl
@[simp] theorem State.setCtx_walkers (s : State) (p c : Nat) (x : Context) : (s.setCtx p c x).walkers = s.walkers := rfl
@[simp] theorem State.setCtx_flits (s : State) (p c : Nat) (x : Context) : (s.setCtx p c x).flits = s.flits := rfl
@[simp] theorem State.setCtx_slotUsed (s : State) (p c : Nat) (x : Context) : (s.setCtx p c x).slotUsed = s.slotUsed := rfl
@[simp] theorem State.setCtx_cuePkts (s : State) (p c : Nat) (x : Context) : (s.setCtx p c x).cuePkts = s.cuePkts := rfl
@[simp] theorem State.setCtx_cueCyc (s : State) (p c : Nat) (x : Context) : (s.setCtx p c x).cueCyc = s.cueCyc := rfl
@[simp] theorem State.setCtx_cueLinks (s : State) (p c : Nat) (x : Context) : (s.setCtx p c x).cueLinks = s.cueLinks := rfl
@[simp] theorem State.setCtx_cueTurn (s : State) (p c : Nat) (x : Context) : (s.setCtx p c x).cueTurn = s.cueTurn := rfl
@[simp] theorem State.setCtx_cueArrived (s : State) (p c : Nat) (x : Context) : (s.setCtx p c x).cueArrived = s.cueArrived := rfl
@[simp] theorem State.setCtx_crt (s : State) (p c : Nat) (x : Context) : (s.setCtx p c x).crt = s.crt := rfl
@[simp] theorem State.setCtx_cps (s : State) (p c : Nat) (x : Context) : (s.setCtx p c x).cps = s.cps := rfl
@[simp] theorem State.setCtx_parts (s : State) (p c : Nat) (x : Context) : (s.setCtx p c x).parts = s.parts := rfl
@[simp] theorem State.setCtx_shape (s : State) (p c : Nat) (x : Context) : (s.setCtx p c x).shape = s.shape := rfl
@[simp] theorem State.setCtx_faults (s : State) (p c : Nat) (x : Context) : (s.setCtx p c x).faults = s.faults := rfl
@[simp] theorem State.setCtx_links (s : State) (p c : Nat) (x : Context) : (s.setCtx p c x).links = s.links := rfl
@[simp] theorem State.setCtx_casts (s : State) (p c : Nat) (x : Context) : (s.setCtx p c x).casts = s.casts := rfl
@[simp] theorem State.setCtx_ctls (s : State) (p c : Nat) (x : Context) : (s.setCtx p c x).ctls = s.ctls := rfl
@[simp] theorem State.setCtx_keySlots (s : State) (p c : Nat) (x : Context) : (s.setCtx p c x).keySlots = s.keySlots := rfl
@[simp] theorem State.setCtx_keyRanges (s : State) (p c : Nat) (x : Context) : (s.setCtx p c x).keyRanges = s.keyRanges := rfl
@[simp] theorem State.setCtx_eth (s : State) (p c : Nat) (x : Context) : (s.setCtx p c x).eth = s.eth := rfl
@[simp] theorem State.setCtx_chain (s : State) (p c : Nat) (x : Context) : (s.setCtx p c x).chain = s.chain := rfl
@[simp] theorem State.setCtx_ymr (s : State) (p c : Nat) (x : Context) : (s.setCtx p c x).ymr = s.ymr := rfl
@[simp] theorem State.setCtx_mbx (s : State) (p c : Nat) (x : Context) : (s.setCtx p c x).mbx = s.mbx := rfl
@[simp] theorem State.setCtx_resets (s : State) (p c : Nat) (x : Context) : (s.setCtx p c x).resets = s.resets := rfl
@[simp] theorem State.setCtx_inter (s : State) (p c : Nat) (x : Context) : (s.setCtx p c x).inter = s.inter := rfl
@[simp] theorem State.setCtx_badBays (s : State) (p c : Nat) (x : Context) : (s.setCtx p c x).badBays = s.badBays := rfl
@[simp] theorem State.setCtx_free (s : State) (p c : Nat) (x : Context) : (s.setCtx p c x).free = s.free := rfl
@[simp] theorem State.bay_setCtx (s : State) (p c : Nat) (x : Context) (b' : Nat) : (s.setCtx p c x).bay b' = s.bay b' := rfl
@[simp] theorem State.hand_setCtx (s : State) (p c : Nat) (x : Context) (l' : Nat) : (s.setCtx p c x).hand l' = s.hand l' := rfl
@[simp] theorem State.cp_setCtx (s : State) (p c : Nat) (x : Context) (n' : Nat) : (s.setCtx p c x).cp n' = s.cp n' := rfl
@[simp] theorem State.part_setCtx (s : State) (p c : Nat) (x : Context) (p' : Nat) : (s.setCtx p c x).part p' = s.part p' := rfl
@[simp] theorem State.link_setCtx (s : State) (p c : Nat) (x : Context) (p' : Nat) : (s.setCtx p c x).link p' = s.link p' := rfl
@[simp] theorem State.cast_setCtx (s : State) (p c : Nat) (x : Context) (g' : Nat) : (s.setCtx p c x).cast g' = s.cast g' := rfl
@[simp] theorem State.ctl_setCtx (s : State) (p c : Nat) (x : Context) (n' : Nat) : (s.setCtx p c x).ctl n' = s.ctl n' := rfl
@[simp] theorem State.mail_setCtx (s : State) (p c : Nat) (x : Context) (n' : Nat) : (s.setCtx p c x).mail n' = s.mail n' := rfl
@[simp] theorem State.curtain_setCtx (s : State) (p c : Nat) (x : Context) (p' n' : Nat) : (s.setCtx p c x).curtain p' n' = s.curtain p' n' := rfl
@[simp] theorem State.faultRec_setCtx (s : State) (p c : Nat) (x : Context) (p' c' : Nat) : (s.setCtx p c x).faultRec p' c' = s.faultRec p' c' := rfl
@[simp] theorem State.reg_setCtx (s : State) (p c : Nat) (x : Context) (a' : Nat) : (s.setCtx p c x).reg a' = s.reg a' := rfl
@[simp] theorem State.port_setCtx (s : State) (p c : Nat) (x : Context) (e' : Bool) : (s.setCtx p c x).port e' = s.port e' := rfl
@[simp] theorem State.byte_setCtx (s : State) (p c : Nat) (x : Context) (a' : Nat) : (s.setCtx p c x).byte a' = s.byte a' := rfl
@[simp] theorem State.flagAt_setCtx (s : State) (p c : Nat) (x : Context) (n' p' k' : Nat) : (s.setCtx p c x).flagAt n' p' k' = s.flagAt n' p' k' := rfl
@[simp] theorem State.partOfBay_setCtx (s : State) (p c : Nat) (x : Context) (b' : Nat) : (s.setCtx p c x).partOfBay b' = s.partOfBay b' := rfl
@[simp] theorem State.bayActive_setCtx (s : State) (p c : Nat) (x : Context) (b' : Nat) : (s.setCtx p c x).bayActive b' = s.bayActive b' := rfl
@[simp] theorem State.curCtx_setCtx (s : State) (p c : Nat) (x : Context) (p' : Nat) : (s.setCtx p c x).curCtx p' = s.curCtx p' := rfl

/-! setLink -/

@[simp] theorem State.setLink_pending (s : State) (p : Nat) (x : LinkEng) : (s.setLink p x).pending = s.pending := rfl
@[simp] theorem State.setLink_fuse (s : State) (p : Nat) (x : LinkEng) : (s.setLink p x).fuse = s.fuse := rfl
@[simp] theorem State.setLink_pins (s : State) (p : Nat) (x : LinkEng) : (s.setLink p x).pins = s.pins := rfl
@[simp] theorem State.setLink_power (s : State) (p : Nat) (x : LinkEng) : (s.setLink p x).power = s.power := rfl
@[simp] theorem State.setLink_clock (s : State) (p : Nat) (x : LinkEng) : (s.setLink p x).clock = s.clock := rfl
@[simp] theorem State.setLink_regs (s : State) (p : Nat) (x : LinkEng) : (s.setLink p x).regs = s.regs := rfl
@[simp] theorem State.setLink_mem (s : State) (p : Nat) (x : LinkEng) : (s.setLink p x).mem = s.mem := rfl
@[simp] theorem State.setLink_memErr (s : State) (p : Nat) (x : LinkEng) : (s.setLink p x).memErr = s.memErr := rfl
@[simp] theorem State.setLink_ddrKeyed (s : State) (p : Nat) (x : LinkEng) : (s.setLink p x).ddrKeyed = s.ddrKeyed := rfl
@[simp] theorem State.setLink_bays (s : State) (p : Nat) (x : LinkEng) : (s.setLink p x).bays = s.bays := rfl
@[simp] theorem State.setLink_stagehands (s : State) (p : Nat) (x : LinkEng) : (s.setLink p x).stagehands = s.stagehands := rfl
@[simp] theorem State.setLink_revolve (s : State) (p : Nat) (x : LinkEng) : (s.setLink p x).revolve = s.revolve := rfl
@[simp] theorem State.setLink_walkers (s : State) (p : Nat) (x : LinkEng) : (s.setLink p x).walkers = s.walkers := rfl
@[simp] theorem State.setLink_flits (s : State) (p : Nat) (x : LinkEng) : (s.setLink p x).flits = s.flits := rfl
@[simp] theorem State.setLink_slotUsed (s : State) (p : Nat) (x : LinkEng) : (s.setLink p x).slotUsed = s.slotUsed := rfl
@[simp] theorem State.setLink_cuePkts (s : State) (p : Nat) (x : LinkEng) : (s.setLink p x).cuePkts = s.cuePkts := rfl
@[simp] theorem State.setLink_cueCyc (s : State) (p : Nat) (x : LinkEng) : (s.setLink p x).cueCyc = s.cueCyc := rfl
@[simp] theorem State.setLink_cueLinks (s : State) (p : Nat) (x : LinkEng) : (s.setLink p x).cueLinks = s.cueLinks := rfl
@[simp] theorem State.setLink_cueTurn (s : State) (p : Nat) (x : LinkEng) : (s.setLink p x).cueTurn = s.cueTurn := rfl
@[simp] theorem State.setLink_cueArrived (s : State) (p : Nat) (x : LinkEng) : (s.setLink p x).cueArrived = s.cueArrived := rfl
@[simp] theorem State.setLink_crt (s : State) (p : Nat) (x : LinkEng) : (s.setLink p x).crt = s.crt := rfl
@[simp] theorem State.setLink_cps (s : State) (p : Nat) (x : LinkEng) : (s.setLink p x).cps = s.cps := rfl
@[simp] theorem State.setLink_ctxs (s : State) (p : Nat) (x : LinkEng) : (s.setLink p x).ctxs = s.ctxs := rfl
@[simp] theorem State.setLink_parts (s : State) (p : Nat) (x : LinkEng) : (s.setLink p x).parts = s.parts := rfl
@[simp] theorem State.setLink_shape (s : State) (p : Nat) (x : LinkEng) : (s.setLink p x).shape = s.shape := rfl
@[simp] theorem State.setLink_faults (s : State) (p : Nat) (x : LinkEng) : (s.setLink p x).faults = s.faults := rfl
@[simp] theorem State.setLink_casts (s : State) (p : Nat) (x : LinkEng) : (s.setLink p x).casts = s.casts := rfl
@[simp] theorem State.setLink_ctls (s : State) (p : Nat) (x : LinkEng) : (s.setLink p x).ctls = s.ctls := rfl
@[simp] theorem State.setLink_keySlots (s : State) (p : Nat) (x : LinkEng) : (s.setLink p x).keySlots = s.keySlots := rfl
@[simp] theorem State.setLink_keyRanges (s : State) (p : Nat) (x : LinkEng) : (s.setLink p x).keyRanges = s.keyRanges := rfl
@[simp] theorem State.setLink_eth (s : State) (p : Nat) (x : LinkEng) : (s.setLink p x).eth = s.eth := rfl
@[simp] theorem State.setLink_chain (s : State) (p : Nat) (x : LinkEng) : (s.setLink p x).chain = s.chain := rfl
@[simp] theorem State.setLink_ymr (s : State) (p : Nat) (x : LinkEng) : (s.setLink p x).ymr = s.ymr := rfl
@[simp] theorem State.setLink_mbx (s : State) (p : Nat) (x : LinkEng) : (s.setLink p x).mbx = s.mbx := rfl
@[simp] theorem State.setLink_resets (s : State) (p : Nat) (x : LinkEng) : (s.setLink p x).resets = s.resets := rfl
@[simp] theorem State.setLink_inter (s : State) (p : Nat) (x : LinkEng) : (s.setLink p x).inter = s.inter := rfl
@[simp] theorem State.setLink_badBays (s : State) (p : Nat) (x : LinkEng) : (s.setLink p x).badBays = s.badBays := rfl
@[simp] theorem State.setLink_free (s : State) (p : Nat) (x : LinkEng) : (s.setLink p x).free = s.free := rfl
@[simp] theorem State.bay_setLink (s : State) (p : Nat) (x : LinkEng) (b' : Nat) : (s.setLink p x).bay b' = s.bay b' := rfl
@[simp] theorem State.hand_setLink (s : State) (p : Nat) (x : LinkEng) (l' : Nat) : (s.setLink p x).hand l' = s.hand l' := rfl
@[simp] theorem State.cp_setLink (s : State) (p : Nat) (x : LinkEng) (n' : Nat) : (s.setLink p x).cp n' = s.cp n' := rfl
@[simp] theorem State.part_setLink (s : State) (p : Nat) (x : LinkEng) (p' : Nat) : (s.setLink p x).part p' = s.part p' := rfl
@[simp] theorem State.ctx_setLink (s : State) (p : Nat) (x : LinkEng) (p' c' : Nat) : (s.setLink p x).ctx p' c' = s.ctx p' c' := rfl
@[simp] theorem State.cast_setLink (s : State) (p : Nat) (x : LinkEng) (g' : Nat) : (s.setLink p x).cast g' = s.cast g' := rfl
@[simp] theorem State.ctl_setLink (s : State) (p : Nat) (x : LinkEng) (n' : Nat) : (s.setLink p x).ctl n' = s.ctl n' := rfl
@[simp] theorem State.mail_setLink (s : State) (p : Nat) (x : LinkEng) (n' : Nat) : (s.setLink p x).mail n' = s.mail n' := rfl
@[simp] theorem State.curtain_setLink (s : State) (p : Nat) (x : LinkEng) (p' n' : Nat) : (s.setLink p x).curtain p' n' = s.curtain p' n' := rfl
@[simp] theorem State.faultRec_setLink (s : State) (p : Nat) (x : LinkEng) (p' c' : Nat) : (s.setLink p x).faultRec p' c' = s.faultRec p' c' := rfl
@[simp] theorem State.reg_setLink (s : State) (p : Nat) (x : LinkEng) (a' : Nat) : (s.setLink p x).reg a' = s.reg a' := rfl
@[simp] theorem State.port_setLink (s : State) (p : Nat) (x : LinkEng) (e' : Bool) : (s.setLink p x).port e' = s.port e' := rfl
@[simp] theorem State.byte_setLink (s : State) (p : Nat) (x : LinkEng) (a' : Nat) : (s.setLink p x).byte a' = s.byte a' := rfl
@[simp] theorem State.flagAt_setLink (s : State) (p : Nat) (x : LinkEng) (n' p' k' : Nat) : (s.setLink p x).flagAt n' p' k' = s.flagAt n' p' k' := rfl
@[simp] theorem State.partOfBay_setLink (s : State) (p : Nat) (x : LinkEng) (b' : Nat) : (s.setLink p x).partOfBay b' = s.partOfBay b' := rfl
@[simp] theorem State.bayActive_setLink (s : State) (p : Nat) (x : LinkEng) (b' : Nat) : (s.setLink p x).bayActive b' = s.bayActive b' := rfl
@[simp] theorem State.curCtx_setLink (s : State) (p : Nat) (x : LinkEng) (p' : Nat) : (s.setLink p x).curCtx p' = s.curCtx p' := rfl

/-! setCast -/

@[simp] theorem State.setCast_pending (s : State) (g : Nat) (x : CastList) : (s.setCast g x).pending = s.pending := rfl
@[simp] theorem State.setCast_fuse (s : State) (g : Nat) (x : CastList) : (s.setCast g x).fuse = s.fuse := rfl
@[simp] theorem State.setCast_pins (s : State) (g : Nat) (x : CastList) : (s.setCast g x).pins = s.pins := rfl
@[simp] theorem State.setCast_power (s : State) (g : Nat) (x : CastList) : (s.setCast g x).power = s.power := rfl
@[simp] theorem State.setCast_clock (s : State) (g : Nat) (x : CastList) : (s.setCast g x).clock = s.clock := rfl
@[simp] theorem State.setCast_regs (s : State) (g : Nat) (x : CastList) : (s.setCast g x).regs = s.regs := rfl
@[simp] theorem State.setCast_mem (s : State) (g : Nat) (x : CastList) : (s.setCast g x).mem = s.mem := rfl
@[simp] theorem State.setCast_memErr (s : State) (g : Nat) (x : CastList) : (s.setCast g x).memErr = s.memErr := rfl
@[simp] theorem State.setCast_ddrKeyed (s : State) (g : Nat) (x : CastList) : (s.setCast g x).ddrKeyed = s.ddrKeyed := rfl
@[simp] theorem State.setCast_bays (s : State) (g : Nat) (x : CastList) : (s.setCast g x).bays = s.bays := rfl
@[simp] theorem State.setCast_stagehands (s : State) (g : Nat) (x : CastList) : (s.setCast g x).stagehands = s.stagehands := rfl
@[simp] theorem State.setCast_revolve (s : State) (g : Nat) (x : CastList) : (s.setCast g x).revolve = s.revolve := rfl
@[simp] theorem State.setCast_walkers (s : State) (g : Nat) (x : CastList) : (s.setCast g x).walkers = s.walkers := rfl
@[simp] theorem State.setCast_flits (s : State) (g : Nat) (x : CastList) : (s.setCast g x).flits = s.flits := rfl
@[simp] theorem State.setCast_slotUsed (s : State) (g : Nat) (x : CastList) : (s.setCast g x).slotUsed = s.slotUsed := rfl
@[simp] theorem State.setCast_cuePkts (s : State) (g : Nat) (x : CastList) : (s.setCast g x).cuePkts = s.cuePkts := rfl
@[simp] theorem State.setCast_cueCyc (s : State) (g : Nat) (x : CastList) : (s.setCast g x).cueCyc = s.cueCyc := rfl
@[simp] theorem State.setCast_cueLinks (s : State) (g : Nat) (x : CastList) : (s.setCast g x).cueLinks = s.cueLinks := rfl
@[simp] theorem State.setCast_cueTurn (s : State) (g : Nat) (x : CastList) : (s.setCast g x).cueTurn = s.cueTurn := rfl
@[simp] theorem State.setCast_cueArrived (s : State) (g : Nat) (x : CastList) : (s.setCast g x).cueArrived = s.cueArrived := rfl
@[simp] theorem State.setCast_crt (s : State) (g : Nat) (x : CastList) : (s.setCast g x).crt = s.crt := rfl
@[simp] theorem State.setCast_cps (s : State) (g : Nat) (x : CastList) : (s.setCast g x).cps = s.cps := rfl
@[simp] theorem State.setCast_ctxs (s : State) (g : Nat) (x : CastList) : (s.setCast g x).ctxs = s.ctxs := rfl
@[simp] theorem State.setCast_parts (s : State) (g : Nat) (x : CastList) : (s.setCast g x).parts = s.parts := rfl
@[simp] theorem State.setCast_shape (s : State) (g : Nat) (x : CastList) : (s.setCast g x).shape = s.shape := rfl
@[simp] theorem State.setCast_faults (s : State) (g : Nat) (x : CastList) : (s.setCast g x).faults = s.faults := rfl
@[simp] theorem State.setCast_links (s : State) (g : Nat) (x : CastList) : (s.setCast g x).links = s.links := rfl
@[simp] theorem State.setCast_ctls (s : State) (g : Nat) (x : CastList) : (s.setCast g x).ctls = s.ctls := rfl
@[simp] theorem State.setCast_keySlots (s : State) (g : Nat) (x : CastList) : (s.setCast g x).keySlots = s.keySlots := rfl
@[simp] theorem State.setCast_keyRanges (s : State) (g : Nat) (x : CastList) : (s.setCast g x).keyRanges = s.keyRanges := rfl
@[simp] theorem State.setCast_eth (s : State) (g : Nat) (x : CastList) : (s.setCast g x).eth = s.eth := rfl
@[simp] theorem State.setCast_chain (s : State) (g : Nat) (x : CastList) : (s.setCast g x).chain = s.chain := rfl
@[simp] theorem State.setCast_ymr (s : State) (g : Nat) (x : CastList) : (s.setCast g x).ymr = s.ymr := rfl
@[simp] theorem State.setCast_mbx (s : State) (g : Nat) (x : CastList) : (s.setCast g x).mbx = s.mbx := rfl
@[simp] theorem State.setCast_resets (s : State) (g : Nat) (x : CastList) : (s.setCast g x).resets = s.resets := rfl
@[simp] theorem State.setCast_inter (s : State) (g : Nat) (x : CastList) : (s.setCast g x).inter = s.inter := rfl
@[simp] theorem State.setCast_badBays (s : State) (g : Nat) (x : CastList) : (s.setCast g x).badBays = s.badBays := rfl
@[simp] theorem State.setCast_free (s : State) (g : Nat) (x : CastList) : (s.setCast g x).free = s.free := rfl
@[simp] theorem State.bay_setCast (s : State) (g : Nat) (x : CastList) (b' : Nat) : (s.setCast g x).bay b' = s.bay b' := rfl
@[simp] theorem State.hand_setCast (s : State) (g : Nat) (x : CastList) (l' : Nat) : (s.setCast g x).hand l' = s.hand l' := rfl
@[simp] theorem State.cp_setCast (s : State) (g : Nat) (x : CastList) (n' : Nat) : (s.setCast g x).cp n' = s.cp n' := rfl
@[simp] theorem State.part_setCast (s : State) (g : Nat) (x : CastList) (p' : Nat) : (s.setCast g x).part p' = s.part p' := rfl
@[simp] theorem State.ctx_setCast (s : State) (g : Nat) (x : CastList) (p' c' : Nat) : (s.setCast g x).ctx p' c' = s.ctx p' c' := rfl
@[simp] theorem State.link_setCast (s : State) (g : Nat) (x : CastList) (p' : Nat) : (s.setCast g x).link p' = s.link p' := rfl
@[simp] theorem State.ctl_setCast (s : State) (g : Nat) (x : CastList) (n' : Nat) : (s.setCast g x).ctl n' = s.ctl n' := rfl
@[simp] theorem State.mail_setCast (s : State) (g : Nat) (x : CastList) (n' : Nat) : (s.setCast g x).mail n' = s.mail n' := rfl
@[simp] theorem State.curtain_setCast (s : State) (g : Nat) (x : CastList) (p' n' : Nat) : (s.setCast g x).curtain p' n' = s.curtain p' n' := rfl
@[simp] theorem State.faultRec_setCast (s : State) (g : Nat) (x : CastList) (p' c' : Nat) : (s.setCast g x).faultRec p' c' = s.faultRec p' c' := rfl
@[simp] theorem State.reg_setCast (s : State) (g : Nat) (x : CastList) (a' : Nat) : (s.setCast g x).reg a' = s.reg a' := rfl
@[simp] theorem State.port_setCast (s : State) (g : Nat) (x : CastList) (e' : Bool) : (s.setCast g x).port e' = s.port e' := rfl
@[simp] theorem State.byte_setCast (s : State) (g : Nat) (x : CastList) (a' : Nat) : (s.setCast g x).byte a' = s.byte a' := rfl
@[simp] theorem State.flagAt_setCast (s : State) (g : Nat) (x : CastList) (n' p' k' : Nat) : (s.setCast g x).flagAt n' p' k' = s.flagAt n' p' k' := rfl
@[simp] theorem State.partOfBay_setCast (s : State) (g : Nat) (x : CastList) (b' : Nat) : (s.setCast g x).partOfBay b' = s.partOfBay b' := rfl
@[simp] theorem State.bayActive_setCast (s : State) (g : Nat) (x : CastList) (b' : Nat) : (s.setCast g x).bayActive b' = s.bayActive b' := rfl
@[simp] theorem State.curCtx_setCast (s : State) (g : Nat) (x : CastList) (p' : Nat) : (s.setCast g x).curCtx p' = s.curCtx p' := rfl

/-! setCtl -/

@[simp] theorem State.setCtl_pending (s : State) (n : Nat) (x : MemCtl) : (s.setCtl n x).pending = s.pending := rfl
@[simp] theorem State.setCtl_fuse (s : State) (n : Nat) (x : MemCtl) : (s.setCtl n x).fuse = s.fuse := rfl
@[simp] theorem State.setCtl_pins (s : State) (n : Nat) (x : MemCtl) : (s.setCtl n x).pins = s.pins := rfl
@[simp] theorem State.setCtl_power (s : State) (n : Nat) (x : MemCtl) : (s.setCtl n x).power = s.power := rfl
@[simp] theorem State.setCtl_clock (s : State) (n : Nat) (x : MemCtl) : (s.setCtl n x).clock = s.clock := rfl
@[simp] theorem State.setCtl_regs (s : State) (n : Nat) (x : MemCtl) : (s.setCtl n x).regs = s.regs := rfl
@[simp] theorem State.setCtl_mem (s : State) (n : Nat) (x : MemCtl) : (s.setCtl n x).mem = s.mem := rfl
@[simp] theorem State.setCtl_memErr (s : State) (n : Nat) (x : MemCtl) : (s.setCtl n x).memErr = s.memErr := rfl
@[simp] theorem State.setCtl_ddrKeyed (s : State) (n : Nat) (x : MemCtl) : (s.setCtl n x).ddrKeyed = s.ddrKeyed := rfl
@[simp] theorem State.setCtl_bays (s : State) (n : Nat) (x : MemCtl) : (s.setCtl n x).bays = s.bays := rfl
@[simp] theorem State.setCtl_stagehands (s : State) (n : Nat) (x : MemCtl) : (s.setCtl n x).stagehands = s.stagehands := rfl
@[simp] theorem State.setCtl_revolve (s : State) (n : Nat) (x : MemCtl) : (s.setCtl n x).revolve = s.revolve := rfl
@[simp] theorem State.setCtl_walkers (s : State) (n : Nat) (x : MemCtl) : (s.setCtl n x).walkers = s.walkers := rfl
@[simp] theorem State.setCtl_flits (s : State) (n : Nat) (x : MemCtl) : (s.setCtl n x).flits = s.flits := rfl
@[simp] theorem State.setCtl_slotUsed (s : State) (n : Nat) (x : MemCtl) : (s.setCtl n x).slotUsed = s.slotUsed := rfl
@[simp] theorem State.setCtl_cuePkts (s : State) (n : Nat) (x : MemCtl) : (s.setCtl n x).cuePkts = s.cuePkts := rfl
@[simp] theorem State.setCtl_cueCyc (s : State) (n : Nat) (x : MemCtl) : (s.setCtl n x).cueCyc = s.cueCyc := rfl
@[simp] theorem State.setCtl_cueLinks (s : State) (n : Nat) (x : MemCtl) : (s.setCtl n x).cueLinks = s.cueLinks := rfl
@[simp] theorem State.setCtl_cueTurn (s : State) (n : Nat) (x : MemCtl) : (s.setCtl n x).cueTurn = s.cueTurn := rfl
@[simp] theorem State.setCtl_cueArrived (s : State) (n : Nat) (x : MemCtl) : (s.setCtl n x).cueArrived = s.cueArrived := rfl
@[simp] theorem State.setCtl_crt (s : State) (n : Nat) (x : MemCtl) : (s.setCtl n x).crt = s.crt := rfl
@[simp] theorem State.setCtl_cps (s : State) (n : Nat) (x : MemCtl) : (s.setCtl n x).cps = s.cps := rfl
@[simp] theorem State.setCtl_ctxs (s : State) (n : Nat) (x : MemCtl) : (s.setCtl n x).ctxs = s.ctxs := rfl
@[simp] theorem State.setCtl_parts (s : State) (n : Nat) (x : MemCtl) : (s.setCtl n x).parts = s.parts := rfl
@[simp] theorem State.setCtl_shape (s : State) (n : Nat) (x : MemCtl) : (s.setCtl n x).shape = s.shape := rfl
@[simp] theorem State.setCtl_faults (s : State) (n : Nat) (x : MemCtl) : (s.setCtl n x).faults = s.faults := rfl
@[simp] theorem State.setCtl_links (s : State) (n : Nat) (x : MemCtl) : (s.setCtl n x).links = s.links := rfl
@[simp] theorem State.setCtl_casts (s : State) (n : Nat) (x : MemCtl) : (s.setCtl n x).casts = s.casts := rfl
@[simp] theorem State.setCtl_keySlots (s : State) (n : Nat) (x : MemCtl) : (s.setCtl n x).keySlots = s.keySlots := rfl
@[simp] theorem State.setCtl_keyRanges (s : State) (n : Nat) (x : MemCtl) : (s.setCtl n x).keyRanges = s.keyRanges := rfl
@[simp] theorem State.setCtl_eth (s : State) (n : Nat) (x : MemCtl) : (s.setCtl n x).eth = s.eth := rfl
@[simp] theorem State.setCtl_chain (s : State) (n : Nat) (x : MemCtl) : (s.setCtl n x).chain = s.chain := rfl
@[simp] theorem State.setCtl_ymr (s : State) (n : Nat) (x : MemCtl) : (s.setCtl n x).ymr = s.ymr := rfl
@[simp] theorem State.setCtl_mbx (s : State) (n : Nat) (x : MemCtl) : (s.setCtl n x).mbx = s.mbx := rfl
@[simp] theorem State.setCtl_resets (s : State) (n : Nat) (x : MemCtl) : (s.setCtl n x).resets = s.resets := rfl
@[simp] theorem State.setCtl_inter (s : State) (n : Nat) (x : MemCtl) : (s.setCtl n x).inter = s.inter := rfl
@[simp] theorem State.setCtl_badBays (s : State) (n : Nat) (x : MemCtl) : (s.setCtl n x).badBays = s.badBays := rfl
@[simp] theorem State.setCtl_free (s : State) (n : Nat) (x : MemCtl) : (s.setCtl n x).free = s.free := rfl
@[simp] theorem State.bay_setCtl (s : State) (n : Nat) (x : MemCtl) (b' : Nat) : (s.setCtl n x).bay b' = s.bay b' := rfl
@[simp] theorem State.hand_setCtl (s : State) (n : Nat) (x : MemCtl) (l' : Nat) : (s.setCtl n x).hand l' = s.hand l' := rfl
@[simp] theorem State.cp_setCtl (s : State) (n : Nat) (x : MemCtl) (n' : Nat) : (s.setCtl n x).cp n' = s.cp n' := rfl
@[simp] theorem State.part_setCtl (s : State) (n : Nat) (x : MemCtl) (p' : Nat) : (s.setCtl n x).part p' = s.part p' := rfl
@[simp] theorem State.ctx_setCtl (s : State) (n : Nat) (x : MemCtl) (p' c' : Nat) : (s.setCtl n x).ctx p' c' = s.ctx p' c' := rfl
@[simp] theorem State.link_setCtl (s : State) (n : Nat) (x : MemCtl) (p' : Nat) : (s.setCtl n x).link p' = s.link p' := rfl
@[simp] theorem State.cast_setCtl (s : State) (n : Nat) (x : MemCtl) (g' : Nat) : (s.setCtl n x).cast g' = s.cast g' := rfl
@[simp] theorem State.mail_setCtl (s : State) (n : Nat) (x : MemCtl) (n' : Nat) : (s.setCtl n x).mail n' = s.mail n' := rfl
@[simp] theorem State.curtain_setCtl (s : State) (n : Nat) (x : MemCtl) (p' n' : Nat) : (s.setCtl n x).curtain p' n' = s.curtain p' n' := rfl
@[simp] theorem State.faultRec_setCtl (s : State) (n : Nat) (x : MemCtl) (p' c' : Nat) : (s.setCtl n x).faultRec p' c' = s.faultRec p' c' := rfl
@[simp] theorem State.reg_setCtl (s : State) (n : Nat) (x : MemCtl) (a' : Nat) : (s.setCtl n x).reg a' = s.reg a' := rfl
@[simp] theorem State.port_setCtl (s : State) (n : Nat) (x : MemCtl) (e' : Bool) : (s.setCtl n x).port e' = s.port e' := rfl
@[simp] theorem State.byte_setCtl (s : State) (n : Nat) (x : MemCtl) (a' : Nat) : (s.setCtl n x).byte a' = s.byte a' := rfl
@[simp] theorem State.flagAt_setCtl (s : State) (n : Nat) (x : MemCtl) (n' p' k' : Nat) : (s.setCtl n x).flagAt n' p' k' = s.flagAt n' p' k' := rfl
@[simp] theorem State.partOfBay_setCtl (s : State) (n : Nat) (x : MemCtl) (b' : Nat) : (s.setCtl n x).partOfBay b' = s.partOfBay b' := rfl
@[simp] theorem State.bayActive_setCtl (s : State) (n : Nat) (x : MemCtl) (b' : Nat) : (s.setCtl n x).bayActive b' = s.bayActive b' := rfl
@[simp] theorem State.curCtx_setCtl (s : State) (n : Nat) (x : MemCtl) (p' : Nat) : (s.setCtl n x).curCtx p' = s.curCtx p' := rfl

/-! setMail -/

@[simp] theorem State.setMail_pending (s : State) (n : Nat) (x : Mailbox) : (s.setMail n x).pending = s.pending := rfl
@[simp] theorem State.setMail_fuse (s : State) (n : Nat) (x : Mailbox) : (s.setMail n x).fuse = s.fuse := rfl
@[simp] theorem State.setMail_pins (s : State) (n : Nat) (x : Mailbox) : (s.setMail n x).pins = s.pins := rfl
@[simp] theorem State.setMail_power (s : State) (n : Nat) (x : Mailbox) : (s.setMail n x).power = s.power := rfl
@[simp] theorem State.setMail_clock (s : State) (n : Nat) (x : Mailbox) : (s.setMail n x).clock = s.clock := rfl
@[simp] theorem State.setMail_regs (s : State) (n : Nat) (x : Mailbox) : (s.setMail n x).regs = s.regs := rfl
@[simp] theorem State.setMail_mem (s : State) (n : Nat) (x : Mailbox) : (s.setMail n x).mem = s.mem := rfl
@[simp] theorem State.setMail_memErr (s : State) (n : Nat) (x : Mailbox) : (s.setMail n x).memErr = s.memErr := rfl
@[simp] theorem State.setMail_ddrKeyed (s : State) (n : Nat) (x : Mailbox) : (s.setMail n x).ddrKeyed = s.ddrKeyed := rfl
@[simp] theorem State.setMail_bays (s : State) (n : Nat) (x : Mailbox) : (s.setMail n x).bays = s.bays := rfl
@[simp] theorem State.setMail_stagehands (s : State) (n : Nat) (x : Mailbox) : (s.setMail n x).stagehands = s.stagehands := rfl
@[simp] theorem State.setMail_revolve (s : State) (n : Nat) (x : Mailbox) : (s.setMail n x).revolve = s.revolve := rfl
@[simp] theorem State.setMail_walkers (s : State) (n : Nat) (x : Mailbox) : (s.setMail n x).walkers = s.walkers := rfl
@[simp] theorem State.setMail_flits (s : State) (n : Nat) (x : Mailbox) : (s.setMail n x).flits = s.flits := rfl
@[simp] theorem State.setMail_slotUsed (s : State) (n : Nat) (x : Mailbox) : (s.setMail n x).slotUsed = s.slotUsed := rfl
@[simp] theorem State.setMail_cuePkts (s : State) (n : Nat) (x : Mailbox) : (s.setMail n x).cuePkts = s.cuePkts := rfl
@[simp] theorem State.setMail_cueCyc (s : State) (n : Nat) (x : Mailbox) : (s.setMail n x).cueCyc = s.cueCyc := rfl
@[simp] theorem State.setMail_cueLinks (s : State) (n : Nat) (x : Mailbox) : (s.setMail n x).cueLinks = s.cueLinks := rfl
@[simp] theorem State.setMail_cueTurn (s : State) (n : Nat) (x : Mailbox) : (s.setMail n x).cueTurn = s.cueTurn := rfl
@[simp] theorem State.setMail_cueArrived (s : State) (n : Nat) (x : Mailbox) : (s.setMail n x).cueArrived = s.cueArrived := rfl
@[simp] theorem State.setMail_crt (s : State) (n : Nat) (x : Mailbox) : (s.setMail n x).crt = s.crt := rfl
@[simp] theorem State.setMail_cps (s : State) (n : Nat) (x : Mailbox) : (s.setMail n x).cps = s.cps := rfl
@[simp] theorem State.setMail_ctxs (s : State) (n : Nat) (x : Mailbox) : (s.setMail n x).ctxs = s.ctxs := rfl
@[simp] theorem State.setMail_parts (s : State) (n : Nat) (x : Mailbox) : (s.setMail n x).parts = s.parts := rfl
@[simp] theorem State.setMail_shape (s : State) (n : Nat) (x : Mailbox) : (s.setMail n x).shape = s.shape := rfl
@[simp] theorem State.setMail_faults (s : State) (n : Nat) (x : Mailbox) : (s.setMail n x).faults = s.faults := rfl
@[simp] theorem State.setMail_links (s : State) (n : Nat) (x : Mailbox) : (s.setMail n x).links = s.links := rfl
@[simp] theorem State.setMail_casts (s : State) (n : Nat) (x : Mailbox) : (s.setMail n x).casts = s.casts := rfl
@[simp] theorem State.setMail_ctls (s : State) (n : Nat) (x : Mailbox) : (s.setMail n x).ctls = s.ctls := rfl
@[simp] theorem State.setMail_keySlots (s : State) (n : Nat) (x : Mailbox) : (s.setMail n x).keySlots = s.keySlots := rfl
@[simp] theorem State.setMail_keyRanges (s : State) (n : Nat) (x : Mailbox) : (s.setMail n x).keyRanges = s.keyRanges := rfl
@[simp] theorem State.setMail_eth (s : State) (n : Nat) (x : Mailbox) : (s.setMail n x).eth = s.eth := rfl
@[simp] theorem State.setMail_chain (s : State) (n : Nat) (x : Mailbox) : (s.setMail n x).chain = s.chain := rfl
@[simp] theorem State.setMail_ymr (s : State) (n : Nat) (x : Mailbox) : (s.setMail n x).ymr = s.ymr := rfl
@[simp] theorem State.setMail_resets (s : State) (n : Nat) (x : Mailbox) : (s.setMail n x).resets = s.resets := rfl
@[simp] theorem State.setMail_inter (s : State) (n : Nat) (x : Mailbox) : (s.setMail n x).inter = s.inter := rfl
@[simp] theorem State.setMail_badBays (s : State) (n : Nat) (x : Mailbox) : (s.setMail n x).badBays = s.badBays := rfl
@[simp] theorem State.setMail_free (s : State) (n : Nat) (x : Mailbox) : (s.setMail n x).free = s.free := rfl
@[simp] theorem State.bay_setMail (s : State) (n : Nat) (x : Mailbox) (b' : Nat) : (s.setMail n x).bay b' = s.bay b' := rfl
@[simp] theorem State.hand_setMail (s : State) (n : Nat) (x : Mailbox) (l' : Nat) : (s.setMail n x).hand l' = s.hand l' := rfl
@[simp] theorem State.cp_setMail (s : State) (n : Nat) (x : Mailbox) (n' : Nat) : (s.setMail n x).cp n' = s.cp n' := rfl
@[simp] theorem State.part_setMail (s : State) (n : Nat) (x : Mailbox) (p' : Nat) : (s.setMail n x).part p' = s.part p' := rfl
@[simp] theorem State.ctx_setMail (s : State) (n : Nat) (x : Mailbox) (p' c' : Nat) : (s.setMail n x).ctx p' c' = s.ctx p' c' := rfl
@[simp] theorem State.link_setMail (s : State) (n : Nat) (x : Mailbox) (p' : Nat) : (s.setMail n x).link p' = s.link p' := rfl
@[simp] theorem State.cast_setMail (s : State) (n : Nat) (x : Mailbox) (g' : Nat) : (s.setMail n x).cast g' = s.cast g' := rfl
@[simp] theorem State.ctl_setMail (s : State) (n : Nat) (x : Mailbox) (n' : Nat) : (s.setMail n x).ctl n' = s.ctl n' := rfl
@[simp] theorem State.curtain_setMail (s : State) (n : Nat) (x : Mailbox) (p' n' : Nat) : (s.setMail n x).curtain p' n' = s.curtain p' n' := rfl
@[simp] theorem State.faultRec_setMail (s : State) (n : Nat) (x : Mailbox) (p' c' : Nat) : (s.setMail n x).faultRec p' c' = s.faultRec p' c' := rfl
@[simp] theorem State.reg_setMail (s : State) (n : Nat) (x : Mailbox) (a' : Nat) : (s.setMail n x).reg a' = s.reg a' := rfl
@[simp] theorem State.port_setMail (s : State) (n : Nat) (x : Mailbox) (e' : Bool) : (s.setMail n x).port e' = s.port e' := rfl
@[simp] theorem State.byte_setMail (s : State) (n : Nat) (x : Mailbox) (a' : Nat) : (s.setMail n x).byte a' = s.byte a' := rfl
@[simp] theorem State.flagAt_setMail (s : State) (n : Nat) (x : Mailbox) (n' p' k' : Nat) : (s.setMail n x).flagAt n' p' k' = s.flagAt n' p' k' := rfl
@[simp] theorem State.partOfBay_setMail (s : State) (n : Nat) (x : Mailbox) (b' : Nat) : (s.setMail n x).partOfBay b' = s.partOfBay b' := rfl
@[simp] theorem State.bayActive_setMail (s : State) (n : Nat) (x : Mailbox) (b' : Nat) : (s.setMail n x).bayActive b' = s.bayActive b' := rfl
@[simp] theorem State.curCtx_setMail (s : State) (n : Nat) (x : Mailbox) (p' : Nat) : (s.setMail n x).curCtx p' = s.curCtx p' := rfl

/-! setCurtain -/

@[simp] theorem State.setCurtain_pending (s : State) (p n : Nat) (x : Curtain) : (s.setCurtain p n x).pending = s.pending := rfl
@[simp] theorem State.setCurtain_fuse (s : State) (p n : Nat) (x : Curtain) : (s.setCurtain p n x).fuse = s.fuse := rfl
@[simp] theorem State.setCurtain_pins (s : State) (p n : Nat) (x : Curtain) : (s.setCurtain p n x).pins = s.pins := rfl
@[simp] theorem State.setCurtain_power (s : State) (p n : Nat) (x : Curtain) : (s.setCurtain p n x).power = s.power := rfl
@[simp] theorem State.setCurtain_clock (s : State) (p n : Nat) (x : Curtain) : (s.setCurtain p n x).clock = s.clock := rfl
@[simp] theorem State.setCurtain_regs (s : State) (p n : Nat) (x : Curtain) : (s.setCurtain p n x).regs = s.regs := rfl
@[simp] theorem State.setCurtain_mem (s : State) (p n : Nat) (x : Curtain) : (s.setCurtain p n x).mem = s.mem := rfl
@[simp] theorem State.setCurtain_memErr (s : State) (p n : Nat) (x : Curtain) : (s.setCurtain p n x).memErr = s.memErr := rfl
@[simp] theorem State.setCurtain_ddrKeyed (s : State) (p n : Nat) (x : Curtain) : (s.setCurtain p n x).ddrKeyed = s.ddrKeyed := rfl
@[simp] theorem State.setCurtain_bays (s : State) (p n : Nat) (x : Curtain) : (s.setCurtain p n x).bays = s.bays := rfl
@[simp] theorem State.setCurtain_stagehands (s : State) (p n : Nat) (x : Curtain) : (s.setCurtain p n x).stagehands = s.stagehands := rfl
@[simp] theorem State.setCurtain_revolve (s : State) (p n : Nat) (x : Curtain) : (s.setCurtain p n x).revolve = s.revolve := rfl
@[simp] theorem State.setCurtain_walkers (s : State) (p n : Nat) (x : Curtain) : (s.setCurtain p n x).walkers = s.walkers := rfl
@[simp] theorem State.setCurtain_flits (s : State) (p n : Nat) (x : Curtain) : (s.setCurtain p n x).flits = s.flits := rfl
@[simp] theorem State.setCurtain_slotUsed (s : State) (p n : Nat) (x : Curtain) : (s.setCurtain p n x).slotUsed = s.slotUsed := rfl
@[simp] theorem State.setCurtain_cuePkts (s : State) (p n : Nat) (x : Curtain) : (s.setCurtain p n x).cuePkts = s.cuePkts := rfl
@[simp] theorem State.setCurtain_cueCyc (s : State) (p n : Nat) (x : Curtain) : (s.setCurtain p n x).cueCyc = s.cueCyc := rfl
@[simp] theorem State.setCurtain_cueLinks (s : State) (p n : Nat) (x : Curtain) : (s.setCurtain p n x).cueLinks = s.cueLinks := rfl
@[simp] theorem State.setCurtain_cueTurn (s : State) (p n : Nat) (x : Curtain) : (s.setCurtain p n x).cueTurn = s.cueTurn := rfl
@[simp] theorem State.setCurtain_cueArrived (s : State) (p n : Nat) (x : Curtain) : (s.setCurtain p n x).cueArrived = s.cueArrived := rfl
@[simp] theorem State.setCurtain_cps (s : State) (p n : Nat) (x : Curtain) : (s.setCurtain p n x).cps = s.cps := rfl
@[simp] theorem State.setCurtain_ctxs (s : State) (p n : Nat) (x : Curtain) : (s.setCurtain p n x).ctxs = s.ctxs := rfl
@[simp] theorem State.setCurtain_parts (s : State) (p n : Nat) (x : Curtain) : (s.setCurtain p n x).parts = s.parts := rfl
@[simp] theorem State.setCurtain_shape (s : State) (p n : Nat) (x : Curtain) : (s.setCurtain p n x).shape = s.shape := rfl
@[simp] theorem State.setCurtain_faults (s : State) (p n : Nat) (x : Curtain) : (s.setCurtain p n x).faults = s.faults := rfl
@[simp] theorem State.setCurtain_links (s : State) (p n : Nat) (x : Curtain) : (s.setCurtain p n x).links = s.links := rfl
@[simp] theorem State.setCurtain_casts (s : State) (p n : Nat) (x : Curtain) : (s.setCurtain p n x).casts = s.casts := rfl
@[simp] theorem State.setCurtain_ctls (s : State) (p n : Nat) (x : Curtain) : (s.setCurtain p n x).ctls = s.ctls := rfl
@[simp] theorem State.setCurtain_keySlots (s : State) (p n : Nat) (x : Curtain) : (s.setCurtain p n x).keySlots = s.keySlots := rfl
@[simp] theorem State.setCurtain_keyRanges (s : State) (p n : Nat) (x : Curtain) : (s.setCurtain p n x).keyRanges = s.keyRanges := rfl
@[simp] theorem State.setCurtain_eth (s : State) (p n : Nat) (x : Curtain) : (s.setCurtain p n x).eth = s.eth := rfl
@[simp] theorem State.setCurtain_chain (s : State) (p n : Nat) (x : Curtain) : (s.setCurtain p n x).chain = s.chain := rfl
@[simp] theorem State.setCurtain_ymr (s : State) (p n : Nat) (x : Curtain) : (s.setCurtain p n x).ymr = s.ymr := rfl
@[simp] theorem State.setCurtain_mbx (s : State) (p n : Nat) (x : Curtain) : (s.setCurtain p n x).mbx = s.mbx := rfl
@[simp] theorem State.setCurtain_resets (s : State) (p n : Nat) (x : Curtain) : (s.setCurtain p n x).resets = s.resets := rfl
@[simp] theorem State.setCurtain_inter (s : State) (p n : Nat) (x : Curtain) : (s.setCurtain p n x).inter = s.inter := rfl
@[simp] theorem State.setCurtain_badBays (s : State) (p n : Nat) (x : Curtain) : (s.setCurtain p n x).badBays = s.badBays := rfl
@[simp] theorem State.setCurtain_free (s : State) (p n : Nat) (x : Curtain) : (s.setCurtain p n x).free = s.free := rfl
@[simp] theorem State.bay_setCurtain (s : State) (p n : Nat) (x : Curtain) (b' : Nat) : (s.setCurtain p n x).bay b' = s.bay b' := rfl
@[simp] theorem State.hand_setCurtain (s : State) (p n : Nat) (x : Curtain) (l' : Nat) : (s.setCurtain p n x).hand l' = s.hand l' := rfl
@[simp] theorem State.cp_setCurtain (s : State) (p n : Nat) (x : Curtain) (n' : Nat) : (s.setCurtain p n x).cp n' = s.cp n' := rfl
@[simp] theorem State.part_setCurtain (s : State) (p n : Nat) (x : Curtain) (p' : Nat) : (s.setCurtain p n x).part p' = s.part p' := rfl
@[simp] theorem State.ctx_setCurtain (s : State) (p n : Nat) (x : Curtain) (p' c' : Nat) : (s.setCurtain p n x).ctx p' c' = s.ctx p' c' := rfl
@[simp] theorem State.link_setCurtain (s : State) (p n : Nat) (x : Curtain) (p' : Nat) : (s.setCurtain p n x).link p' = s.link p' := rfl
@[simp] theorem State.cast_setCurtain (s : State) (p n : Nat) (x : Curtain) (g' : Nat) : (s.setCurtain p n x).cast g' = s.cast g' := rfl
@[simp] theorem State.ctl_setCurtain (s : State) (p n : Nat) (x : Curtain) (n' : Nat) : (s.setCurtain p n x).ctl n' = s.ctl n' := rfl
@[simp] theorem State.mail_setCurtain (s : State) (p n : Nat) (x : Curtain) (n' : Nat) : (s.setCurtain p n x).mail n' = s.mail n' := rfl
@[simp] theorem State.faultRec_setCurtain (s : State) (p n : Nat) (x : Curtain) (p' c' : Nat) : (s.setCurtain p n x).faultRec p' c' = s.faultRec p' c' := rfl
@[simp] theorem State.reg_setCurtain (s : State) (p n : Nat) (x : Curtain) (a' : Nat) : (s.setCurtain p n x).reg a' = s.reg a' := rfl
@[simp] theorem State.port_setCurtain (s : State) (p n : Nat) (x : Curtain) (e' : Bool) : (s.setCurtain p n x).port e' = s.port e' := rfl
@[simp] theorem State.byte_setCurtain (s : State) (p n : Nat) (x : Curtain) (a' : Nat) : (s.setCurtain p n x).byte a' = s.byte a' := rfl
@[simp] theorem State.partOfBay_setCurtain (s : State) (p n : Nat) (x : Curtain) (b' : Nat) : (s.setCurtain p n x).partOfBay b' = s.partOfBay b' := rfl
@[simp] theorem State.bayActive_setCurtain (s : State) (p n : Nat) (x : Curtain) (b' : Nat) : (s.setCurtain p n x).bayActive b' = s.bayActive b' := rfl
@[simp] theorem State.curCtx_setCurtain (s : State) (p n : Nat) (x : Curtain) (p' : Nat) : (s.setCurtain p n x).curCtx p' = s.curCtx p' := rfl

/-! setFaultRec -/

@[simp] theorem State.setFaultRec_pending (s : State) (p c : Nat) (x : Option FaultRec) : (s.setFaultRec p c x).pending = s.pending := rfl
@[simp] theorem State.setFaultRec_fuse (s : State) (p c : Nat) (x : Option FaultRec) : (s.setFaultRec p c x).fuse = s.fuse := rfl
@[simp] theorem State.setFaultRec_pins (s : State) (p c : Nat) (x : Option FaultRec) : (s.setFaultRec p c x).pins = s.pins := rfl
@[simp] theorem State.setFaultRec_power (s : State) (p c : Nat) (x : Option FaultRec) : (s.setFaultRec p c x).power = s.power := rfl
@[simp] theorem State.setFaultRec_clock (s : State) (p c : Nat) (x : Option FaultRec) : (s.setFaultRec p c x).clock = s.clock := rfl
@[simp] theorem State.setFaultRec_regs (s : State) (p c : Nat) (x : Option FaultRec) : (s.setFaultRec p c x).regs = s.regs := rfl
@[simp] theorem State.setFaultRec_mem (s : State) (p c : Nat) (x : Option FaultRec) : (s.setFaultRec p c x).mem = s.mem := rfl
@[simp] theorem State.setFaultRec_memErr (s : State) (p c : Nat) (x : Option FaultRec) : (s.setFaultRec p c x).memErr = s.memErr := rfl
@[simp] theorem State.setFaultRec_ddrKeyed (s : State) (p c : Nat) (x : Option FaultRec) : (s.setFaultRec p c x).ddrKeyed = s.ddrKeyed := rfl
@[simp] theorem State.setFaultRec_bays (s : State) (p c : Nat) (x : Option FaultRec) : (s.setFaultRec p c x).bays = s.bays := rfl
@[simp] theorem State.setFaultRec_stagehands (s : State) (p c : Nat) (x : Option FaultRec) : (s.setFaultRec p c x).stagehands = s.stagehands := rfl
@[simp] theorem State.setFaultRec_revolve (s : State) (p c : Nat) (x : Option FaultRec) : (s.setFaultRec p c x).revolve = s.revolve := rfl
@[simp] theorem State.setFaultRec_walkers (s : State) (p c : Nat) (x : Option FaultRec) : (s.setFaultRec p c x).walkers = s.walkers := rfl
@[simp] theorem State.setFaultRec_flits (s : State) (p c : Nat) (x : Option FaultRec) : (s.setFaultRec p c x).flits = s.flits := rfl
@[simp] theorem State.setFaultRec_slotUsed (s : State) (p c : Nat) (x : Option FaultRec) : (s.setFaultRec p c x).slotUsed = s.slotUsed := rfl
@[simp] theorem State.setFaultRec_cuePkts (s : State) (p c : Nat) (x : Option FaultRec) : (s.setFaultRec p c x).cuePkts = s.cuePkts := rfl
@[simp] theorem State.setFaultRec_cueCyc (s : State) (p c : Nat) (x : Option FaultRec) : (s.setFaultRec p c x).cueCyc = s.cueCyc := rfl
@[simp] theorem State.setFaultRec_cueLinks (s : State) (p c : Nat) (x : Option FaultRec) : (s.setFaultRec p c x).cueLinks = s.cueLinks := rfl
@[simp] theorem State.setFaultRec_cueTurn (s : State) (p c : Nat) (x : Option FaultRec) : (s.setFaultRec p c x).cueTurn = s.cueTurn := rfl
@[simp] theorem State.setFaultRec_cueArrived (s : State) (p c : Nat) (x : Option FaultRec) : (s.setFaultRec p c x).cueArrived = s.cueArrived := rfl
@[simp] theorem State.setFaultRec_crt (s : State) (p c : Nat) (x : Option FaultRec) : (s.setFaultRec p c x).crt = s.crt := rfl
@[simp] theorem State.setFaultRec_cps (s : State) (p c : Nat) (x : Option FaultRec) : (s.setFaultRec p c x).cps = s.cps := rfl
@[simp] theorem State.setFaultRec_ctxs (s : State) (p c : Nat) (x : Option FaultRec) : (s.setFaultRec p c x).ctxs = s.ctxs := rfl
@[simp] theorem State.setFaultRec_parts (s : State) (p c : Nat) (x : Option FaultRec) : (s.setFaultRec p c x).parts = s.parts := rfl
@[simp] theorem State.setFaultRec_shape (s : State) (p c : Nat) (x : Option FaultRec) : (s.setFaultRec p c x).shape = s.shape := rfl
@[simp] theorem State.setFaultRec_links (s : State) (p c : Nat) (x : Option FaultRec) : (s.setFaultRec p c x).links = s.links := rfl
@[simp] theorem State.setFaultRec_casts (s : State) (p c : Nat) (x : Option FaultRec) : (s.setFaultRec p c x).casts = s.casts := rfl
@[simp] theorem State.setFaultRec_ctls (s : State) (p c : Nat) (x : Option FaultRec) : (s.setFaultRec p c x).ctls = s.ctls := rfl
@[simp] theorem State.setFaultRec_keySlots (s : State) (p c : Nat) (x : Option FaultRec) : (s.setFaultRec p c x).keySlots = s.keySlots := rfl
@[simp] theorem State.setFaultRec_keyRanges (s : State) (p c : Nat) (x : Option FaultRec) : (s.setFaultRec p c x).keyRanges = s.keyRanges := rfl
@[simp] theorem State.setFaultRec_eth (s : State) (p c : Nat) (x : Option FaultRec) : (s.setFaultRec p c x).eth = s.eth := rfl
@[simp] theorem State.setFaultRec_chain (s : State) (p c : Nat) (x : Option FaultRec) : (s.setFaultRec p c x).chain = s.chain := rfl
@[simp] theorem State.setFaultRec_ymr (s : State) (p c : Nat) (x : Option FaultRec) : (s.setFaultRec p c x).ymr = s.ymr := rfl
@[simp] theorem State.setFaultRec_mbx (s : State) (p c : Nat) (x : Option FaultRec) : (s.setFaultRec p c x).mbx = s.mbx := rfl
@[simp] theorem State.setFaultRec_resets (s : State) (p c : Nat) (x : Option FaultRec) : (s.setFaultRec p c x).resets = s.resets := rfl
@[simp] theorem State.setFaultRec_inter (s : State) (p c : Nat) (x : Option FaultRec) : (s.setFaultRec p c x).inter = s.inter := rfl
@[simp] theorem State.setFaultRec_badBays (s : State) (p c : Nat) (x : Option FaultRec) : (s.setFaultRec p c x).badBays = s.badBays := rfl
@[simp] theorem State.setFaultRec_free (s : State) (p c : Nat) (x : Option FaultRec) : (s.setFaultRec p c x).free = s.free := rfl
@[simp] theorem State.bay_setFaultRec (s : State) (p c : Nat) (x : Option FaultRec) (b' : Nat) : (s.setFaultRec p c x).bay b' = s.bay b' := rfl
@[simp] theorem State.hand_setFaultRec (s : State) (p c : Nat) (x : Option FaultRec) (l' : Nat) : (s.setFaultRec p c x).hand l' = s.hand l' := rfl
@[simp] theorem State.cp_setFaultRec (s : State) (p c : Nat) (x : Option FaultRec) (n' : Nat) : (s.setFaultRec p c x).cp n' = s.cp n' := rfl
@[simp] theorem State.part_setFaultRec (s : State) (p c : Nat) (x : Option FaultRec) (p' : Nat) : (s.setFaultRec p c x).part p' = s.part p' := rfl
@[simp] theorem State.ctx_setFaultRec (s : State) (p c : Nat) (x : Option FaultRec) (p' c' : Nat) : (s.setFaultRec p c x).ctx p' c' = s.ctx p' c' := rfl
@[simp] theorem State.link_setFaultRec (s : State) (p c : Nat) (x : Option FaultRec) (p' : Nat) : (s.setFaultRec p c x).link p' = s.link p' := rfl
@[simp] theorem State.cast_setFaultRec (s : State) (p c : Nat) (x : Option FaultRec) (g' : Nat) : (s.setFaultRec p c x).cast g' = s.cast g' := rfl
@[simp] theorem State.ctl_setFaultRec (s : State) (p c : Nat) (x : Option FaultRec) (n' : Nat) : (s.setFaultRec p c x).ctl n' = s.ctl n' := rfl
@[simp] theorem State.mail_setFaultRec (s : State) (p c : Nat) (x : Option FaultRec) (n' : Nat) : (s.setFaultRec p c x).mail n' = s.mail n' := rfl
@[simp] theorem State.curtain_setFaultRec (s : State) (p c : Nat) (x : Option FaultRec) (p' n' : Nat) : (s.setFaultRec p c x).curtain p' n' = s.curtain p' n' := rfl
@[simp] theorem State.reg_setFaultRec (s : State) (p c : Nat) (x : Option FaultRec) (a' : Nat) : (s.setFaultRec p c x).reg a' = s.reg a' := rfl
@[simp] theorem State.port_setFaultRec (s : State) (p c : Nat) (x : Option FaultRec) (e' : Bool) : (s.setFaultRec p c x).port e' = s.port e' := rfl
@[simp] theorem State.byte_setFaultRec (s : State) (p c : Nat) (x : Option FaultRec) (a' : Nat) : (s.setFaultRec p c x).byte a' = s.byte a' := rfl
@[simp] theorem State.flagAt_setFaultRec (s : State) (p c : Nat) (x : Option FaultRec) (n' p' k' : Nat) : (s.setFaultRec p c x).flagAt n' p' k' = s.flagAt n' p' k' := rfl
@[simp] theorem State.partOfBay_setFaultRec (s : State) (p c : Nat) (x : Option FaultRec) (b' : Nat) : (s.setFaultRec p c x).partOfBay b' = s.partOfBay b' := rfl
@[simp] theorem State.bayActive_setFaultRec (s : State) (p c : Nat) (x : Option FaultRec) (b' : Nat) : (s.setFaultRec p c x).bayActive b' = s.bayActive b' := rfl
@[simp] theorem State.curCtx_setFaultRec (s : State) (p c : Nat) (x : Option FaultRec) (p' : Nat) : (s.setFaultRec p c x).curCtx p' = s.curCtx p' := rfl

/-! setReg -/

@[simp] theorem State.setReg_pending (s : State) (a : Nat) (v : Word) : (s.setReg a v).pending = s.pending := rfl
@[simp] theorem State.setReg_fuse (s : State) (a : Nat) (v : Word) : (s.setReg a v).fuse = s.fuse := rfl
@[simp] theorem State.setReg_pins (s : State) (a : Nat) (v : Word) : (s.setReg a v).pins = s.pins := rfl
@[simp] theorem State.setReg_power (s : State) (a : Nat) (v : Word) : (s.setReg a v).power = s.power := rfl
@[simp] theorem State.setReg_clock (s : State) (a : Nat) (v : Word) : (s.setReg a v).clock = s.clock := rfl
@[simp] theorem State.setReg_mem (s : State) (a : Nat) (v : Word) : (s.setReg a v).mem = s.mem := rfl
@[simp] theorem State.setReg_memErr (s : State) (a : Nat) (v : Word) : (s.setReg a v).memErr = s.memErr := rfl
@[simp] theorem State.setReg_ddrKeyed (s : State) (a : Nat) (v : Word) : (s.setReg a v).ddrKeyed = s.ddrKeyed := rfl
@[simp] theorem State.setReg_bays (s : State) (a : Nat) (v : Word) : (s.setReg a v).bays = s.bays := rfl
@[simp] theorem State.setReg_stagehands (s : State) (a : Nat) (v : Word) : (s.setReg a v).stagehands = s.stagehands := rfl
@[simp] theorem State.setReg_revolve (s : State) (a : Nat) (v : Word) : (s.setReg a v).revolve = s.revolve := rfl
@[simp] theorem State.setReg_walkers (s : State) (a : Nat) (v : Word) : (s.setReg a v).walkers = s.walkers := rfl
@[simp] theorem State.setReg_flits (s : State) (a : Nat) (v : Word) : (s.setReg a v).flits = s.flits := rfl
@[simp] theorem State.setReg_slotUsed (s : State) (a : Nat) (v : Word) : (s.setReg a v).slotUsed = s.slotUsed := rfl
@[simp] theorem State.setReg_cuePkts (s : State) (a : Nat) (v : Word) : (s.setReg a v).cuePkts = s.cuePkts := rfl
@[simp] theorem State.setReg_cueCyc (s : State) (a : Nat) (v : Word) : (s.setReg a v).cueCyc = s.cueCyc := rfl
@[simp] theorem State.setReg_cueLinks (s : State) (a : Nat) (v : Word) : (s.setReg a v).cueLinks = s.cueLinks := rfl
@[simp] theorem State.setReg_cueTurn (s : State) (a : Nat) (v : Word) : (s.setReg a v).cueTurn = s.cueTurn := rfl
@[simp] theorem State.setReg_cueArrived (s : State) (a : Nat) (v : Word) : (s.setReg a v).cueArrived = s.cueArrived := rfl
@[simp] theorem State.setReg_crt (s : State) (a : Nat) (v : Word) : (s.setReg a v).crt = s.crt := rfl
@[simp] theorem State.setReg_cps (s : State) (a : Nat) (v : Word) : (s.setReg a v).cps = s.cps := rfl
@[simp] theorem State.setReg_ctxs (s : State) (a : Nat) (v : Word) : (s.setReg a v).ctxs = s.ctxs := rfl
@[simp] theorem State.setReg_parts (s : State) (a : Nat) (v : Word) : (s.setReg a v).parts = s.parts := rfl
@[simp] theorem State.setReg_shape (s : State) (a : Nat) (v : Word) : (s.setReg a v).shape = s.shape := rfl
@[simp] theorem State.setReg_faults (s : State) (a : Nat) (v : Word) : (s.setReg a v).faults = s.faults := rfl
@[simp] theorem State.setReg_links (s : State) (a : Nat) (v : Word) : (s.setReg a v).links = s.links := rfl
@[simp] theorem State.setReg_casts (s : State) (a : Nat) (v : Word) : (s.setReg a v).casts = s.casts := rfl
@[simp] theorem State.setReg_ctls (s : State) (a : Nat) (v : Word) : (s.setReg a v).ctls = s.ctls := rfl
@[simp] theorem State.setReg_keySlots (s : State) (a : Nat) (v : Word) : (s.setReg a v).keySlots = s.keySlots := rfl
@[simp] theorem State.setReg_keyRanges (s : State) (a : Nat) (v : Word) : (s.setReg a v).keyRanges = s.keyRanges := rfl
@[simp] theorem State.setReg_eth (s : State) (a : Nat) (v : Word) : (s.setReg a v).eth = s.eth := rfl
@[simp] theorem State.setReg_chain (s : State) (a : Nat) (v : Word) : (s.setReg a v).chain = s.chain := rfl
@[simp] theorem State.setReg_ymr (s : State) (a : Nat) (v : Word) : (s.setReg a v).ymr = s.ymr := rfl
@[simp] theorem State.setReg_mbx (s : State) (a : Nat) (v : Word) : (s.setReg a v).mbx = s.mbx := rfl
@[simp] theorem State.setReg_resets (s : State) (a : Nat) (v : Word) : (s.setReg a v).resets = s.resets := rfl
@[simp] theorem State.setReg_inter (s : State) (a : Nat) (v : Word) : (s.setReg a v).inter = s.inter := rfl
@[simp] theorem State.setReg_badBays (s : State) (a : Nat) (v : Word) : (s.setReg a v).badBays = s.badBays := rfl
@[simp] theorem State.setReg_free (s : State) (a : Nat) (v : Word) : (s.setReg a v).free = s.free := rfl
@[simp] theorem State.bay_setReg (s : State) (a : Nat) (v : Word) (b' : Nat) : (s.setReg a v).bay b' = s.bay b' := rfl
@[simp] theorem State.hand_setReg (s : State) (a : Nat) (v : Word) (l' : Nat) : (s.setReg a v).hand l' = s.hand l' := rfl
@[simp] theorem State.cp_setReg (s : State) (a : Nat) (v : Word) (n' : Nat) : (s.setReg a v).cp n' = s.cp n' := rfl
@[simp] theorem State.part_setReg (s : State) (a : Nat) (v : Word) (p' : Nat) : (s.setReg a v).part p' = s.part p' := rfl
@[simp] theorem State.ctx_setReg (s : State) (a : Nat) (v : Word) (p' c' : Nat) : (s.setReg a v).ctx p' c' = s.ctx p' c' := rfl
@[simp] theorem State.link_setReg (s : State) (a : Nat) (v : Word) (p' : Nat) : (s.setReg a v).link p' = s.link p' := rfl
@[simp] theorem State.cast_setReg (s : State) (a : Nat) (v : Word) (g' : Nat) : (s.setReg a v).cast g' = s.cast g' := rfl
@[simp] theorem State.ctl_setReg (s : State) (a : Nat) (v : Word) (n' : Nat) : (s.setReg a v).ctl n' = s.ctl n' := rfl
@[simp] theorem State.mail_setReg (s : State) (a : Nat) (v : Word) (n' : Nat) : (s.setReg a v).mail n' = s.mail n' := rfl
@[simp] theorem State.curtain_setReg (s : State) (a : Nat) (v : Word) (p' n' : Nat) : (s.setReg a v).curtain p' n' = s.curtain p' n' := rfl
@[simp] theorem State.faultRec_setReg (s : State) (a : Nat) (v : Word) (p' c' : Nat) : (s.setReg a v).faultRec p' c' = s.faultRec p' c' := rfl
@[simp] theorem State.port_setReg (s : State) (a : Nat) (v : Word) (e' : Bool) : (s.setReg a v).port e' = s.port e' := rfl
@[simp] theorem State.byte_setReg (s : State) (a : Nat) (v : Word) (a' : Nat) : (s.setReg a v).byte a' = s.byte a' := rfl
@[simp] theorem State.flagAt_setReg (s : State) (a : Nat) (v : Word) (n' p' k' : Nat) : (s.setReg a v).flagAt n' p' k' = s.flagAt n' p' k' := rfl
@[simp] theorem State.partOfBay_setReg (s : State) (a : Nat) (v : Word) (b' : Nat) : (s.setReg a v).partOfBay b' = s.partOfBay b' := rfl
@[simp] theorem State.bayActive_setReg (s : State) (a : Nat) (v : Word) (b' : Nat) : (s.setReg a v).bayActive b' = s.bayActive b' := rfl
@[simp] theorem State.curCtx_setReg (s : State) (a : Nat) (v : Word) (p' : Nat) : (s.setReg a v).curCtx p' = s.curCtx p' := rfl

/-! putByte -/

@[simp] theorem State.putByte_pending (s : State) (a : Nat) (v : Byte) : (s.putByte a v).pending = s.pending := rfl
@[simp] theorem State.putByte_fuse (s : State) (a : Nat) (v : Byte) : (s.putByte a v).fuse = s.fuse := rfl
@[simp] theorem State.putByte_pins (s : State) (a : Nat) (v : Byte) : (s.putByte a v).pins = s.pins := rfl
@[simp] theorem State.putByte_power (s : State) (a : Nat) (v : Byte) : (s.putByte a v).power = s.power := rfl
@[simp] theorem State.putByte_clock (s : State) (a : Nat) (v : Byte) : (s.putByte a v).clock = s.clock := rfl
@[simp] theorem State.putByte_regs (s : State) (a : Nat) (v : Byte) : (s.putByte a v).regs = s.regs := rfl
@[simp] theorem State.putByte_memErr (s : State) (a : Nat) (v : Byte) : (s.putByte a v).memErr = s.memErr := rfl
@[simp] theorem State.putByte_ddrKeyed (s : State) (a : Nat) (v : Byte) : (s.putByte a v).ddrKeyed = s.ddrKeyed := rfl
@[simp] theorem State.putByte_bays (s : State) (a : Nat) (v : Byte) : (s.putByte a v).bays = s.bays := rfl
@[simp] theorem State.putByte_stagehands (s : State) (a : Nat) (v : Byte) : (s.putByte a v).stagehands = s.stagehands := rfl
@[simp] theorem State.putByte_revolve (s : State) (a : Nat) (v : Byte) : (s.putByte a v).revolve = s.revolve := rfl
@[simp] theorem State.putByte_walkers (s : State) (a : Nat) (v : Byte) : (s.putByte a v).walkers = s.walkers := rfl
@[simp] theorem State.putByte_flits (s : State) (a : Nat) (v : Byte) : (s.putByte a v).flits = s.flits := rfl
@[simp] theorem State.putByte_slotUsed (s : State) (a : Nat) (v : Byte) : (s.putByte a v).slotUsed = s.slotUsed := rfl
@[simp] theorem State.putByte_cuePkts (s : State) (a : Nat) (v : Byte) : (s.putByte a v).cuePkts = s.cuePkts := rfl
@[simp] theorem State.putByte_cueCyc (s : State) (a : Nat) (v : Byte) : (s.putByte a v).cueCyc = s.cueCyc := rfl
@[simp] theorem State.putByte_cueLinks (s : State) (a : Nat) (v : Byte) : (s.putByte a v).cueLinks = s.cueLinks := rfl
@[simp] theorem State.putByte_cueTurn (s : State) (a : Nat) (v : Byte) : (s.putByte a v).cueTurn = s.cueTurn := rfl
@[simp] theorem State.putByte_cueArrived (s : State) (a : Nat) (v : Byte) : (s.putByte a v).cueArrived = s.cueArrived := rfl
@[simp] theorem State.putByte_crt (s : State) (a : Nat) (v : Byte) : (s.putByte a v).crt = s.crt := rfl
@[simp] theorem State.putByte_cps (s : State) (a : Nat) (v : Byte) : (s.putByte a v).cps = s.cps := rfl
@[simp] theorem State.putByte_ctxs (s : State) (a : Nat) (v : Byte) : (s.putByte a v).ctxs = s.ctxs := rfl
@[simp] theorem State.putByte_parts (s : State) (a : Nat) (v : Byte) : (s.putByte a v).parts = s.parts := rfl
@[simp] theorem State.putByte_shape (s : State) (a : Nat) (v : Byte) : (s.putByte a v).shape = s.shape := rfl
@[simp] theorem State.putByte_faults (s : State) (a : Nat) (v : Byte) : (s.putByte a v).faults = s.faults := rfl
@[simp] theorem State.putByte_links (s : State) (a : Nat) (v : Byte) : (s.putByte a v).links = s.links := rfl
@[simp] theorem State.putByte_casts (s : State) (a : Nat) (v : Byte) : (s.putByte a v).casts = s.casts := rfl
@[simp] theorem State.putByte_ctls (s : State) (a : Nat) (v : Byte) : (s.putByte a v).ctls = s.ctls := rfl
@[simp] theorem State.putByte_keySlots (s : State) (a : Nat) (v : Byte) : (s.putByte a v).keySlots = s.keySlots := rfl
@[simp] theorem State.putByte_keyRanges (s : State) (a : Nat) (v : Byte) : (s.putByte a v).keyRanges = s.keyRanges := rfl
@[simp] theorem State.putByte_eth (s : State) (a : Nat) (v : Byte) : (s.putByte a v).eth = s.eth := rfl
@[simp] theorem State.putByte_chain (s : State) (a : Nat) (v : Byte) : (s.putByte a v).chain = s.chain := rfl
@[simp] theorem State.putByte_ymr (s : State) (a : Nat) (v : Byte) : (s.putByte a v).ymr = s.ymr := rfl
@[simp] theorem State.putByte_mbx (s : State) (a : Nat) (v : Byte) : (s.putByte a v).mbx = s.mbx := rfl
@[simp] theorem State.putByte_resets (s : State) (a : Nat) (v : Byte) : (s.putByte a v).resets = s.resets := rfl
@[simp] theorem State.putByte_inter (s : State) (a : Nat) (v : Byte) : (s.putByte a v).inter = s.inter := rfl
@[simp] theorem State.putByte_badBays (s : State) (a : Nat) (v : Byte) : (s.putByte a v).badBays = s.badBays := rfl
@[simp] theorem State.putByte_free (s : State) (a : Nat) (v : Byte) : (s.putByte a v).free = s.free := rfl
@[simp] theorem State.bay_putByte (s : State) (a : Nat) (v : Byte) (b' : Nat) : (s.putByte a v).bay b' = s.bay b' := rfl
@[simp] theorem State.hand_putByte (s : State) (a : Nat) (v : Byte) (l' : Nat) : (s.putByte a v).hand l' = s.hand l' := rfl
@[simp] theorem State.cp_putByte (s : State) (a : Nat) (v : Byte) (n' : Nat) : (s.putByte a v).cp n' = s.cp n' := rfl
@[simp] theorem State.part_putByte (s : State) (a : Nat) (v : Byte) (p' : Nat) : (s.putByte a v).part p' = s.part p' := rfl
@[simp] theorem State.ctx_putByte (s : State) (a : Nat) (v : Byte) (p' c' : Nat) : (s.putByte a v).ctx p' c' = s.ctx p' c' := rfl
@[simp] theorem State.link_putByte (s : State) (a : Nat) (v : Byte) (p' : Nat) : (s.putByte a v).link p' = s.link p' := rfl
@[simp] theorem State.cast_putByte (s : State) (a : Nat) (v : Byte) (g' : Nat) : (s.putByte a v).cast g' = s.cast g' := rfl
@[simp] theorem State.ctl_putByte (s : State) (a : Nat) (v : Byte) (n' : Nat) : (s.putByte a v).ctl n' = s.ctl n' := rfl
@[simp] theorem State.mail_putByte (s : State) (a : Nat) (v : Byte) (n' : Nat) : (s.putByte a v).mail n' = s.mail n' := rfl
@[simp] theorem State.curtain_putByte (s : State) (a : Nat) (v : Byte) (p' n' : Nat) : (s.putByte a v).curtain p' n' = s.curtain p' n' := rfl
@[simp] theorem State.faultRec_putByte (s : State) (a : Nat) (v : Byte) (p' c' : Nat) : (s.putByte a v).faultRec p' c' = s.faultRec p' c' := rfl
@[simp] theorem State.reg_putByte (s : State) (a : Nat) (v : Byte) (a' : Nat) : (s.putByte a v).reg a' = s.reg a' := rfl
@[simp] theorem State.port_putByte (s : State) (a : Nat) (v : Byte) (e' : Bool) : (s.putByte a v).port e' = s.port e' := rfl
@[simp] theorem State.flagAt_putByte (s : State) (a : Nat) (v : Byte) (n' p' k' : Nat) : (s.putByte a v).flagAt n' p' k' = s.flagAt n' p' k' := rfl
@[simp] theorem State.partOfBay_putByte (s : State) (a : Nat) (v : Byte) (b' : Nat) : (s.putByte a v).partOfBay b' = s.partOfBay b' := rfl
@[simp] theorem State.bayActive_putByte (s : State) (a : Nat) (v : Byte) (b' : Nat) : (s.putByte a v).bayActive b' = s.bayActive b' := rfl
@[simp] theorem State.curCtx_putByte (s : State) (a : Nat) (v : Byte) (p' : Nat) : (s.putByte a v).curCtx p' = s.curCtx p' := rfl

/-! setPort -/

@[simp] theorem State.setPort_pending (s : State) (e : Bool) (x : ChainPort) : (s.setPort e x).pending = s.pending := rfl
@[simp] theorem State.setPort_fuse (s : State) (e : Bool) (x : ChainPort) : (s.setPort e x).fuse = s.fuse := rfl
@[simp] theorem State.setPort_pins (s : State) (e : Bool) (x : ChainPort) : (s.setPort e x).pins = s.pins := rfl
@[simp] theorem State.setPort_power (s : State) (e : Bool) (x : ChainPort) : (s.setPort e x).power = s.power := rfl
@[simp] theorem State.setPort_clock (s : State) (e : Bool) (x : ChainPort) : (s.setPort e x).clock = s.clock := rfl
@[simp] theorem State.setPort_regs (s : State) (e : Bool) (x : ChainPort) : (s.setPort e x).regs = s.regs := rfl
@[simp] theorem State.setPort_mem (s : State) (e : Bool) (x : ChainPort) : (s.setPort e x).mem = s.mem := rfl
@[simp] theorem State.setPort_memErr (s : State) (e : Bool) (x : ChainPort) : (s.setPort e x).memErr = s.memErr := rfl
@[simp] theorem State.setPort_ddrKeyed (s : State) (e : Bool) (x : ChainPort) : (s.setPort e x).ddrKeyed = s.ddrKeyed := rfl
@[simp] theorem State.setPort_bays (s : State) (e : Bool) (x : ChainPort) : (s.setPort e x).bays = s.bays := rfl
@[simp] theorem State.setPort_stagehands (s : State) (e : Bool) (x : ChainPort) : (s.setPort e x).stagehands = s.stagehands := rfl
@[simp] theorem State.setPort_revolve (s : State) (e : Bool) (x : ChainPort) : (s.setPort e x).revolve = s.revolve := rfl
@[simp] theorem State.setPort_walkers (s : State) (e : Bool) (x : ChainPort) : (s.setPort e x).walkers = s.walkers := rfl
@[simp] theorem State.setPort_flits (s : State) (e : Bool) (x : ChainPort) : (s.setPort e x).flits = s.flits := rfl
@[simp] theorem State.setPort_slotUsed (s : State) (e : Bool) (x : ChainPort) : (s.setPort e x).slotUsed = s.slotUsed := rfl
@[simp] theorem State.setPort_cuePkts (s : State) (e : Bool) (x : ChainPort) : (s.setPort e x).cuePkts = s.cuePkts := rfl
@[simp] theorem State.setPort_cueCyc (s : State) (e : Bool) (x : ChainPort) : (s.setPort e x).cueCyc = s.cueCyc := rfl
@[simp] theorem State.setPort_cueLinks (s : State) (e : Bool) (x : ChainPort) : (s.setPort e x).cueLinks = s.cueLinks := rfl
@[simp] theorem State.setPort_cueTurn (s : State) (e : Bool) (x : ChainPort) : (s.setPort e x).cueTurn = s.cueTurn := rfl
@[simp] theorem State.setPort_cueArrived (s : State) (e : Bool) (x : ChainPort) : (s.setPort e x).cueArrived = s.cueArrived := rfl
@[simp] theorem State.setPort_crt (s : State) (e : Bool) (x : ChainPort) : (s.setPort e x).crt = s.crt := rfl
@[simp] theorem State.setPort_cps (s : State) (e : Bool) (x : ChainPort) : (s.setPort e x).cps = s.cps := rfl
@[simp] theorem State.setPort_ctxs (s : State) (e : Bool) (x : ChainPort) : (s.setPort e x).ctxs = s.ctxs := rfl
@[simp] theorem State.setPort_parts (s : State) (e : Bool) (x : ChainPort) : (s.setPort e x).parts = s.parts := rfl
@[simp] theorem State.setPort_shape (s : State) (e : Bool) (x : ChainPort) : (s.setPort e x).shape = s.shape := rfl
@[simp] theorem State.setPort_faults (s : State) (e : Bool) (x : ChainPort) : (s.setPort e x).faults = s.faults := rfl
@[simp] theorem State.setPort_links (s : State) (e : Bool) (x : ChainPort) : (s.setPort e x).links = s.links := rfl
@[simp] theorem State.setPort_casts (s : State) (e : Bool) (x : ChainPort) : (s.setPort e x).casts = s.casts := rfl
@[simp] theorem State.setPort_ctls (s : State) (e : Bool) (x : ChainPort) : (s.setPort e x).ctls = s.ctls := rfl
@[simp] theorem State.setPort_keySlots (s : State) (e : Bool) (x : ChainPort) : (s.setPort e x).keySlots = s.keySlots := rfl
@[simp] theorem State.setPort_keyRanges (s : State) (e : Bool) (x : ChainPort) : (s.setPort e x).keyRanges = s.keyRanges := rfl
@[simp] theorem State.setPort_eth (s : State) (e : Bool) (x : ChainPort) : (s.setPort e x).eth = s.eth := rfl
@[simp] theorem State.setPort_ymr (s : State) (e : Bool) (x : ChainPort) : (s.setPort e x).ymr = s.ymr := rfl
@[simp] theorem State.setPort_mbx (s : State) (e : Bool) (x : ChainPort) : (s.setPort e x).mbx = s.mbx := rfl
@[simp] theorem State.setPort_resets (s : State) (e : Bool) (x : ChainPort) : (s.setPort e x).resets = s.resets := rfl
@[simp] theorem State.setPort_inter (s : State) (e : Bool) (x : ChainPort) : (s.setPort e x).inter = s.inter := rfl
@[simp] theorem State.setPort_badBays (s : State) (e : Bool) (x : ChainPort) : (s.setPort e x).badBays = s.badBays := rfl
@[simp] theorem State.setPort_free (s : State) (e : Bool) (x : ChainPort) : (s.setPort e x).free = s.free := rfl
@[simp] theorem State.bay_setPort (s : State) (e : Bool) (x : ChainPort) (b' : Nat) : (s.setPort e x).bay b' = s.bay b' := rfl
@[simp] theorem State.hand_setPort (s : State) (e : Bool) (x : ChainPort) (l' : Nat) : (s.setPort e x).hand l' = s.hand l' := rfl
@[simp] theorem State.cp_setPort (s : State) (e : Bool) (x : ChainPort) (n' : Nat) : (s.setPort e x).cp n' = s.cp n' := rfl
@[simp] theorem State.part_setPort (s : State) (e : Bool) (x : ChainPort) (p' : Nat) : (s.setPort e x).part p' = s.part p' := rfl
@[simp] theorem State.ctx_setPort (s : State) (e : Bool) (x : ChainPort) (p' c' : Nat) : (s.setPort e x).ctx p' c' = s.ctx p' c' := rfl
@[simp] theorem State.link_setPort (s : State) (e : Bool) (x : ChainPort) (p' : Nat) : (s.setPort e x).link p' = s.link p' := rfl
@[simp] theorem State.cast_setPort (s : State) (e : Bool) (x : ChainPort) (g' : Nat) : (s.setPort e x).cast g' = s.cast g' := rfl
@[simp] theorem State.ctl_setPort (s : State) (e : Bool) (x : ChainPort) (n' : Nat) : (s.setPort e x).ctl n' = s.ctl n' := rfl
@[simp] theorem State.mail_setPort (s : State) (e : Bool) (x : ChainPort) (n' : Nat) : (s.setPort e x).mail n' = s.mail n' := rfl
@[simp] theorem State.curtain_setPort (s : State) (e : Bool) (x : ChainPort) (p' n' : Nat) : (s.setPort e x).curtain p' n' = s.curtain p' n' := rfl
@[simp] theorem State.faultRec_setPort (s : State) (e : Bool) (x : ChainPort) (p' c' : Nat) : (s.setPort e x).faultRec p' c' = s.faultRec p' c' := rfl
@[simp] theorem State.reg_setPort (s : State) (e : Bool) (x : ChainPort) (a' : Nat) : (s.setPort e x).reg a' = s.reg a' := rfl
@[simp] theorem State.byte_setPort (s : State) (e : Bool) (x : ChainPort) (a' : Nat) : (s.setPort e x).byte a' = s.byte a' := rfl
@[simp] theorem State.flagAt_setPort (s : State) (e : Bool) (x : ChainPort) (n' p' k' : Nat) : (s.setPort e x).flagAt n' p' k' = s.flagAt n' p' k' := rfl
@[simp] theorem State.partOfBay_setPort (s : State) (e : Bool) (x : ChainPort) (b' : Nat) : (s.setPort e x).partOfBay b' = s.partOfBay b' := rfl
@[simp] theorem State.bayActive_setPort (s : State) (e : Bool) (x : ChainPort) (b' : Nat) : (s.setPort e x).bayActive b' = s.bayActive b' := rfl
@[simp] theorem State.curCtx_setPort (s : State) (e : Bool) (x : ChainPort) (p' : Nat) : (s.setPort e x).curCtx p' = s.curCtx p' := rfl

/-! sendFault -/

@[simp] theorem State.sendFault_pending (s : State) (r p c cls b i : Nat) (o : Word) (a : Nat) (d : List Nat) : (s.sendFault r p c cls b i o a d).pending = s.pending := rfl
@[simp] theorem State.sendFault_fuse (s : State) (r p c cls b i : Nat) (o : Word) (a : Nat) (d : List Nat) : (s.sendFault r p c cls b i o a d).fuse = s.fuse := rfl
@[simp] theorem State.sendFault_pins (s : State) (r p c cls b i : Nat) (o : Word) (a : Nat) (d : List Nat) : (s.sendFault r p c cls b i o a d).pins = s.pins := rfl
@[simp] theorem State.sendFault_power (s : State) (r p c cls b i : Nat) (o : Word) (a : Nat) (d : List Nat) : (s.sendFault r p c cls b i o a d).power = s.power := rfl
@[simp] theorem State.sendFault_clock (s : State) (r p c cls b i : Nat) (o : Word) (a : Nat) (d : List Nat) : (s.sendFault r p c cls b i o a d).clock = s.clock := rfl
@[simp] theorem State.sendFault_regs (s : State) (r p c cls b i : Nat) (o : Word) (a : Nat) (d : List Nat) : (s.sendFault r p c cls b i o a d).regs = s.regs := rfl
@[simp] theorem State.sendFault_mem (s : State) (r p c cls b i : Nat) (o : Word) (a : Nat) (d : List Nat) : (s.sendFault r p c cls b i o a d).mem = s.mem := rfl
@[simp] theorem State.sendFault_memErr (s : State) (r p c cls b i : Nat) (o : Word) (a : Nat) (d : List Nat) : (s.sendFault r p c cls b i o a d).memErr = s.memErr := rfl
@[simp] theorem State.sendFault_ddrKeyed (s : State) (r p c cls b i : Nat) (o : Word) (a : Nat) (d : List Nat) : (s.sendFault r p c cls b i o a d).ddrKeyed = s.ddrKeyed := rfl
@[simp] theorem State.sendFault_bays (s : State) (r p c cls b i : Nat) (o : Word) (a : Nat) (d : List Nat) : (s.sendFault r p c cls b i o a d).bays = s.bays := rfl
@[simp] theorem State.sendFault_stagehands (s : State) (r p c cls b i : Nat) (o : Word) (a : Nat) (d : List Nat) : (s.sendFault r p c cls b i o a d).stagehands = s.stagehands := rfl
@[simp] theorem State.sendFault_revolve (s : State) (r p c cls b i : Nat) (o : Word) (a : Nat) (d : List Nat) : (s.sendFault r p c cls b i o a d).revolve = s.revolve := rfl
@[simp] theorem State.sendFault_walkers (s : State) (r p c cls b i : Nat) (o : Word) (a : Nat) (d : List Nat) : (s.sendFault r p c cls b i o a d).walkers = s.walkers := rfl
@[simp] theorem State.sendFault_flits (s : State) (r p c cls b i : Nat) (o : Word) (a : Nat) (d : List Nat) : (s.sendFault r p c cls b i o a d).flits = s.flits := rfl
@[simp] theorem State.sendFault_slotUsed (s : State) (r p c cls b i : Nat) (o : Word) (a : Nat) (d : List Nat) : (s.sendFault r p c cls b i o a d).slotUsed = s.slotUsed := rfl
@[simp] theorem State.sendFault_cueCyc (s : State) (r p c cls b i : Nat) (o : Word) (a : Nat) (d : List Nat) : (s.sendFault r p c cls b i o a d).cueCyc = s.cueCyc := rfl
@[simp] theorem State.sendFault_cueLinks (s : State) (r p c cls b i : Nat) (o : Word) (a : Nat) (d : List Nat) : (s.sendFault r p c cls b i o a d).cueLinks = s.cueLinks := rfl
@[simp] theorem State.sendFault_cueTurn (s : State) (r p c cls b i : Nat) (o : Word) (a : Nat) (d : List Nat) : (s.sendFault r p c cls b i o a d).cueTurn = s.cueTurn := rfl
@[simp] theorem State.sendFault_cueArrived (s : State) (r p c cls b i : Nat) (o : Word) (a : Nat) (d : List Nat) : (s.sendFault r p c cls b i o a d).cueArrived = s.cueArrived := rfl
@[simp] theorem State.sendFault_crt (s : State) (r p c cls b i : Nat) (o : Word) (a : Nat) (d : List Nat) : (s.sendFault r p c cls b i o a d).crt = s.crt := rfl
@[simp] theorem State.sendFault_cps (s : State) (r p c cls b i : Nat) (o : Word) (a : Nat) (d : List Nat) : (s.sendFault r p c cls b i o a d).cps = s.cps := rfl
@[simp] theorem State.sendFault_ctxs (s : State) (r p c cls b i : Nat) (o : Word) (a : Nat) (d : List Nat) : (s.sendFault r p c cls b i o a d).ctxs = s.ctxs := rfl
@[simp] theorem State.sendFault_parts (s : State) (r p c cls b i : Nat) (o : Word) (a : Nat) (d : List Nat) : (s.sendFault r p c cls b i o a d).parts = s.parts := rfl
@[simp] theorem State.sendFault_shape (s : State) (r p c cls b i : Nat) (o : Word) (a : Nat) (d : List Nat) : (s.sendFault r p c cls b i o a d).shape = s.shape := rfl
@[simp] theorem State.sendFault_faults (s : State) (r p c cls b i : Nat) (o : Word) (a : Nat) (d : List Nat) : (s.sendFault r p c cls b i o a d).faults = s.faults := rfl
@[simp] theorem State.sendFault_links (s : State) (r p c cls b i : Nat) (o : Word) (a : Nat) (d : List Nat) : (s.sendFault r p c cls b i o a d).links = s.links := rfl
@[simp] theorem State.sendFault_casts (s : State) (r p c cls b i : Nat) (o : Word) (a : Nat) (d : List Nat) : (s.sendFault r p c cls b i o a d).casts = s.casts := rfl
@[simp] theorem State.sendFault_ctls (s : State) (r p c cls b i : Nat) (o : Word) (a : Nat) (d : List Nat) : (s.sendFault r p c cls b i o a d).ctls = s.ctls := rfl
@[simp] theorem State.sendFault_keySlots (s : State) (r p c cls b i : Nat) (o : Word) (a : Nat) (d : List Nat) : (s.sendFault r p c cls b i o a d).keySlots = s.keySlots := rfl
@[simp] theorem State.sendFault_keyRanges (s : State) (r p c cls b i : Nat) (o : Word) (a : Nat) (d : List Nat) : (s.sendFault r p c cls b i o a d).keyRanges = s.keyRanges := rfl
@[simp] theorem State.sendFault_eth (s : State) (r p c cls b i : Nat) (o : Word) (a : Nat) (d : List Nat) : (s.sendFault r p c cls b i o a d).eth = s.eth := rfl
@[simp] theorem State.sendFault_chain (s : State) (r p c cls b i : Nat) (o : Word) (a : Nat) (d : List Nat) : (s.sendFault r p c cls b i o a d).chain = s.chain := rfl
@[simp] theorem State.sendFault_ymr (s : State) (r p c cls b i : Nat) (o : Word) (a : Nat) (d : List Nat) : (s.sendFault r p c cls b i o a d).ymr = s.ymr := rfl
@[simp] theorem State.sendFault_mbx (s : State) (r p c cls b i : Nat) (o : Word) (a : Nat) (d : List Nat) : (s.sendFault r p c cls b i o a d).mbx = s.mbx := rfl
@[simp] theorem State.sendFault_resets (s : State) (r p c cls b i : Nat) (o : Word) (a : Nat) (d : List Nat) : (s.sendFault r p c cls b i o a d).resets = s.resets := rfl
@[simp] theorem State.sendFault_inter (s : State) (r p c cls b i : Nat) (o : Word) (a : Nat) (d : List Nat) : (s.sendFault r p c cls b i o a d).inter = s.inter := rfl
@[simp] theorem State.sendFault_badBays (s : State) (r p c cls b i : Nat) (o : Word) (a : Nat) (d : List Nat) : (s.sendFault r p c cls b i o a d).badBays = s.badBays := rfl
@[simp] theorem State.sendFault_free (s : State) (r p c cls b i : Nat) (o : Word) (a : Nat) (d : List Nat) : (s.sendFault r p c cls b i o a d).free = s.free := rfl
@[simp] theorem State.bay_sendFault (s : State) (r p c cls b i : Nat) (o : Word) (a : Nat) (d : List Nat) (b' : Nat) : (s.sendFault r p c cls b i o a d).bay b' = s.bay b' := rfl
@[simp] theorem State.hand_sendFault (s : State) (r p c cls b i : Nat) (o : Word) (a : Nat) (d : List Nat) (l' : Nat) : (s.sendFault r p c cls b i o a d).hand l' = s.hand l' := rfl
@[simp] theorem State.cp_sendFault (s : State) (r p c cls b i : Nat) (o : Word) (a : Nat) (d : List Nat) (n' : Nat) : (s.sendFault r p c cls b i o a d).cp n' = s.cp n' := rfl
@[simp] theorem State.part_sendFault (s : State) (r p c cls b i : Nat) (o : Word) (a : Nat) (d : List Nat) (p' : Nat) : (s.sendFault r p c cls b i o a d).part p' = s.part p' := rfl
@[simp] theorem State.ctx_sendFault (s : State) (r p c cls b i : Nat) (o : Word) (a : Nat) (d : List Nat) (p' c' : Nat) : (s.sendFault r p c cls b i o a d).ctx p' c' = s.ctx p' c' := rfl
@[simp] theorem State.link_sendFault (s : State) (r p c cls b i : Nat) (o : Word) (a : Nat) (d : List Nat) (p' : Nat) : (s.sendFault r p c cls b i o a d).link p' = s.link p' := rfl
@[simp] theorem State.cast_sendFault (s : State) (r p c cls b i : Nat) (o : Word) (a : Nat) (d : List Nat) (g' : Nat) : (s.sendFault r p c cls b i o a d).cast g' = s.cast g' := rfl
@[simp] theorem State.ctl_sendFault (s : State) (r p c cls b i : Nat) (o : Word) (a : Nat) (d : List Nat) (n' : Nat) : (s.sendFault r p c cls b i o a d).ctl n' = s.ctl n' := rfl
@[simp] theorem State.mail_sendFault (s : State) (r p c cls b i : Nat) (o : Word) (a : Nat) (d : List Nat) (n' : Nat) : (s.sendFault r p c cls b i o a d).mail n' = s.mail n' := rfl
@[simp] theorem State.curtain_sendFault (s : State) (r p c cls b i : Nat) (o : Word) (a : Nat) (d : List Nat) (p' n' : Nat) : (s.sendFault r p c cls b i o a d).curtain p' n' = s.curtain p' n' := rfl
@[simp] theorem State.faultRec_sendFault (s : State) (r p c cls b i : Nat) (o : Word) (a : Nat) (d : List Nat) (p' c' : Nat) : (s.sendFault r p c cls b i o a d).faultRec p' c' = s.faultRec p' c' := rfl
@[simp] theorem State.reg_sendFault (s : State) (r p c cls b i : Nat) (o : Word) (a : Nat) (d : List Nat) (a' : Nat) : (s.sendFault r p c cls b i o a d).reg a' = s.reg a' := rfl
@[simp] theorem State.port_sendFault (s : State) (r p c cls b i : Nat) (o : Word) (a : Nat) (d : List Nat) (e' : Bool) : (s.sendFault r p c cls b i o a d).port e' = s.port e' := rfl
@[simp] theorem State.byte_sendFault (s : State) (r p c cls b i : Nat) (o : Word) (a : Nat) (d : List Nat) (a' : Nat) : (s.sendFault r p c cls b i o a d).byte a' = s.byte a' := rfl
@[simp] theorem State.flagAt_sendFault (s : State) (r p c cls b i : Nat) (o : Word) (a : Nat) (d : List Nat) (n' p' k' : Nat) : (s.sendFault r p c cls b i o a d).flagAt n' p' k' = s.flagAt n' p' k' := rfl
@[simp] theorem State.partOfBay_sendFault (s : State) (r p c cls b i : Nat) (o : Word) (a : Nat) (d : List Nat) (b' : Nat) : (s.sendFault r p c cls b i o a d).partOfBay b' = s.partOfBay b' := rfl
@[simp] theorem State.bayActive_sendFault (s : State) (r p c cls b i : Nat) (o : Word) (a : Nat) (d : List Nat) (b' : Nat) : (s.sendFault r p c cls b i o a d).bayActive b' = s.bayActive b' := rfl
@[simp] theorem State.curCtx_sendFault (s : State) (r p c cls b i : Nat) (o : Word) (a : Nat) (d : List Nat) (p' : Nat) : (s.sendFault r p c cls b i o a d).curCtx p' = s.curCtx p' := rfl

/-! sendCrt -/

@[simp] theorem State.sendCrt_pending (s : State) (n : Nat) (e : CrtEvent) : (s.sendCrt n e).pending = s.pending := rfl
@[simp] theorem State.sendCrt_fuse (s : State) (n : Nat) (e : CrtEvent) : (s.sendCrt n e).fuse = s.fuse := rfl
@[simp] theorem State.sendCrt_pins (s : State) (n : Nat) (e : CrtEvent) : (s.sendCrt n e).pins = s.pins := rfl
@[simp] theorem State.sendCrt_power (s : State) (n : Nat) (e : CrtEvent) : (s.sendCrt n e).power = s.power := rfl
@[simp] theorem State.sendCrt_clock (s : State) (n : Nat) (e : CrtEvent) : (s.sendCrt n e).clock = s.clock := rfl
@[simp] theorem State.sendCrt_regs (s : State) (n : Nat) (e : CrtEvent) : (s.sendCrt n e).regs = s.regs := rfl
@[simp] theorem State.sendCrt_mem (s : State) (n : Nat) (e : CrtEvent) : (s.sendCrt n e).mem = s.mem := rfl
@[simp] theorem State.sendCrt_memErr (s : State) (n : Nat) (e : CrtEvent) : (s.sendCrt n e).memErr = s.memErr := rfl
@[simp] theorem State.sendCrt_ddrKeyed (s : State) (n : Nat) (e : CrtEvent) : (s.sendCrt n e).ddrKeyed = s.ddrKeyed := rfl
@[simp] theorem State.sendCrt_bays (s : State) (n : Nat) (e : CrtEvent) : (s.sendCrt n e).bays = s.bays := rfl
@[simp] theorem State.sendCrt_stagehands (s : State) (n : Nat) (e : CrtEvent) : (s.sendCrt n e).stagehands = s.stagehands := rfl
@[simp] theorem State.sendCrt_revolve (s : State) (n : Nat) (e : CrtEvent) : (s.sendCrt n e).revolve = s.revolve := rfl
@[simp] theorem State.sendCrt_walkers (s : State) (n : Nat) (e : CrtEvent) : (s.sendCrt n e).walkers = s.walkers := rfl
@[simp] theorem State.sendCrt_flits (s : State) (n : Nat) (e : CrtEvent) : (s.sendCrt n e).flits = s.flits := rfl
@[simp] theorem State.sendCrt_slotUsed (s : State) (n : Nat) (e : CrtEvent) : (s.sendCrt n e).slotUsed = s.slotUsed := rfl
@[simp] theorem State.sendCrt_cuePkts (s : State) (n : Nat) (e : CrtEvent) : (s.sendCrt n e).cuePkts = s.cuePkts := rfl
@[simp] theorem State.sendCrt_cueCyc (s : State) (n : Nat) (e : CrtEvent) : (s.sendCrt n e).cueCyc = s.cueCyc := rfl
@[simp] theorem State.sendCrt_cueLinks (s : State) (n : Nat) (e : CrtEvent) : (s.sendCrt n e).cueLinks = s.cueLinks := rfl
@[simp] theorem State.sendCrt_cueTurn (s : State) (n : Nat) (e : CrtEvent) : (s.sendCrt n e).cueTurn = s.cueTurn := rfl
@[simp] theorem State.sendCrt_cueArrived (s : State) (n : Nat) (e : CrtEvent) : (s.sendCrt n e).cueArrived = s.cueArrived := rfl
@[simp] theorem State.sendCrt_cps (s : State) (n : Nat) (e : CrtEvent) : (s.sendCrt n e).cps = s.cps := rfl
@[simp] theorem State.sendCrt_ctxs (s : State) (n : Nat) (e : CrtEvent) : (s.sendCrt n e).ctxs = s.ctxs := rfl
@[simp] theorem State.sendCrt_parts (s : State) (n : Nat) (e : CrtEvent) : (s.sendCrt n e).parts = s.parts := rfl
@[simp] theorem State.sendCrt_shape (s : State) (n : Nat) (e : CrtEvent) : (s.sendCrt n e).shape = s.shape := rfl
@[simp] theorem State.sendCrt_faults (s : State) (n : Nat) (e : CrtEvent) : (s.sendCrt n e).faults = s.faults := rfl
@[simp] theorem State.sendCrt_links (s : State) (n : Nat) (e : CrtEvent) : (s.sendCrt n e).links = s.links := rfl
@[simp] theorem State.sendCrt_casts (s : State) (n : Nat) (e : CrtEvent) : (s.sendCrt n e).casts = s.casts := rfl
@[simp] theorem State.sendCrt_ctls (s : State) (n : Nat) (e : CrtEvent) : (s.sendCrt n e).ctls = s.ctls := rfl
@[simp] theorem State.sendCrt_keySlots (s : State) (n : Nat) (e : CrtEvent) : (s.sendCrt n e).keySlots = s.keySlots := rfl
@[simp] theorem State.sendCrt_keyRanges (s : State) (n : Nat) (e : CrtEvent) : (s.sendCrt n e).keyRanges = s.keyRanges := rfl
@[simp] theorem State.sendCrt_eth (s : State) (n : Nat) (e : CrtEvent) : (s.sendCrt n e).eth = s.eth := rfl
@[simp] theorem State.sendCrt_chain (s : State) (n : Nat) (e : CrtEvent) : (s.sendCrt n e).chain = s.chain := rfl
@[simp] theorem State.sendCrt_ymr (s : State) (n : Nat) (e : CrtEvent) : (s.sendCrt n e).ymr = s.ymr := rfl
@[simp] theorem State.sendCrt_mbx (s : State) (n : Nat) (e : CrtEvent) : (s.sendCrt n e).mbx = s.mbx := rfl
@[simp] theorem State.sendCrt_resets (s : State) (n : Nat) (e : CrtEvent) : (s.sendCrt n e).resets = s.resets := rfl
@[simp] theorem State.sendCrt_inter (s : State) (n : Nat) (e : CrtEvent) : (s.sendCrt n e).inter = s.inter := rfl
@[simp] theorem State.sendCrt_badBays (s : State) (n : Nat) (e : CrtEvent) : (s.sendCrt n e).badBays = s.badBays := rfl
@[simp] theorem State.sendCrt_free (s : State) (n : Nat) (e : CrtEvent) : (s.sendCrt n e).free = s.free := rfl
@[simp] theorem State.bay_sendCrt (s : State) (n : Nat) (e : CrtEvent) (b' : Nat) : (s.sendCrt n e).bay b' = s.bay b' := rfl
@[simp] theorem State.hand_sendCrt (s : State) (n : Nat) (e : CrtEvent) (l' : Nat) : (s.sendCrt n e).hand l' = s.hand l' := rfl
@[simp] theorem State.cp_sendCrt (s : State) (n : Nat) (e : CrtEvent) (n' : Nat) : (s.sendCrt n e).cp n' = s.cp n' := rfl
@[simp] theorem State.part_sendCrt (s : State) (n : Nat) (e : CrtEvent) (p' : Nat) : (s.sendCrt n e).part p' = s.part p' := rfl
@[simp] theorem State.ctx_sendCrt (s : State) (n : Nat) (e : CrtEvent) (p' c' : Nat) : (s.sendCrt n e).ctx p' c' = s.ctx p' c' := rfl
@[simp] theorem State.link_sendCrt (s : State) (n : Nat) (e : CrtEvent) (p' : Nat) : (s.sendCrt n e).link p' = s.link p' := rfl
@[simp] theorem State.cast_sendCrt (s : State) (n : Nat) (e : CrtEvent) (g' : Nat) : (s.sendCrt n e).cast g' = s.cast g' := rfl
@[simp] theorem State.ctl_sendCrt (s : State) (n : Nat) (e : CrtEvent) (n' : Nat) : (s.sendCrt n e).ctl n' = s.ctl n' := rfl
@[simp] theorem State.mail_sendCrt (s : State) (n : Nat) (e : CrtEvent) (n' : Nat) : (s.sendCrt n e).mail n' = s.mail n' := rfl
@[simp] theorem State.faultRec_sendCrt (s : State) (n : Nat) (e : CrtEvent) (p' c' : Nat) : (s.sendCrt n e).faultRec p' c' = s.faultRec p' c' := rfl
@[simp] theorem State.reg_sendCrt (s : State) (n : Nat) (e : CrtEvent) (a' : Nat) : (s.sendCrt n e).reg a' = s.reg a' := rfl
@[simp] theorem State.port_sendCrt (s : State) (n : Nat) (e : CrtEvent) (e' : Bool) : (s.sendCrt n e).port e' = s.port e' := rfl
@[simp] theorem State.byte_sendCrt (s : State) (n : Nat) (e : CrtEvent) (a' : Nat) : (s.sendCrt n e).byte a' = s.byte a' := rfl
@[simp] theorem State.partOfBay_sendCrt (s : State) (n : Nat) (e : CrtEvent) (b' : Nat) : (s.sendCrt n e).partOfBay b' = s.partOfBay b' := rfl
@[simp] theorem State.bayActive_sendCrt (s : State) (n : Nat) (e : CrtEvent) (b' : Nat) : (s.sendCrt n e).bayActive b' = s.bayActive b' := rfl
@[simp] theorem State.curCtx_sendCrt (s : State) (n : Nat) (e : CrtEvent) (p' : Nat) : (s.sendCrt n e).curCtx p' = s.curCtx p' := rfl

/-! sendCue -/

@[simp] theorem State.sendCue_pending (s : State) (x : CuePkt) : (s.sendCue x).pending = s.pending := rfl
@[simp] theorem State.sendCue_fuse (s : State) (x : CuePkt) : (s.sendCue x).fuse = s.fuse := rfl
@[simp] theorem State.sendCue_pins (s : State) (x : CuePkt) : (s.sendCue x).pins = s.pins := rfl
@[simp] theorem State.sendCue_power (s : State) (x : CuePkt) : (s.sendCue x).power = s.power := rfl
@[simp] theorem State.sendCue_clock (s : State) (x : CuePkt) : (s.sendCue x).clock = s.clock := rfl
@[simp] theorem State.sendCue_regs (s : State) (x : CuePkt) : (s.sendCue x).regs = s.regs := rfl
@[simp] theorem State.sendCue_mem (s : State) (x : CuePkt) : (s.sendCue x).mem = s.mem := rfl
@[simp] theorem State.sendCue_memErr (s : State) (x : CuePkt) : (s.sendCue x).memErr = s.memErr := rfl
@[simp] theorem State.sendCue_ddrKeyed (s : State) (x : CuePkt) : (s.sendCue x).ddrKeyed = s.ddrKeyed := rfl
@[simp] theorem State.sendCue_bays (s : State) (x : CuePkt) : (s.sendCue x).bays = s.bays := rfl
@[simp] theorem State.sendCue_stagehands (s : State) (x : CuePkt) : (s.sendCue x).stagehands = s.stagehands := rfl
@[simp] theorem State.sendCue_revolve (s : State) (x : CuePkt) : (s.sendCue x).revolve = s.revolve := rfl
@[simp] theorem State.sendCue_walkers (s : State) (x : CuePkt) : (s.sendCue x).walkers = s.walkers := rfl
@[simp] theorem State.sendCue_flits (s : State) (x : CuePkt) : (s.sendCue x).flits = s.flits := rfl
@[simp] theorem State.sendCue_slotUsed (s : State) (x : CuePkt) : (s.sendCue x).slotUsed = s.slotUsed := rfl
@[simp] theorem State.sendCue_cueCyc (s : State) (x : CuePkt) : (s.sendCue x).cueCyc = s.cueCyc := rfl
@[simp] theorem State.sendCue_cueLinks (s : State) (x : CuePkt) : (s.sendCue x).cueLinks = s.cueLinks := rfl
@[simp] theorem State.sendCue_cueTurn (s : State) (x : CuePkt) : (s.sendCue x).cueTurn = s.cueTurn := rfl
@[simp] theorem State.sendCue_cueArrived (s : State) (x : CuePkt) : (s.sendCue x).cueArrived = s.cueArrived := rfl
@[simp] theorem State.sendCue_crt (s : State) (x : CuePkt) : (s.sendCue x).crt = s.crt := rfl
@[simp] theorem State.sendCue_cps (s : State) (x : CuePkt) : (s.sendCue x).cps = s.cps := rfl
@[simp] theorem State.sendCue_ctxs (s : State) (x : CuePkt) : (s.sendCue x).ctxs = s.ctxs := rfl
@[simp] theorem State.sendCue_parts (s : State) (x : CuePkt) : (s.sendCue x).parts = s.parts := rfl
@[simp] theorem State.sendCue_shape (s : State) (x : CuePkt) : (s.sendCue x).shape = s.shape := rfl
@[simp] theorem State.sendCue_faults (s : State) (x : CuePkt) : (s.sendCue x).faults = s.faults := rfl
@[simp] theorem State.sendCue_links (s : State) (x : CuePkt) : (s.sendCue x).links = s.links := rfl
@[simp] theorem State.sendCue_casts (s : State) (x : CuePkt) : (s.sendCue x).casts = s.casts := rfl
@[simp] theorem State.sendCue_ctls (s : State) (x : CuePkt) : (s.sendCue x).ctls = s.ctls := rfl
@[simp] theorem State.sendCue_keySlots (s : State) (x : CuePkt) : (s.sendCue x).keySlots = s.keySlots := rfl
@[simp] theorem State.sendCue_keyRanges (s : State) (x : CuePkt) : (s.sendCue x).keyRanges = s.keyRanges := rfl
@[simp] theorem State.sendCue_eth (s : State) (x : CuePkt) : (s.sendCue x).eth = s.eth := rfl
@[simp] theorem State.sendCue_chain (s : State) (x : CuePkt) : (s.sendCue x).chain = s.chain := rfl
@[simp] theorem State.sendCue_ymr (s : State) (x : CuePkt) : (s.sendCue x).ymr = s.ymr := rfl
@[simp] theorem State.sendCue_mbx (s : State) (x : CuePkt) : (s.sendCue x).mbx = s.mbx := rfl
@[simp] theorem State.sendCue_resets (s : State) (x : CuePkt) : (s.sendCue x).resets = s.resets := rfl
@[simp] theorem State.sendCue_inter (s : State) (x : CuePkt) : (s.sendCue x).inter = s.inter := rfl
@[simp] theorem State.sendCue_badBays (s : State) (x : CuePkt) : (s.sendCue x).badBays = s.badBays := rfl
@[simp] theorem State.sendCue_free (s : State) (x : CuePkt) : (s.sendCue x).free = s.free := rfl
@[simp] theorem State.bay_sendCue (s : State) (x : CuePkt) (b' : Nat) : (s.sendCue x).bay b' = s.bay b' := rfl
@[simp] theorem State.hand_sendCue (s : State) (x : CuePkt) (l' : Nat) : (s.sendCue x).hand l' = s.hand l' := rfl
@[simp] theorem State.cp_sendCue (s : State) (x : CuePkt) (n' : Nat) : (s.sendCue x).cp n' = s.cp n' := rfl
@[simp] theorem State.part_sendCue (s : State) (x : CuePkt) (p' : Nat) : (s.sendCue x).part p' = s.part p' := rfl
@[simp] theorem State.ctx_sendCue (s : State) (x : CuePkt) (p' c' : Nat) : (s.sendCue x).ctx p' c' = s.ctx p' c' := rfl
@[simp] theorem State.link_sendCue (s : State) (x : CuePkt) (p' : Nat) : (s.sendCue x).link p' = s.link p' := rfl
@[simp] theorem State.cast_sendCue (s : State) (x : CuePkt) (g' : Nat) : (s.sendCue x).cast g' = s.cast g' := rfl
@[simp] theorem State.ctl_sendCue (s : State) (x : CuePkt) (n' : Nat) : (s.sendCue x).ctl n' = s.ctl n' := rfl
@[simp] theorem State.mail_sendCue (s : State) (x : CuePkt) (n' : Nat) : (s.sendCue x).mail n' = s.mail n' := rfl
@[simp] theorem State.curtain_sendCue (s : State) (x : CuePkt) (p' n' : Nat) : (s.sendCue x).curtain p' n' = s.curtain p' n' := rfl
@[simp] theorem State.faultRec_sendCue (s : State) (x : CuePkt) (p' c' : Nat) : (s.sendCue x).faultRec p' c' = s.faultRec p' c' := rfl
@[simp] theorem State.reg_sendCue (s : State) (x : CuePkt) (a' : Nat) : (s.sendCue x).reg a' = s.reg a' := rfl
@[simp] theorem State.port_sendCue (s : State) (x : CuePkt) (e' : Bool) : (s.sendCue x).port e' = s.port e' := rfl
@[simp] theorem State.byte_sendCue (s : State) (x : CuePkt) (a' : Nat) : (s.sendCue x).byte a' = s.byte a' := rfl
@[simp] theorem State.flagAt_sendCue (s : State) (x : CuePkt) (n' p' k' : Nat) : (s.sendCue x).flagAt n' p' k' = s.flagAt n' p' k' := rfl
@[simp] theorem State.partOfBay_sendCue (s : State) (x : CuePkt) (b' : Nat) : (s.sendCue x).partOfBay b' = s.partOfBay b' := rfl
@[simp] theorem State.bayActive_sendCue (s : State) (x : CuePkt) (b' : Nat) : (s.sendCue x).bayActive b' = s.bayActive b' := rfl
@[simp] theorem State.curCtx_sendCue (s : State) (x : CuePkt) (p' : Nat) : (s.sendCue x).curCtx p' = s.curCtx p' := rfl

/-! The part written reads as written; the other parts read as before. -/

@[simp] theorem State.bay_setBay_same (s : State) (b : Nat) (x : Bay) : (s.setBay b x).bay b = x := sget_sset_same _ _ _ _
@[simp] theorem State.hand_setHand_same (s : State) (l : Nat) (x : Stagehand) : (s.setHand l x).hand l = x := sget_sset_same _ _ _ _
@[simp] theorem State.cp_setCp_same (s : State) (n : Nat) (x : CueProc) : (s.setCp n x).cp n = x := sget_sset_same _ _ _ _
@[simp] theorem State.part_setPart_same (s : State) (p : Nat) (x : Partition) : (s.setPart p x).part p = x := sget_sset_same _ _ _ _
@[simp] theorem State.link_setLink_same (s : State) (p : Nat) (x : LinkEng) : (s.setLink p x).link p = x := sget_sset_same _ _ _ _
@[simp] theorem State.cast_setCast_same (s : State) (g : Nat) (x : CastList) : (s.setCast g x).cast g = x := sget_sset_same _ _ _ _
@[simp] theorem State.ctl_setCtl_same (s : State) (n : Nat) (x : MemCtl) : (s.setCtl n x).ctl n = x := sget_sset_same _ _ _ _
@[simp] theorem State.mail_setMail_same (s : State) (n : Nat) (x : Mailbox) : (s.setMail n x).mail n = x := sget_sset_same _ _ _ _
@[simp] theorem State.reg_setReg_same (s : State) (a : Nat) (x : Word) : (s.setReg a x).reg a = x := sget_sset_same _ _ _ _
@[simp] theorem State.ctx_setCtx_same (s : State) (p c : Nat) (x : Context) : (s.setCtx p c x).ctx p c = x := sget_sset_same _ _ _ _
@[simp] theorem State.curtain_setCurtain_same (s : State) (p n : Nat) (x : Curtain) : (s.setCurtain p n x).curtain p n = x := sget_sset_same _ _ _ _
@[simp] theorem State.faultRec_setFaultRec_same (s : State) (p c : Nat) (x : Option FaultRec) : (s.setFaultRec p c x).faultRec p c = x := sget_sset_same _ _ _ _
theorem State.bay_setBay_other (s : State) (b : Nat) (x : Bay) (k : Nat) (h : k ≠ b) : (s.setBay b x).bay k = s.bay k := sget_sset_other _ _ _ h
theorem State.hand_setHand_other (s : State) (l : Nat) (x : Stagehand) (k : Nat) (h : k ≠ l) : (s.setHand l x).hand k = s.hand k := sget_sset_other _ _ _ h
theorem State.cp_setCp_other (s : State) (n : Nat) (x : CueProc) (k : Nat) (h : k ≠ n) : (s.setCp n x).cp k = s.cp k := sget_sset_other _ _ _ h
theorem State.part_setPart_other (s : State) (p : Nat) (x : Partition) (k : Nat) (h : k ≠ p) : (s.setPart p x).part k = s.part k := sget_sset_other _ _ _ h
theorem State.link_setLink_other (s : State) (p : Nat) (x : LinkEng) (k : Nat) (h : k ≠ p) : (s.setLink p x).link k = s.link k := sget_sset_other _ _ _ h
theorem State.cast_setCast_other (s : State) (g : Nat) (x : CastList) (k : Nat) (h : k ≠ g) : (s.setCast g x).cast k = s.cast k := sget_sset_other _ _ _ h
theorem State.ctl_setCtl_other (s : State) (n : Nat) (x : MemCtl) (k : Nat) (h : k ≠ n) : (s.setCtl n x).ctl k = s.ctl k := sget_sset_other _ _ _ h
theorem State.ctx_setCtx_other (s : State) (p c : Nat) (x : Context) (p' c' : Nat) (h : ctxKey p' c' ≠ ctxKey p c) : (s.setCtx p c x).ctx p' c' = s.ctx p' c' :=
  sget_sset_other _ _ _ h
theorem State.curtain_setCurtain_other (s : State) (p n : Nat) (x : Curtain) (p' c' : Nat) (h : curtKey p' c' ≠ curtKey p n) : (s.setCurtain p n x).curtain p' c' = s.curtain p' c' :=
  sget_sset_other _ _ _ h
theorem State.faultRec_setFaultRec_other (s : State) (p c : Nat) (x : Option FaultRec) (p' c' : Nat) (h : ctxKey p' c' ≠ ctxKey p c) : (s.setFaultRec p c x).faultRec p' c' = s.faultRec p' c' :=
  sget_sset_other _ _ _ h

/-- Contexts of different numbers have different keys. -/
theorem ctxKey_inj (p c p' c' : Nat) (h : c < 16) (h' : c' < 16) (e : ctxKey p c = ctxKey p' c') : p = p' ∧ c = c' := by
  unfold ctxKey at e; omega

@[simp] theorem State.port_setPort_same (s : State) (e : Bool) (x : ChainPort) : (s.setPort e x).port e = x := by cases e <;> rfl
@[simp] theorem State.port_setPort_other (s : State) (e : Bool) (x : ChainPort) : (s.setPort e x).port (!e) = s.port (!e) := by cases e <;> rfl
@[simp] theorem Bay.queue_setQueue_same (y : Bay) (q : Nat) (l : List QCmd) : (y.setQueue q l).queue q = l := sget_sset_same _ _ _ _
theorem Bay.queue_setQueue_other (y : Bay) (q k : Nat) (l : List QCmd) (h : k ≠ q) : (y.setQueue q l).queue k = y.queue k := sget_sset_other _ _ _ h
@[simp] theorem Bay.tile_setTile_same (y : Bay) (a b : Nat) (t : Tile) : (y.setTile a b t).tile a b = t := sget_sset_same _ _ _ _
@[simp] theorem Bay.accAt_setAcc_same (y : Bay) (a k r c : Nat) (v : BitVec 28) : (y.setAcc a k r c v).accAt a k r c = v := sget_sset_same _ _ _ _
@[simp] theorem Bay.ramp_setRamp_same (y : Bay) (a : Nat) (r : Ramp) : (y.setRamp a r).ramp a = r := sget_sset_same _ _ _ _
@[simp] theorem LinkEng.queue_setQueue_same (l : LinkEng) (q : Nat) (x : List QCmd) : (l.setQueue q x).queue q = x := sget_sset_same _ _ _ _

/-- A fault packet leaves for the fault-record block; nothing else changes (R287). -/
theorem State.sendFault_cuePkts (s : State) (r p c cls b i : Nat) (o : Word) (a : Nat) (d : List Nat) :
    (s.sendFault r p c cls b i o a d).cuePkts = (s.sendCue (.fault r p c cls b i o s.clock.house a d)).cuePkts := rfl

/-- A packet enters the queue of its source's node, behind those that wait (R181). -/
theorem State.sendCue_cuePkts (s : State) (x : CuePkt) :
    (s.sendCue x).cuePkts = s.cuePkts ++ [{ pkt := x, node := x.source, inp := 0, ready := s.cueCyc }] := rfl

/-- An event waits at its node for registration, behind those that wait already (R183, R187). -/
theorem State.sendCrt_waiting (s : State) (n : Nat) (e : CrtEvent) :
    (s.sendCrt n e).crt.waiting = s.crt.waiting ++ [{ ev := e, node := n, time := s.clock.house, cp := none }] := rfl
theorem State.sendCrt_curtains (s : State) (n : Nat) (e : CrtEvent) : (s.sendCrt n e).crt.curtains = s.crt.curtains := rfl
theorem State.sendCrt_flags (s : State) (n : Nat) (e : CrtEvent) : (s.sendCrt n e).crt.flags = s.crt.flags := rfl

/-- A wrapping counter reads its old value plus the count. -/
@[simp] theorem State.countWrap_reg (s : State) (a n : Nat) : (s.countWrap a n).reg a = s.reg a + BitVec.ofNat 32 n := by
  simp [State.countWrap]
@[simp] theorem State.orReg_reg (s : State) (a : Nat) (m : Word) : (s.orReg a m).reg a = s.reg a ||| m := by simp [State.orReg]

/-- What a saturating counter can do: its register, and the two histories of the risk score. -/
theorem State.countSat_cases (s : State) (a n : Nat) : ∃ y : Yemir, s.countSat a n =
    { s with regs := (s.setReg a (satInc (s.reg a) n)).regs, ymr := y } ∧
    y = { s.ymr with ceHist := y.ceHist, lrHist := y.lrHist } := by
  unfold State.countSat
  split
  · exact ⟨_, rfl, rfl⟩
  · split
    · exact ⟨_, rfl, rfl⟩
    · exact ⟨s.ymr, rfl, rfl⟩

@[simp] theorem State.countSat_reg (s : State) (a n : Nat) : (s.countSat a n).reg a = satInc (s.reg a) n := by
  obtain ⟨y, h, -⟩ := s.countSat_cases a n
  rw [h]
  exact State.reg_setReg_same s a _

@[simp] theorem State.countSat_pending (s : State) (a n : Nat) : (s.countSat a n).pending = s.pending := by
  obtain ⟨y, h, -⟩ := s.countSat_cases a n; rw [h]
@[simp] theorem State.countSat_fuse (s : State) (a n : Nat) : (s.countSat a n).fuse = s.fuse := by
  obtain ⟨y, h, -⟩ := s.countSat_cases a n; rw [h]
@[simp] theorem State.countSat_pins (s : State) (a n : Nat) : (s.countSat a n).pins = s.pins := by
  obtain ⟨y, h, -⟩ := s.countSat_cases a n; rw [h]
@[simp] theorem State.countSat_power (s : State) (a n : Nat) : (s.countSat a n).power = s.power := by
  obtain ⟨y, h, -⟩ := s.countSat_cases a n; rw [h]
@[simp] theorem State.countSat_clock (s : State) (a n : Nat) : (s.countSat a n).clock = s.clock := by
  obtain ⟨y, h, -⟩ := s.countSat_cases a n; rw [h]
@[simp] theorem State.countSat_mem (s : State) (a n : Nat) : (s.countSat a n).mem = s.mem := by
  obtain ⟨y, h, -⟩ := s.countSat_cases a n; rw [h]
@[simp] theorem State.countSat_memErr (s : State) (a n : Nat) : (s.countSat a n).memErr = s.memErr := by
  obtain ⟨y, h, -⟩ := s.countSat_cases a n; rw [h]
@[simp] theorem State.countSat_ddrKeyed (s : State) (a n : Nat) : (s.countSat a n).ddrKeyed = s.ddrKeyed := by
  obtain ⟨y, h, -⟩ := s.countSat_cases a n; rw [h]
@[simp] theorem State.countSat_bays (s : State) (a n : Nat) : (s.countSat a n).bays = s.bays := by
  obtain ⟨y, h, -⟩ := s.countSat_cases a n; rw [h]
@[simp] theorem State.countSat_stagehands (s : State) (a n : Nat) : (s.countSat a n).stagehands = s.stagehands := by
  obtain ⟨y, h, -⟩ := s.countSat_cases a n; rw [h]
@[simp] theorem State.countSat_revolve (s : State) (a n : Nat) : (s.countSat a n).revolve = s.revolve := by
  obtain ⟨y, h, -⟩ := s.countSat_cases a n; rw [h]
@[simp] theorem State.countSat_walkers (s : State) (a n : Nat) : (s.countSat a n).walkers = s.walkers := by
  obtain ⟨y, h, -⟩ := s.countSat_cases a n; rw [h]
@[simp] theorem State.countSat_flits (s : State) (a n : Nat) : (s.countSat a n).flits = s.flits := by
  obtain ⟨y, h, -⟩ := s.countSat_cases a n; rw [h]
@[simp] theorem State.countSat_slotUsed (s : State) (a n : Nat) : (s.countSat a n).slotUsed = s.slotUsed := by
  obtain ⟨y, h, -⟩ := s.countSat_cases a n; rw [h]
@[simp] theorem State.countSat_cuePkts (s : State) (a n : Nat) : (s.countSat a n).cuePkts = s.cuePkts := by
  obtain ⟨y, h, -⟩ := s.countSat_cases a n; rw [h]
@[simp] theorem State.countSat_cueCyc (s : State) (a n : Nat) : (s.countSat a n).cueCyc = s.cueCyc := by
  obtain ⟨y, h, -⟩ := s.countSat_cases a n; rw [h]
@[simp] theorem State.countSat_cueLinks (s : State) (a n : Nat) : (s.countSat a n).cueLinks = s.cueLinks := by
  obtain ⟨y, h, -⟩ := s.countSat_cases a n; rw [h]
@[simp] theorem State.countSat_cueTurn (s : State) (a n : Nat) : (s.countSat a n).cueTurn = s.cueTurn := by
  obtain ⟨y, h, -⟩ := s.countSat_cases a n; rw [h]
@[simp] theorem State.countSat_cueArrived (s : State) (a n : Nat) : (s.countSat a n).cueArrived = s.cueArrived := by
  obtain ⟨y, h, -⟩ := s.countSat_cases a n; rw [h]
@[simp] theorem State.countSat_crt (s : State) (a n : Nat) : (s.countSat a n).crt = s.crt := by
  obtain ⟨y, h, -⟩ := s.countSat_cases a n; rw [h]
@[simp] theorem State.countSat_cps (s : State) (a n : Nat) : (s.countSat a n).cps = s.cps := by
  obtain ⟨y, h, -⟩ := s.countSat_cases a n; rw [h]
@[simp] theorem State.countSat_ctxs (s : State) (a n : Nat) : (s.countSat a n).ctxs = s.ctxs := by
  obtain ⟨y, h, -⟩ := s.countSat_cases a n; rw [h]
@[simp] theorem State.countSat_parts (s : State) (a n : Nat) : (s.countSat a n).parts = s.parts := by
  obtain ⟨y, h, -⟩ := s.countSat_cases a n; rw [h]
@[simp] theorem State.countSat_shape (s : State) (a n : Nat) : (s.countSat a n).shape = s.shape := by
  obtain ⟨y, h, -⟩ := s.countSat_cases a n; rw [h]
@[simp] theorem State.countSat_faults (s : State) (a n : Nat) : (s.countSat a n).faults = s.faults := by
  obtain ⟨y, h, -⟩ := s.countSat_cases a n; rw [h]
@[simp] theorem State.countSat_links (s : State) (a n : Nat) : (s.countSat a n).links = s.links := by
  obtain ⟨y, h, -⟩ := s.countSat_cases a n; rw [h]
@[simp] theorem State.countSat_casts (s : State) (a n : Nat) : (s.countSat a n).casts = s.casts := by
  obtain ⟨y, h, -⟩ := s.countSat_cases a n; rw [h]
@[simp] theorem State.countSat_ctls (s : State) (a n : Nat) : (s.countSat a n).ctls = s.ctls := by
  obtain ⟨y, h, -⟩ := s.countSat_cases a n; rw [h]
@[simp] theorem State.countSat_keySlots (s : State) (a n : Nat) : (s.countSat a n).keySlots = s.keySlots := by
  obtain ⟨y, h, -⟩ := s.countSat_cases a n; rw [h]
@[simp] theorem State.countSat_keyRanges (s : State) (a n : Nat) : (s.countSat a n).keyRanges = s.keyRanges := by
  obtain ⟨y, h, -⟩ := s.countSat_cases a n; rw [h]
@[simp] theorem State.countSat_eth (s : State) (a n : Nat) : (s.countSat a n).eth = s.eth := by
  obtain ⟨y, h, -⟩ := s.countSat_cases a n; rw [h]
@[simp] theorem State.countSat_chain (s : State) (a n : Nat) : (s.countSat a n).chain = s.chain := by
  obtain ⟨y, h, -⟩ := s.countSat_cases a n; rw [h]
@[simp] theorem State.countSat_mbx (s : State) (a n : Nat) : (s.countSat a n).mbx = s.mbx := by
  obtain ⟨y, h, -⟩ := s.countSat_cases a n; rw [h]
@[simp] theorem State.countSat_resets (s : State) (a n : Nat) : (s.countSat a n).resets = s.resets := by
  obtain ⟨y, h, -⟩ := s.countSat_cases a n; rw [h]
@[simp] theorem State.countSat_inter (s : State) (a n : Nat) : (s.countSat a n).inter = s.inter := by
  obtain ⟨y, h, -⟩ := s.countSat_cases a n; rw [h]
@[simp] theorem State.countSat_badBays (s : State) (a n : Nat) : (s.countSat a n).badBays = s.badBays := by
  obtain ⟨y, h, -⟩ := s.countSat_cases a n; rw [h]
@[simp] theorem State.countSat_free (s : State) (a n : Nat) : (s.countSat a n).free = s.free := by
  obtain ⟨y, h, -⟩ := s.countSat_cases a n; rw [h]

end Sys2Proof.Machine
end

