-- ==== Sys2Proof/Laws/Ops.lean ====
section
/-!
SUPPORT. Laws/Ops.lean: what each shared operation can do, said once: starting a queue's head, issuing a stagehand's word,
taking a PCP request, reading and writing the scratchpad.
-/
namespace Sys2Proof.Machine

@[simp] theorem idle_eq (s : State) : idle s = .next s := rfl

/-- A value of a store with every listed value changed, where the default stays the default. -/
theorem sget_smap {α : Type} [DecidableEq α] (d : α) (f : Nat → α → α) (h : ∀ k, f k d = d) (m : Sparse α) (k : Nat) :
    sget d (smap d f m) k = f k (sget d m k) := by
  induction m with
  | nil => simp [smap, sget, h]
  | cons x m ih =>
    obtain ⟨j, v⟩ := x
    simp only [smap]
    split
    · rename_i e
      by_cases hj : j = k
      · subst hj; simp [sget, sget_sdel_same, e]
      · simp [sget, hj, sget_sdel_other d _ (Ne.symm hj), ih]
    · by_cases hj : j = k
      · simp [sget, hj]
      · simp [sget, hj, ih]

/-- A register write changes nothing while the die rails are off. -/
theorem whenOn_cases (s t : State) : (s.ymr.dieOn = true ∧ whenOn s t = .next t) ∨ (s.ymr.dieOn = false ∧ whenOn s t = .next s) := by
  unfold whenOn
  cases s.ymr.dieOn
  · exact .inr ⟨rfl, rfl⟩
  · exact .inl ⟨rfl, rfl⟩

/-- The conditions under which the head of a bay's queue starts (R97, Table 3.17). -/
structure Starts (op b q : Nat) (ready : QCmd → State → Bool) (s : State) (c : QCmd) (rest : List QCmd) : Prop where
  head : (s.bay b).queue q = c :: rest
  opcode : bayOp q c.words = op
  active : s.bayActive b = true
  clock : (s.bay b).clk.stopped = false
  wait : c.waitOk = true
  board : (s.bay b).scoreboardOk q c.words = true
  ready : ready c s = true
  first : (s.bay b).goesFirst q = true

/-- A head that meets them starts. -/
theorem startHead_starts {op b q : Nat} {ready : QCmd → State → Bool} {go : QCmd → List QCmd → State → State} {s : State}
    {c : QCmd} {rest : List QCmd} (h : Starts op b q ready s c rest) : startHead op b q ready go s = .next (go c rest s) := by
  simp [startHead, h.head, h.opcode, h.active, h.clock, h.wait, h.board, h.ready, h.first]

/-- Starting a queue's head: it starts, or nothing happens. -/
theorem startHead_cases (op b q : Nat) (ready : QCmd → State → Bool) (go : QCmd → List QCmd → State → State) (s : State) :
    (∃ c rest, Starts op b q ready s c rest ∧ startHead op b q ready go s = .next (go c rest s)) ∨
      startHead op b q ready go s = .next s := by
  unfold startHead
  split
  · exact .inr rfl
  · rename_i c rest e
    split
    · rename_i h
      simp only [Bool.and_eq_true, decide_eq_true_eq, Bool.not_eq_true'] at h
      obtain ⟨⟨⟨⟨⟨⟨h1, h2⟩, h3⟩, h4⟩, h5⟩, h6⟩, h7⟩ := h
      exact .inl ⟨c, rest, ⟨e, h1, h2, h3, h4, h5, h6, h7⟩, rfl⟩
    · exact .inr rfl

/-- What a word that issues comes to is what its body makes of the stagehand with its results written and its cycle used. -/
theorem shOutcome_issues {s : State} {l opc : Nat} {f : ShFields} {body : ShFields → State → ShRes} (h : Issues s l opc f) :
    shOutcome opc body l (s.issueAt l) s = (match body f (s.setHand l (s.issuing l)) with | .wait => none | r => some r) := by
  have p : ¬ 1023 < ((s.hand l).landed (s.issueAt l)).pc := Nat.not_lt.mpr h.inStore
  have w : ((s.hand l).landed (s.issueAt l)).word = f := h.word
  have z : ((s.hand l).landed (s.issueAt l)).stalls f (s.issueAt l) = false := h.free
  have c : shCheck ((s.hand l).landed (s.issueAt l)) f = none := h.ok
  simp only [shOutcome, if_neg p, w, h.opcode, ne_eq, not_true_eq_false, if_false, z, Bool.false_eq_true, c]
  rfl

/-- A word whose stagehand is ready and whose cycle has come is judged. -/
theorem shIssue_issues {s : State} {l opc : Nat} {f : ShFields} {body : ShFields → State → ShRes} (h : Issues s l opc f) :
    shIssue opc body l s = (match shOutcome opc body l (s.issueAt l) s with
      | some (.done s') => .next s'
      | some (.fault s' r a) => .next (s'.shFault l r a)
      | _ => idle s) := by
  have d : ¬ (s.bay (handBay l)).clk.cyc < (s.hand l).issueCycle (s.bay (handBay l)).clk := Nat.not_lt.mpr h.due
  have r : (s.hand l).ready = true := by simp [Stagehand.ready, h.running, h.waits]
  simp only [shIssue, if_neg d, r, if_true]
  rfl

/-- An instruction that issues and does its work. -/
theorem shIssue_done {s t : State} {l opc : Nat} {f : ShFields} {body : ShFields → State → ShRes} (h : Issues s l opc f)
    (d : body f (s.setHand l (s.issuing l)) = .done t) : shIssue opc body l s = .next t := by
  rw [shIssue_issues h, shOutcome_issues h, d]

/-- An instruction that issues and faults. -/
theorem shIssue_fault {s t : State} {l opc r a : Nat} {f : ShFields} {body : ShFields → State → ShRes} (h : Issues s l opc f)
    (d : body f (s.setHand l (s.issuing l)) = .fault t r a) : shIssue opc body l s = .next (t.shFault l r a) := by
  rw [shIssue_issues h, shOutcome_issues h, d]

/-- An instruction that waits at issue changes nothing. -/
theorem shIssue_waits {s : State} {l opc : Nat} {f : ShFields} {body : ShFields → State → ShRes} (h : Issues s l opc f)
    (d : body f (s.setHand l (s.issuing l)) = .wait) : shIssue opc body l s = .next s := by
  rw [shIssue_issues h, shOutcome_issues h, d]
  rfl

/-- A register form that issues: its result is on its way, due at its latency, and the stagehand has moved on. -/
theorem shReg_issues {s : State} {l opc : Nat} {f : ShFields} {upd : ShFields → Stagehand → Stagehand} (h : Issues s l opc f) :
    shReg opc upd l s = .next (s.setHand l (((s.issuing l).put f (shLatency opc) (upd f)).nextPc)) := by
  refine shIssue_done h ?_
  simp only [State.hand_setHand_same]
  simp [State.setHand]

/-- Issuing a stagehand's word: it is what its outcome in its cycle says, a fault of its own in the cycle in which another's fault
has stopped it, or nothing happens. -/
theorem shIssue_cases (opc : Nat) (body : ShFields → State → ShRes) (l : Nat) (s : State) :
    (∃ t, shOutcome opc body l (s.issueAt l) s = some (.done t) ∧ (s.hand l).ready = true ∧ shIssue opc body l s = .next t) ∨
      (∃ t r a, shOutcome opc body l (s.issueAt l) s = some (.fault t r a) ∧ (s.hand l).ready = true ∧
        shIssue opc body l s = .next (t.shFault l r a)) ∨
      (∃ t r a, shOutcome opc body l (s.issueAt l) s = some (.fault t r a) ∧ (s.hand l).ready = false ∧
        shIssue opc body l s = .next (State.handFault (s.setHand l { s.hand l with cut := none }) l r a)) ∨
      shIssue opc body l s = .next s := by
  unfold shIssue State.issueAt
  dsimp only
  split
  · exact .inr (.inr (.inr rfl))
  · split
    · rename_i r
      split
      · rename_i t e; exact .inl ⟨t, e, r, rfl⟩
      · rename_i t x a e; exact .inr (.inl ⟨t, x, a, e, r, rfl⟩)
      · exact .inr (.inr (.inr rfl))
    · rename_i r
      split
      · split
        · rename_i t x a e; exact .inr (.inr (.inl ⟨t, x, a, e, by simpa using r, rfl⟩))
        · exact .inr (.inr (.inr rfl))
      · exact .inr (.inr (.inr rfl))

/-- A request of PCP always answers a next state. -/
theorem pcpDo_next (k : PcpOp) (h : PcpHdr) (body : PcpHdr → State → State) (s : State) : ∃ t, pcpDo k h body s = .next t := by
  unfold pcpDo
  dsimp only
  repeat' split
  all_goals exact ⟨_, rfl⟩

/-- An accepted request's session, with the request counted (R351, R356). -/
theorem State.session_accept {s : State} {h : PcpHdr} {x : Session} (e : s.session h = some x) : (s.accept h x).session h =
    some { x with lastSeq := some h.sequence.toNat, lastTime := s.now, open_ := x.open_ + 1 } := by
  unfold State.session at e ⊢
  split at e
  · cases e
  · rename_i n
    have i : x.id = h.session := by simpa using List.find?_some e
    simp only [if_neg n, State.accept, State.modSession, List.find?_map]
    have g : ((fun y : Session => decide (y.id = h.session)) ∘ fun y => if y.id = x.id then
        { y with lastSeq := some h.sequence.toNat, lastTime := s.now, open_ := y.open_ + 1 } else y) = fun y => decide (y.id = h.session) := by
      funext y
      simp only [Function.comp]
      split <;> rfl
    rw [g, e]
    simp

/-- A request that meets every step of R349 before its target is judged comes to the rest in the state with it accepted. -/
theorem pcpDo_asks {k : PcpOp} {h : PcpHdr} {body : PcpHdr → State → State} {s : State} {x : Session} (a : Asks s h x k.op k.role k.need) :
    pcpDo k h body s = .next ((s.accept h x).pcpRun h k (body h)) := by
  have here : ¬ (h.chain ≠ 0xFF ∧ s.chain.addr ≠ some h.chain.toNat) := fun g => a.here.elim g.1 g.2
  have steps : s.pcpSteps h k (body h) = (s.accept h x).pcpRun h k (body h) := by
    simp only [State.pcpSteps, a.session, a.fresh, Bool.false_eq_true, if_false, a.role, Bool.not_true, if_neg (Nat.not_lt.mpr a.long)]
    rw [show State.modSession s x.id _ = s.accept h x from rfl, State.lastRequest, if_neg a.more]
  simp only [pcpDo, if_neg here]
  simp [a.opcode, a.reaches, a.magic, a.request, a.version, Nat.not_lt.mpr a.whole, State.pcpOpen, a.session, a.enc, a.tag, steps]

/-- Its target judged, the opcode is carried out (R351, R354, R462). -/
theorem State.pcpRun_asks {k : PcpOp} {h : PcpHdr} {body : State → State} {s : State} {x : Session} (a : Asks s h x k.op k.role k.need)
    (d : k.offOk = worksOff.contains k.op) (t : k.scope = .module ∨ (k.scope = .partition ∧ NamesPart s h) ∨ (k.scope = .context ∧ NamesCtx s h)) :
    (s.accept h x).pcpRun h k body = body (s.accept h x) := by
  have v := State.session_accept a.session
  have on : (!k.offOk && !(s.accept h x).ymr.dieOn) = false := by
    rcases a.die with e | e
    · simp [State.accept, State.modSession, e]
    · rw [d, e]; rfl
  have pe : (s.accept h x).partExists = s.partExists := rfl
  have pf : (s.accept h x).partFenced = s.partFenced := rfl
  have pc : (s.accept h x).ctx = s.ctx := rfl
  have pb : (s.accept h x).ymr.busy = s.ymr.busy := rfl
  have pr : (s.accept h x).resets = s.resets := rfl
  rcases t with m | ⟨m, n⟩ | ⟨m, n⟩
  · simp [State.pcpRun, v, on, m, Nat.not_lt.mpr a.few]
  · simp [State.pcpRun, v, on, m, Nat.not_lt.mpr a.few, pe, pf, n.exists_, n.open_]
  · simp only [State.pcpRun, v, on, m, pe, pf, pc, pb, pr, n.part.exists_, n.part.open_, n.free, n.reset]
    simp [Nat.not_lt.mpr a.few, n.ctx]

/-- The head of a link engine's queue that can start, and the state with it taken off. -/
theorem State.linkHead_cases {s t : State} {p k op : Nat} {q : QCmd} (h : s.linkHead p k op = some (q, t)) :
    ∃ rest, (s.link p).queue k = q :: rest ∧ q.head.opcode = op ∧
      (q.waitOk = true ∨ s.flagAt linkNode p q.head.waitFlag = true) ∧ t = (s.setLink p ((s.link p).setQueue k rest)).testLinks p := by
  unfold State.linkHead at h
  dsimp only at h
  split at h
  · cases h
  · rename_i c rest e
    split at h
    · rename_i g
      simp only [Bool.and_eq_true, Bool.or_eq_true, decide_eq_true_eq] at g
      simp only [Option.some.injEq, Prod.mk.injEq] at h
      obtain ⟨rfl, rfl⟩ := h
      exact ⟨rest, e, g.1, g.2, rfl⟩
    · cases h

/-- Checking words writes no memory. -/
theorem State.checkWord_mem (s : State) (w : Nat) : (s.checkWord w).1.mem = s.mem := by
  unfold State.checkWord
  generalize spBayOff (8 * w) = q
  obtain ⟨b, off⟩ := q
  dsimp only
  split
  · rfl
  · split
    · simp only [State.countSat_mem, State.setBay_mem]
    · simp only [State.setReg_mem, State.countSat_mem]

theorem State.checkWords_mem (s : State) (ws : List Nat) : (s.checkWords ws).1.mem = s.mem := by
  induction ws generalizing s with
  | nil => rfl
  | cons w ws ih =>
    show ((s.checkWord w).1.checkWords ws).1.mem = s.mem
    rw [ih, State.checkWord_mem]

/-- A word without bit errors is read as it stands. -/
theorem State.checkWord_clean (s : State) (w : Nat) (h : sget 0 s.memErr w = 0) : s.checkWord w = (s, true) := by
  simp [State.checkWord, h]

theorem State.checkWords_clean (s : State) (ws : List Nat) (h : ∀ w ∈ ws, sget 0 s.memErr w = 0) : s.checkWords ws = (s, true) := by
  induction ws with
  | nil => rfl
  | cons w ws ih =>
    have a := s.checkWord_clean w (h w (by simp))
    have b := ih (fun x hx => h x (by simp [hx]))
    simp [State.checkWords, a, b]

/-- A scratchpad read writes no memory (R162). -/
theorem State.spRead_mem (s : State) (b off n : Nat) : (s.spRead b off n).1.mem = s.mem := s.checkWords_mem _

/-- A range that ends in the slice it begins in lies there whole. -/
theorem inSlice_within {off n : Nat} (h : off % 0x20000 + n ≤ 0x20000) : inSlice off n = n := by unfold inSlice; omega

@[simp] theorem wordsOf_zero (a : Nat) : wordsOf a 0 = [] := rfl
@[simp] theorem partialWords_zero (a : Nat) : partialWords a 0 = [] := rfl

/-- A scratchpad read of a range within one slice, without bit errors, returns the bytes and changes nothing (R162). -/
theorem State.spRead_clean (s : State) (b off n : Nat) (within : off % 0x20000 + n ≤ 0x20000)
    (h : ∀ w ∈ wordsOf (spAddr b off) n, sget 0 s.memErr w = 0) : s.spRead b off n = (s, some (s.bytes (spAddr b off) n)) := by
  simp [State.spRead, inSlice_within within, s.checkWords_clean _ h, State.bytes]

/-- Forgetting bit errors writes no memory. -/
theorem State.freshWords_mem (s : State) (ws : List Nat) : (s.freshWords ws).mem = s.mem := by
  induction ws generalizing s with
  | nil => rfl
  | cons w ws ih =>
    simp only [State.freshWords]
    split
    · exact ih s
    · exact (ih _).trans rfl

/-- A scratchpad write changes no byte outside its own, in the slice it begins in and the next, and none at all when a word it
covers in part is uncorrectable (R163). -/
theorem State.spWrite_outside (s : State) (b off : Nat) (v : List Byte) (x : Nat)
    (h : x < spAddr b off ∨ spAddr b off + inSlice off v.length ≤ x)
    (h' : x < spAddr b (off + inSlice off v.length) ∨ spAddr b (off + inSlice off v.length) + (v.length - inSlice off v.length) ≤ x) :
    (s.spWrite b off v).1.byte x = s.byte x := by
  have k : inSlice off v.length ≤ v.length := Nat.min_le_left ..
  have m := s.checkWords_mem (partialWords (spAddr b off) (inSlice off v.length) ++
    partialWords (spAddr b (off + inSlice off v.length)) (v.length - inSlice off v.length))
  simp only [State.spWrite]
  split
  · rw [State.byte_putBytes_outside _ _ _ _ (by simpa using h'), State.byte_putBytes_outside _ _ _ _ (by simpa [Nat.min_eq_left k] using h)]
    unfold State.byte
    rw [State.freshWords_mem, m]
  · unfold State.byte
    rw [m]

/-- A scratchpad write within one slice that is made puts each byte in its place (R163). -/
theorem State.spWrite_inside (s : State) (b off : Nat) (v : List Byte) (i : Nat) (h : i < v.length)
    (within : off % 0x20000 + v.length ≤ 0x20000) (ok : (s.spWrite b off v).2 = true) :
    (s.spWrite b off v).1.byte (spAddr b off + i) = v.getD i 0 := by
  simp only [State.spWrite, inSlice_within within] at ok ⊢
  split
  · simpa [State.putBytes] using State.byte_putBytes_inside _ _ _ _ h
  · rename_i g
    rw [if_neg g] at ok
    cases ok

end Sys2Proof.Machine
end

