-- ==== Sys2Proof/WellFormed.lean ====
section
/-!
DEFINITION. WellFormed.lean: the operands a command can carry: every number fits the field the spec gives it, so that
a well-formed command is one that can reach the block. Units are bounded by their types already (Syntax.lean); positions
in a list of the state, and the readings of sensors, have no field. The meanings do not rely on it.
-/
namespace Sys2Proof

/-- PCP packets (Table 12.4, R347): LENGTH is a 16-bit field; at most 9,000 bytes in all; addresses of 128 bits. -/
def PcpHdr.wf (h : PcpHdr) : Bool :=
  decide (h.length < 2 ^ 16) && decide (h.avail ≤ 8952) && decide (h.peer < 2 ^ 128) && decide (h.dst < 2 ^ 128) &&
    decide (h.via.getD 0 < 64) && decide (h.packet.length = h.avail + 48) && decide (h.body.length ≤ h.avail)

/-- A bucket header (Table 8.3); LEVEL 3 is never sent. -/
def BucketHdr.wf (h : BucketHdr) : Bool :=
  decide (h.level ≠ 3) && decide (h.ncontrib.toNat ≤ 8192) && decide (h.count < 2 ^ 32) && decide (h.chunk < 2 ^ 32)

/-- A reblock plan entry (Table 8.10). -/
def ReblockEntry.wf (e : ReblockEntry) : Bool :=
  decide (e.tensor < 2 ^ 16) && decide (e.oldCast < 256) && decide (e.newCast < 256) && decide (e.oldShards < 256) &&
    decide (e.newShards < 256) && decide (e.newWcBase < 2 ^ 48) && decide (e.newStateBase < 2 ^ 48) && decide (e.newHalfStride < 2 ^ 48)

/-- A PATCH entry (Table 12.6). -/
def PatchEntry.wf (e : PatchEntry) : Bool := decide (e.kind < 256) && decide (e.symbol < 256) && decide (e.value < 2 ^ 128)

/-- CTX_CREATE (Table 12.6): bases and sizes of the 48-bit data space. -/
def CtxParams.wf (c : CtxParams) : Bool :=
  [c.hbmBase, c.hbmSize, c.ddrBase, c.ddrSize].all (fun v => decide (v < 2 ^ 64)) &&
    [c.spFirst, c.spBytes].all (fun v => decide (v < 2 ^ 32)) && decide (c.shape < 256) && decide (c.parent < 16)

/-- CAST_SET (R363). -/
def CastParams.wf (c : CastParams) : Bool :=
  decide (c.cast < 256) && decide (c.deadline < 2 ^ 16) && decide (c.members.length < 256) && decide (c.uplink.getD 0 < 255) &&
    c.members.all (fun m => decide (m < if c.ethernet then 2 ^ 128 else 256))

/-- A credential (R407): keys of 64 bytes. -/
def Credential.wf (c : Credential) : Bool := decide (c.ownerKey < 2 ^ 512) && decide (c.tenantKey < 2 ^ 512) && decide (c.part < 256)

/-- A gathered shard's message (R211, R212). -/
def ShardMsg.wf (m : ShardMsg) : Bool := decide (m.ctx < 16) && decide (m.cast < 256) && decide (m.member < 64) && decide (m.tensor < 2 ^ 16)

/-- A square row of a reblock (R259). -/
def SquareRow.wf (m : SquareRow) : Bool := decide (m.ctx < 16) && decide (m.newCast < 256) && decide (m.tensor < 2 ^ 16)

/-- A frame (Table 12.1): a VLAN id of 12 bits, a priority of 3, addresses of 128, UDP ports of 16. -/
def FrameInfo.wf (f : FrameInfo) : Bool :=
  decide (f.vid < 4096) && decide (f.prio < 8) && decide (f.src < 2 ^ 128) && decide (f.dst < 2 ^ 128) &&
    (match f.proto with
     | .udp a b => decide (a < 65536) && decide (b < 65536)
     | .solicit a => decide (a < 2 ^ 128)
     | _ => true)

/-- A chain flit (Table 13.1): 256 bytes, at most 244 of them message bytes. -/
def flitWf (raw plain : List Byte) : Bool := decide (raw.length = 256) && decide (plain.length ≤ 244)

/-- A curtain slice (Table 13.4). -/
def CurtSlice.wf (c : CurtSlice) : Bool :=
  decide (c.kind < 256) && decide (c.curtain < 16) && decide (c.part < 4) && decide (c.cast < 256) && decide (c.src < 64) &&
    decide (c.cseq < 65536) && decide (c.cack < 65536)

/-- A curtain message of the Ethernet port (Table 12.7). -/
def CurtMsg.wf (c : CurtMsg) : Bool := decide (c.kind < 256) && decide (c.curtain < 16) && decide (c.part < 4) && decide (c.cast < 256)

/-- A transport packet (Table 12.3). -/
def TransPkt.wf (t : TransPkt) : Bool := decide (t.psn < 2 ^ 32) && decide (t.ackPsn < 2 ^ 32) && decide (t.cls < 8)

/-- The numbers of a command fit their fields. -/
def Instr.wf : Instr → Bool
  | .stnNop _ _ => true
  | .stnAgen _ _ => true
  | .stnTload _ _ => true
  | .stnInject _ _ => true
  | .stnMma _ _ => true
  | .stnCarry _ _ => true
  | .stnDrain _ _ => true
  | .stnSpill _ _ => true
  | .stnFill _ _ => true
  | .reNorm _ _ => true
  | .reRms _ _ => true
  | .reSmax _ _ => true
  | .reNormBwd _ _ => true
  | .reRmsBwd _ _ => true
  | .reSmaxBwd _ _ => true
  | .reRowdot _ _ => true
  | .commandArrival _ => true
  | .commandCompletion _ _ => true
  | .rowInjection _ _ => true
  | .passRowArrival _ _ _ => true
  | .carryBeatArrival _ _ _ => true
  | .rampStep _ => true
  | .rampDownStart _ => true
  | .stnLinkcfgWrite _ _ => true
  | .stnRampcfgWrite _ _ => true
  | .stnCntctlClear _ => true
  | .stnCntctlFreeze _ _ => true
  | .add _ => true
  | .sub _ => true
  | .and _ => true
  | .or _ => true
  | .xor _ => true
  | .sll _ => true
  | .srl _ => true
  | .sra _ => true
  | .slt _ => true
  | .sltu _ => true
  | .mul _ => true
  | .addi _ => true
  | .andi _ => true
  | .ori _ => true
  | .xori _ => true
  | .slli _ => true
  | .srli _ => true
  | .srai _ => true
  | .slti _ => true
  | .lui _ => true
  | .beq _ => true
  | .bne _ => true
  | .blt _ => true
  | .bge _ => true
  | .bltu _ => true
  | .bgeu _ => true
  | .jal _ => true
  | .jr _ => true
  | .loop _ => true
  | .halt _ => true
  | .lb _ => true
  | .lbu _ => true
  | .lh _ => true
  | .lhu _ => true
  | .lw _ => true
  | .sb _ => true
  | .sh _ => true
  | .sw _ => true
  | .vld _ => true
  | .vst _ => true
  | .vldh _ => true
  | .vsth _ => true
  | .vgather _ => true
  | .vscatter _ => true
  | .rget _ => true
  | .rput _ => true
  | .rgetDataArrival _ => true
  | .vadd _ => true
  | .vsub _ => true
  | .vmul _ => true
  | .vfma _ => true
  | .vmax _ => true
  | .vmin _ => true
  | .vabs _ => true
  | .vneg _ => true
  | .vexp _ => true
  | .vrcp _ => true
  | .vrsq _ => true
  | .vcmplt _ => true
  | .vcmple _ => true
  | .vcmpeq _ => true
  | .vsel _ => true
  | .vrsum _ => true
  | .vrmax _ => true
  | .vbcast _ => true
  | .vextr _ => true
  | .viadd _ => true
  | .visub _ => true
  | .vimul _ => true
  | .vishl _ => true
  | .viota _ => true
  | .pand _ => true
  | .por _ => true
  | .pnot _ => true
  | .pset _ => true
  | .pget _ => true
  | .vunpk _ => true
  | .vpack _ => true
  | .vcvti _ => true
  | .vrand _ => true
  | .rdfl _ => true
  | .clrfl _ => true
  | .waitf _ => true
  | .setf _ => true
  | .curt _ => true
  | .nop _ => true
  | .shLoad _ => true
  | .shStart _ => true
  | .shStop _ => true
  | .bayShflagsWrite _ _ => true
  | .flitHop _ _ => true
  | .readRequestArrival _ => true
  | .sliceWriteArrival _ => true
  | .writeAckArrival _ => true
  | .crossingSlotTake _ _ => true
  | .injectionRetry _ => true
  | .bayXslotWrite _ _ _ => true
  | .scrubVisit _ _ => true
  | .forcedScrubPeriod _ _ => true
  | .scrubTimerWake _ => true
  | .correctionWriteBack _ => true
  | .eventRegistration _ => true
  | .rootNumbering _ => true
  | .eventApplication _ => true
  | .crtFlagset _ _ _ => true
  | .crtFlagclr _ _ _ => true
  | .crtCurtcfgWrite _ _ _ => true
  | .cuePacketArrival _ => true
  | .entryFetch _ => true
  | .csNop _ => true
  | .cmd _ => true
  | .batch _ => true
  | .wait _ => true
  | .csSetf _ => true
  | .clrf _ => true
  | .csCurt _ => true
  | .scene _ => true
  | .endPass _ => true
  | .queueSlotGrant _ => true
  | .passStart _ => true
  | .sceneBoundary _ => true
  | .cpRegisterWrite _ off _ => decide (off < 0x10000)
  | .faultReport _ => true
  | .fltClear _ => true
  | .leGather _ => true
  | .shardArrival _ m => m.wf
  | .leReduce _ => true
  | .bucketTransferArrival _ _ h data => h.wf && decide (data.length ≤ 1024 * (if h.level = 0 then 64 else 4))
  | .bucketDeadline _ _ _ => true
  | .partLanding _ _ => true
  | .sampledChunkCompare _ _ _ => true
  | .recomp _ _ => true
  | .bucketConfirmed _ _ => true
  | .wingApplyPart _ _ _ => true
  | .leStep _ => true
  | .stepCurtainArrival _ => true
  | .stepVerdict _ => true
  | .reblock h plan => h.wf && plan.all ReblockEntry.wf
  | .reblockTransferArrival _ m => m.wf
  | .reblockComplete _ => true
  | .seAgen _ _ => true
  | .seRead _ _ => true
  | .seWrite _ _ => true
  | .seGather _ _ => true
  | .seScatter _ _ => true
  | .transferIssue _ _ => true
  | .streamTransferComplete _ _ => true
  | .memoryRequestArrival _ _ => true
  | .readBlockDelivery _ _ fails _ => decide (fails ≤ 8)
  | .writeCommit _ w => decide (w.parityFails ≤ 8)
  | .patrolVisit _ => true
  | .hbmTraining _ _ => true
  | .ddrTraining gib _ _ _ => decide (gib.length ≤ 8)
  | .zeroFill => true
  | .ddrKeyInstall => true
  | .droopStretch _ _ => true
  | .frequencyMove _ => true
  | .adaptiveWindow _ => true
  | .adaptiveDrop _ => true
  | .clkCapWrite _ _ => true
  | .bayClkcfgWrite _ _ => true
  | .throttleStart _ => true
  | .throttleEnd _ => true
  | .referenceLoss => true
  | .referenceOk => true
  | .eventCrossing _ => true
  | .wakeRequest _ => true
  | .autostop _ => true
  | .clkHtLoRead => true
  | .bayCycLoRead _ => true
  | .frameReceive f => f.wf
  | .transportPacket t => t.wf
  | .ackTimer _ => true
  | .retransmitTimer _ psn => decide (psn < 2 ^ 32)
  | .egressFrame => true
  | .pfcFrame _ _ => true
  | .ethLinkDown => true
  | .ethLinkTrained _ => true
  | .syncMessage _ => true
  | .discover h => h.wf
  | .attest h nonce _ => h.wf && decide (nonce < 2 ^ 256)
  | .sessionOpen h role encap nonce cred => h.wf && decide (role < 256) && decide (encap < 2 ^ 12544) && decide (nonce < 2 ^ 256) && cred.wf
  | .sessionClose h => h.wf
  | .sessionIdleTimeout _ => true
  | .regRead h addr count => h.wf && decide (addr < 2 ^ 32) && decide (count < 2 ^ 16)
  | .regWrite h addr count values => h.wf && decide (addr < 2 ^ 32) && decide (count < 2 ^ 16) && decide (values.length ≤ count)
  | .registerAccessTimeout h _ addr values => h.wf && decide (addr < 2 ^ 32) && decide (values.length < 2048)
  | .memRead h addr count => h.wf && decide (addr < 2 ^ 48) && decide (count < 256)
  | .memWrite h addr count data => h.wf && decide (addr < 2 ^ 48) && decide (count < 256) && decide (data.length ≤ 256 * count)
  | .loadBook h addr length => h.wf && decide (addr < 2 ^ 64) && decide (length < 2 ^ 64)
  | .patch h entries => h.wf && entries.all PatchEntry.wf
  | .ctxCreate h c => h.wf && c.wf
  | .ctxDestroy h => h.wf
  | .start h => h.wf
  | .stop h timeout => h.wf && decide (timeout < 2 ^ 32)
  | .stopTimeout _ _ => true
  | .doorbell h _ => h.wf
  | .health h => h.wf
  | .logRead h first max => h.wf && decide (first < 2 ^ 64) && decide (max < 256)
  | .fwStage h offset _ => h.wf && decide (offset < 2 ^ 32)
  | .fwCommit h length => h.wf && decide (length < 2 ^ 32)
  | .castSet h c => h.wf && c.wf
  | .clusterArrive m => m.wf
  | .clusterRelease m => m.wf
  | .ethCfgWrite _ => true
  | .chainFlitReceive _ f => flitWf f.raw f.plain
  | .flitNak _ seq => decide (seq < 4096)
  | .chainLinkDown _ => true
  | .chainLinkTrained _ => true
  | .chainLinkLost _ => true
  | .linkLost _ b => decide (b < 64)
  | .chainArrive _ c => c.wf
  | .chainRelease _ c => c.wf
  | .curtainAck _ c => c.wf
  | .curtainSliceResend _ cseq => decide (cseq < 65536)
  | .timeExchangeTimer _ => true
  | .timeMsg _ c => c.wf
  | .timeReply _ c => c.wf
  | .enumStart => true
  | .enum _ a _ => decide (a < 64)
  | .enumEnd count => decide (1 ≤ count ∧ count ≤ 64)
  | .enumDone count _ => decide (1 ≤ count ∧ count ≤ 64)
  | .enumFail _ => true
  | .enumTimeout => true
  | .chnCfgWrite _ _ => true
  | .sensorSample _ _ _ => true
  | .thermalCapAdjust _ => true
  | .riskScoreUpdate => true
  | .riskDecay => true
  | .heartbeat => true
  | .watchdogExpiry => true
  | .yemirBoot _ _ => true
  | .mbxPush _ _ => true
  | .mbxDoorbell _ => true
  | .mbxPop _ => true
  | .mailboxRetry _ => true
  | .i3cPrivateWrite index _ => decide (index < 256)
  | .i3cPrivateRead _ => true
  | .dynamicAddressAssignment _ _ => true
  | .enrol => true
  | .clearOwner => true
  | .ymrPolicyWrite _ => true
  | .ymrCapWrite _ => true
  | .resetCtx h => h.wf
  | .resetEngine h cls bay index => h.wf && decide (cls < 8) && decide (bay < 64) && decide (index < 4)
  | .resetPart h => h.wf
  | .resetChip h => h.wf
  | .resetChipFull h => h.wf
  | .fenceDrainEnd => true
  | .l0WaitTimeout _ _ => true
  | .resetTimeout => true
  | .selfTest failed => failed.all (fun f => decide (f.1 < 48))
  | .fltIsolateWrite _ => true
  | .fltResvWrite _ => true
  | .intermission h _ timeout => h.wf && decide (timeout < 2 ^ 32)
  | .intermissionTimeout _ => true
  | .intermissionStop => true
  | .stateCopyDone => true
  | .replicationDone => true
  | .replicationAbandon => true
  | .seedHandover _ => true
  | .restore h _ => h.wf
  | .trayPwrEnRise => true
  | .trayPwrEnFall => true
  | .trayResetN => true
  | .moduleReady => true
  | .sagStart _ => true
  | .sagEnd _ => true
  | .brownOut _ => true
  | .overvoltage _ => true
  | .thermalTrip _ => true
  | .registerWrite addr _ => decide (addr < 2 ^ 24)
  | .yemirRailFailure => true
  | .bootReadyTimeout => true
  | .hostCopyDone => true

end Sys2Proof
end

