-- ==== Sys2Proof/Tests/Slice0.lean ====
section
/-!
SUPPORT. Tests/Slice0.lean: well-formedness smoke tests, and for each statement a state and operands that meet its
hypotheses.
-/
namespace Sys2Proof.Machine

/-- The die on and ready, one partition over the whole die, nothing else. -/
def Tests.up : State :=
  { State.reset with power := .ready, shape := 1, ymr := { Yemir.reset with dieOn := true, st := 2 },
                     pins := { State.reset.pins with pwrEn := true, modPgood := true } }

/-- Word 0 of a command: opcode and words that follow. -/
def Tests.word0 (op n : Nat) : Word := BitVec.ofNat 32 (op % 64 * 2 ^ 26 + n * 2 ^ 23)
def Tests.qcmd (op : Nat) : QCmd :=
  { words := [Tests.word0 op 0], part := 0, ctx := 0, bookoff := 64, waitSeen := false }
def Tests.queued (b q op : Nat) : State := Tests.up.setBay b ((Bay.reset).setQueue q [Tests.qcmd op])
def Tests.arrived (cls index : Nat) (ws : List Word) : State :=
  { Tests.up with cueArrived := [.command cls 0 index (if cls = 3 then 1 else 0) ws 0 0 0 0] }
def Tests.startedOf (ws : List Word) (left : Nat) : Started :=
  { id := 7, queue := 0, words := ws, part := 0, ctx := 0, bookoff := 64, startCyc := 0, earliest := 0, left := left, done := 0,
    slots := [], set := [], noFlag := false, nextTag := 0 }
/-- A done command on both arrays, with a SET flag. -/
def Tests.startedCmd (op : Nat) : Started := Tests.startedOf [Tests.word0 op 0 ||| 0x0000003A] 0
def Tests.startedOne (b op : Nat) : State := Tests.up.setBay b { Bay.reset with started := [Tests.startedCmd op] }
def Tests.ramping (k : Nat) (rising : Bool) : State :=
  Tests.up.setBay 0 ({ Bay.reset with clk := { BayClk.reset with cyc := 1000 } }.setRamp 0
    { Ramp.down with step := k, rising := rising })
def Tests.beat (kind : BitVec 2) : Beat :=
  { data := 0, scales := 0, remain := 1, row := 5, bank := false, phase := false, kind := kind, beat := 0, ctx := 0 }
def Tests.beats (st : Nat) (through : Bool) (r : Beat) : State :=
  (Tests.up.setBay (bayOfStation st) { Bay.reset with passThrough := through }).setRevQ st .cw 0 [r]
/-- An STN_MMA on array A, CW, FMT 0, ZERO. -/
def Tests.mmaCmd : Started := Tests.startedOf [Tests.word0 0x05 3 ||| 0x08, 0, 0, 0x00280004] 4
def Tests.mma : State :=
  (Tests.up.setBay 0 ({ Bay.reset with passThrough := false, started := [Tests.mmaCmd] }.setRamp 0
    { Ramp.down with step := 8, rising := true, credit := 1 })).setRevQ 0 .cw 0 [Tests.beat 0]
/-- An STN_INJECT of one BF16 row, CW, its slot at bay offset 0. -/
def Tests.injectCmd : Started :=
  { Tests.startedOf [Tests.word0 0x04 4, 0, 0, 0x00840000, 1] 1 with slots := [{ AgSlot.init with counts := [2, 1, 1, 1, 1, 1] }, AgSlot.init] }
def Tests.inject : State :=
  (Tests.up.setBay 0 { Bay.reset with passThrough := false, started := [Tests.injectCmd] }).setCtx 0 0
    { Context.free with st := 4, spBytes := 0x1000 }

/-- Stagehand 0 running context 0 of partition 0 with one word at pc 0; s1 holds 2; the context's quota is the bay. -/
def Tests.hand0 (w : Word) : Stagehand :=
  { Stagehand.idle with running := true, istore := if w = 0 then [] else [(0, w)], s := [(1, 2)] }
def Tests.hand (w : Word) : State :=
  (Tests.up.setHand 0 (Tests.hand0 w)).setCtx 0 0 { Context.free with st := 4, spBytes := 0x1000000 }
def Tests.handLoop (w : Word) (last left : Nat) : State :=
  Tests.up.setHand 0 { Tests.hand0 w with loop := some { first := 0, last := last, left := left } }
def Tests.handPc (pc : Nat) : State := Tests.up.setHand 0 { Tests.hand0 0 with pc := pc }
/-- As Tests.hand, with INT32 lane i of v1 holding i. -/
def Tests.handVec (w : Word) : State :=
  (Tests.up.setHand 0 { Tests.hand0 w with v := [(1, vec32 ((List.range 16).map (BitVec.ofNat 32)))] }).setCtx 0 0
    { Context.free with st := 4, spBytes := 0x1000000 }

/-- A read request of stagehand 0 for the slice of stagehand 8, at router 0. -/
def Tests.flit1 : Flit :=
  { dest := 8 * 512, src := 0, part := 0, ctx := 0, kind := 1, tag := 0, data := [], at_ := 0, loc := .router, cycle := 0,
    addr := 0, poison := false }
def Tests.flitOn (f : Flit) : State := { Tests.up with flits := [f] }
/-- Stagehand 0 with an RGET of the slice of stagehand 8, whose address s1 holds. -/
def Tests.handFar : State :=
  (Tests.up.setHand 0 { Tests.hand0 0x3E002000 with s := [(1, 0x100000)] }).setCtx 0 0
    { Context.free with st := 4, spBytes := 0x1000000 }
/-- Eight requests on the way from router 0 into the same crossing queue. -/
def Tests.eight : List Flit := List.replicate 8 Tests.flit1
def Tests.crt (x : CurtNet) : State := { Tests.up with crt := x }
def Tests.pend (ev : CrtEvent) : CrtPend := { ev := ev, node := 3, time := 0, cp := none }
/-- A call-sheet entry of a kind, ARG 0, contract 1; and a CMD or BATCH to the station of physical bay 0. -/
def Tests.entry (kind : Nat) : CsEntry := { index := 0, addr := 0, bytes := [BitVec.ofNat 8 kind, 1] }
def Tests.entryCmd (kind arg : Nat) : CsEntry :=
  { index := 0, addr := 0, bytes := [BitVec.ofNat 8 kind, 1, 0, 0x80, 0, 0, 0, 0, BitVec.ofNat 8 arg] }
/-- Context 0 running in partition 0, with a ring of 64 entries at HBM 0, its cue processor 0 inside a pass. -/
def Tests.cue (l : List CsEntry) : State :=
  (((Tests.up.setPart 0 { Partition.empty with cur := some 0 }).setCtx 0 0
    { Context.free with st := 4, hbmSize := 0x100000 }).setCp 0 { CueProc.idle with fetched := l, inPass := true }).setReg
      (aCp 0 0x100C) 64
/-- Every HBM stack trained. -/
def Tests.trained (s : State) : State :=
  { s with ctls := (List.range 12).map (fun n => (n, { MemCtl.idle with st := 2 })) }
/-- A command of context 0 at the head of queue k of the link engines of partition 0. -/
def Tests.linked (k : Nat) (ws : List Word) : State :=
  Tests.up.setLink 0 (LinkEng.idle.setQueue k [{ words := ws, part := 0, ctx := 0, bookoff := 64, waitSeen := false }])
def Tests.bhdr : BucketHdr :=
  { tag := 5, cast := 2, nf := false, recomp := false, check := false, level := 0, step := 0, epoch := 0, scale := 0,
    ncontrib := 1, contrib := 1, count := 0, chunk := 0 }
def Tests.book : Book :=
  { measure := [], lstations := 1, nscene := 0, placed := [], relocs := [], patches := [], bound := [], shardRec := 0,
    xrec := some 0, tensors := some 0x2000, ntensors := 1, plan := [] }
/-- Context 0 of partition 0 with its exchange record at HBM 0, whose landing ring has n bytes from 0x10000 up, one tensor,
and one optimizer descriptor with 32,768 elements here. -/
def Tests.exrec (n : Nat) : State :=
  State.putBytes (State.putBytes (State.putBytes (State.putBytes (State.putBytes (State.setCtx { Tests.up with chain := { Chain.reset with addr := some 0, count := 1 } } 0 0
    { Context.free with st := 4, hbmSize := 0x100000, spBytes := 0x100000, book := some Tests.book }) 0x30 (toLE 8 0x10000)) 0x38 (toLE 8 n))
    0x1C [1]) 0x20 (toLE 8 0x3000)) 0x3024 (toLE 4 32768)
/-- A request of 2,000 bytes of payload under owner session 1, for context 0 of partition 0. -/
def Tests.hdr : PcpHdr :=
  { magic := 0x5043, version := 1, reply := false, enc := true, opcode := 0, chain := 0xFF, context := 0, partition := 0,
    session := 1, sequence := 1, length := 2000, avail := 2000, tagOk := true, peer := 7, dst := linkLocal 0, via := none,
    packet := [], body := [] }
/-- One whose bytes are written out. -/
def Tests.small : PcpHdr := { Tests.hdr with length := 8, avail := 8, packet := List.replicate 56 0 }
def Tests.hdrOf (op : Byte) : PcpHdr := { Tests.hdr with opcode := op }
def Tests.sess : Session :=
  { id := 1, role := 0, peer := 7, lastSeq := none, lastTime := 0, tenantGen := 0, key := 0, open_ := 0 }
def Tests.asked : State := { Tests.up with ymr := { Tests.up.ymr with sessions := [Tests.sess] } }
def Tests.reEntry : ReblockEntry :=
  { tensor := 0, oldCast := 0, newCast := 0, oldShards := 1, newShards := 1, desc := false, moveState := false, moveWc := false,
    newWcBase := 0, newStateBase := 0, newHalfStride := 0 }
/-- A started stream command of one transfer of one block between HBM 0 and bay offset 0. -/
def Tests.seCmd (op : Nat) : Started :=
  { Tests.startedOf [Tests.word0 op 4, 0, 0, 0, 0] 1 with queue := 5, slots := [AgSlot.init, AgSlot.init, AgSlot.init] }
def Tests.seState (c : Started) : State :=
  Tests.trained ((Tests.up.setBay 0 { Bay.reset with started := [c] }).setCtx 0 0
    { Context.free with st := 4, hbmSize := 0x100000, spBytes := 0x100000 })
/-- Bay 0 with a clock and a BAY_CLKCFG, 2 ms after reset. -/
def Tests.clocked (c : BayClk) (cfg : Word) : State :=
  (({ Tests.up with clock := { Tests.up.clock with house := 2000000 } } : State).setBay 0 { Bay.reset with clk := c }).setReg (aBay 0 0x4000) cfg

/-! Well-formedness: a command that fits, and for each check one that it refuses. -/

theorem test_wf_good : (Instr.regRead Tests.small 0x1000 4).wf = true ∧ (Instr.enum .w 63 false).wf = true ∧ Instr.heartbeat.wf = true := by decide
theorem test_wf_header : (Instr.health { Tests.small with length := 2 ^ 16 }).wf = false ∧ (Instr.health { Tests.small with packet := [] }).wf = false ∧ (Instr.start { Tests.small with peer := 2 ^ 128 }).wf = false := by decide
theorem test_wf_bucket : (Instr.bucketTransferArrival 0 0 { Tests.bhdr with level := 3 } []).wf = false ∧
    (Instr.bucketTransferArrival 0 0 { Tests.bhdr with count := 2 ^ 32 } []).wf = false ∧ (Instr.bucketTransferArrival 0 0 { Tests.bhdr with ncontrib := 8193 } []).wf = false := by decide
theorem test_wf_reblock : (Instr.reblock Tests.small [{ Tests.reEntry with newWcBase := 2 ^ 48 }]).wf = false := by decide
theorem test_wf_patch : (Instr.patch Tests.small [{ kind := 256, symbol := 0, value := 0 }]).wf = false := by decide
theorem test_wf_ctx : (Instr.ctxCreate Tests.small { shape := 1, dress := false, parent := 16, hbmBase := 0, hbmSize := 0, ddrBase := 0, ddrSize := 0, spFirst := 0, spBytes := 0, key := 0 }).wf = false := by decide
theorem test_wf_cast : (Instr.castSet Tests.small { cast := 256, ethernet := false, carry := false, deadline := 0, bind := 0, epoch := 0, uplink := none, members := [] }).wf = false := by decide
theorem test_wf_credential : ({ oid := 0, ownerKey := 0, tenantKey := 0, part := 256, tenantGen := 0, ownerSig := [], requestSig := [] } : Credential).wf = false := by simp [Credential.wf]
theorem test_wf_shard : (Instr.shardArrival 0 { ctx := 16, cast := 0, member := 0, tensor := 0, stamp := 0, epoch := 0, data := [], scales := [] }).wf = false := by decide
theorem test_wf_squareRow : ({ ctx := 0, newCast := 256, epoch := 0, tensor := 0, squareRow := 0, stamp := 0, wcData := [], wcScales := [], stateHigh := [], stateLow := [], stateM := [], stateV := [] } : SquareRow).wf = false := by decide
theorem test_wf_frame : (Instr.frameReceive { forUs := true, vid := 0, prio := 8, ipVersion := 6, ipBytes := 0, fragment := false, src := 0, dst := 0, checksumOk := true, proto := .other, bytes := [] }).wf = false := by decide
theorem test_wf_flit (raw plain : List Byte) (h : raw.length = 255 ∨ plain.length = 245) : (flitWf raw plain) = false := by
  rcases h with h | h <;> simp [flitWf, h]
theorem test_wf_slice (c : CurtSlice) (h : c.curtain = 16) : (Instr.chainArrive .w c).wf = false := by simp [Instr.wf, CurtSlice.wf, h]
theorem test_wf_message (m : CurtMsg) (h : m.part = 4) : (Instr.clusterArrive m).wf = false := by simp [Instr.wf, CurtMsg.wf, h]
theorem test_wf_packet (t : TransPkt) (h : t.psn = 2 ^ 32) : (Instr.transportPacket t).wf = false := by simp [Instr.wf, TransPkt.wf, h]
theorem test_wf_numbers : (Instr.registerWrite (2 ^ 24) 0).wf = false ∧ (Instr.cpRegisterWrite 0 0x10000 0).wf = false ∧
    (Instr.enum .w 64 false).wf = false ∧ (Instr.enumEnd 0).wf = false ∧ (Instr.flitNak .w 4096).wf = false ∧
    (Instr.i3cPrivateWrite 256 []).wf = false ∧ (Instr.linkLost .e 64).wf = false ∧ (Instr.selfTest [(48, 0)]).wf = false ∧
    (Instr.stop Tests.small (2 ^ 32)).wf = false ∧ (Instr.fwCommit Tests.small (2 ^ 32)).wf = false ∧
    (Instr.resetEngine Tests.small 8 0 0).wf = false ∧ (Instr.memRead Tests.small 0 256).wf = false := by decide

/-! The worked examples of the spec. -/

/-- The part of the example under R7: bays 15, 32, 38 and 43 are fused off. -/
def Tests.gradeW : State := { Tests.up with fuse := { Tests.up.fuse with bayMask := 0xF7BEFFFF7FFF } }

/-- R7: GBL_BAYMASK_LO, GBL_BAYMASK_HI and 44 stations. -/
theorem test_fused_grade : (Tests.gradeW.readReg 0x0008).2 = 0xFFFF7FFF ∧ (Tests.gradeW.readReg 0x000C).2 = 0x0000F7BE ∧
    fld (Tests.gradeW.readReg 0x0004).2 15 8 = 0x2C := by decide +kernel

/-- R61: these bays are stations 20, 30, 43 and 38; 22 stations are left in each half, 11, 12, 11 and 10 in the fields. -/
theorem test_fused_stations : ([15, 32, 38, 43].map stationOfBay = [20, 30, 43, 38]) ∧
    ([0, 1].map (fun p => ((loopStations 2 p).filter (fun t => Tests.gradeW.bayActive (bayOfStation t))).length) = [22, 22]) ∧
    ([0, 1, 2, 3].map (fun p => ((loopStations 4 p).filter (fun t => Tests.gradeW.bayActive (bayOfStation t))).length) = [11, 12, 11, 10]) := by
  decide +kernel

/-- R107: a block with 470 and 0.01 takes scale code 128; 470 becomes 240 and 0.01 becomes 3 steps of the subnormals. -/
theorem test_block_scale : narrowBlock (.fp fmtE4M3) (fun _ => .rne) [.fin false 470 0, .fin false 671089 (-26)] =
    (128, [0x77, 0x03], flagUnf ||| flagInx) := by decide +kernel

/-- R110, R111: split-24 holds 3 + 2^-10 as 3 and 16; an update of -2^-12 leaves 3 and 12. -/
theorem test_split24 : writeSplit24 .rne (.fin false 3073 (-10)) = (0x4040, 16, 0) ∧
    writeSplit24 .rne (addNum (readSplit24 0x4040 16).1 (.fin true 1 (-12))).1 = (0x4040, 12, 0) := by decide +kernel

/-- R128: 1 + 3 × 2^-9 rounds up to 1 + 2^-7 when the draw is below 3,072, else down to 1. -/
theorem test_stochastic_rounding : (fmtBF16.narrow false (.sr 3071) (.fin false 515 (-9))).1 = 0x3F81 ∧
    (fmtBF16.narrow false (.sr 3072) (.fin false 515 (-9))).1 = 0x3F80 := by decide +kernel

/-- R393: 600 corrected errors in ten minutes give CE = 24. -/
theorem test_risk_ce : logTerm 96 64 600 = 24 := by decide +kernel

/-- R394: at the minute mark E falls from 112 to 98, and from 128 to 112. -/
theorem test_risk_decay : ∀ x ∈ [(112, 98), (128, 112)], ∃ t, exec .riskDecay
    { Tests.up with ymr := { Tests.up.ymr with riskE := x.1 }, clock := { Tests.up.clock with house := 60000000000 } } = .next t ∧
    t.ymr.riskE = x.2 := by
  intro x h
  simp only [List.mem_cons, List.mem_nil_iff, or_false] at h
  rcases h with rfl | rfl <;> exact ⟨_, rfl, rfl⟩

-- IdleStepIsOneNanosecond
theorem wit_idleStep : let s : State := Tests.up
    s.pending = [] ∧ s.power ≠ .off ∧ s.ymr.dieOn = true ∧ s.clock.frac = 0 ∧ s.clock.trim = 0 ∧ QuietLine s :=
  ⟨by decide, by decide, by decide, by decide, by decide, ⟨by decide, fun e d => by cases e <;> cases d <;> rfl⟩⟩

-- MemoryKeepsItsForm
theorem wit_stepKeeps : (∃ t, Machine.step Tests.up = .next t) ∧ Memory.wf Tests.up.mem = true := ⟨⟨_, rfl⟩, by decide⟩

-- StationCommandStarts
theorem wit_stationStart : HeadReady (Tests.queued 0 0 0x01) 0 0 0x01 (Tests.qcmd 0x01) [] ∧
    ((Tests.queued 0 0 0x01).bay 0).conditionOk (Tests.qcmd 0x01).words = true :=
  ⟨⟨by decide, by decide, by decide, by decide, by decide, by decide, by decide⟩, by decide⟩

/-- R97: two tile loads of array A, ready in one cycle, need one feeder: queue 0 goes first. -/
theorem test_lowerQueueFirst :
    let c : QCmd := { words := [Tests.word0 0x03 3 ||| 0x08, 0, 0, 0], part := 0, ctx := 0, bookoff := 0, waitSeen := false }
    let y := ((Bay.reset).setQueue 0 [c]).setQueue 1 [c]
    y.goesFirst 0 = true ∧ y.goesFirst 1 = false ∧
      (((Bay.reset).setQueue 0 [c]).setQueue 1 [{ c with readyAt := some 0 }]).goesFirst 1 = false := by decide

/-- R97: of two that contend, the one ready in the earlier cycle goes first. -/
theorem test_earlierReadyFirst :
    let c : QCmd := { words := [Tests.word0 0x03 3 ||| 0x08, 0, 0, 0], part := 0, ctx := 0, bookoff := 0, waitSeen := false }
    let y := (({ Bay.reset with clk := { BayClk.reset with cyc := 9 } }).setQueue 0 [c]).setQueue 1 [{ c with readyAt := some 5 }]
    y.goesFirst 0 = false ∧ y.goesFirst 1 = true := by decide

-- DispatcherCommandStarts
theorem wit_dispLoad : HeadReady (Tests.queued 0 4 0x20) 0 4 0x20 (Tests.qcmd 0x20) [] ∧
    (Tests.queued 0 4 0x20).allHalted (dispSet 0 (Tests.qcmd 0x20).words) = true :=
  ⟨⟨by decide, by decide, by decide, by decide, by decide, by decide, by decide⟩, by decide⟩

theorem wit_dispStart : HeadReady (Tests.queued 0 4 0x21) 0 4 0x21 (Tests.qcmd 0x21) [] ∧
    (Tests.queued 0 4 0x21).allHalted (dispSet 0 (Tests.qcmd 0x21).words) = true ∧
    ((Tests.queued 0 4 0x21).bay 0).clk.frameStart = true :=
  ⟨⟨by decide, by decide, by decide, by decide, by decide, by decide, by decide⟩, by decide, by decide⟩

theorem wit_dispStop : HeadReady (Tests.queued 0 4 0x22) 0 4 0x22 (Tests.qcmd 0x22) [] :=
  ⟨by decide, by decide, by decide, by decide, by decide, by decide, by decide⟩

-- StreamCommandStarts
theorem wit_streamStart : HeadReady (Tests.queued 0 5 0x41) 0 (5 + (0 : Fin 4)) 0x41 (Tests.qcmd 0x41) [] ∧
    seReady 0 0 (Tests.qcmd 0x41) (Tests.queued 0 5 0x41) = true :=
  ⟨⟨by decide, by decide, by decide, by decide, by decide, by decide, by decide⟩, by decide⟩

theorem wit_streamAgen : HeadReady (Tests.queued 0 8 0x40) 0 (5 + (3 : Fin 4)) 0x40 (Tests.qcmd 0x40) [] :=
  ⟨by decide, by decide, by decide, by decide, by decide, by decide, by decide⟩

-- AgenWritesHalfASlot
theorem wit_agen : HeadReady (Tests.queued 0 1 0x02) 0 1 0x02 (Tests.qcmd 0x02) [] :=
  ⟨by decide, by decide, by decide, by decide, by decide, by decide, by decide⟩

-- StartSetsStagehandRegisters
theorem wit_startSets : let ws : List Word := [Tests.word0 0x21 5, 0, 0, 7, 0x00010100, 9]
    let c : QCmd := { words := ws, part := 0, ctx := 0, bookoff := 64, waitSeen := false }
    let s := Tests.up.setBay 0 ((Bay.reset).setQueue 4 [c])
    HeadReady s 0 4 0x21 c [] ∧ s.allHalted (dispSet 0 ws) = true ∧ (s.bay 0).clk.frameStart = true ∧ dispSet 0 ws = [0] :=
  ⟨⟨by decide, by decide, by decide, by decide, by decide, by decide, by decide⟩, by decide +kernel, by decide, by decide +kernel⟩

-- CommandPacketEntersItsQueue
theorem wit_arrival : let s := Tests.arrived 0 0 [Tests.word0 0x01 1, 0]
    s.cueArrived[0]? = some (.command 0 0 0 0 [Tests.word0 0x01 1, 0] 0 0 0 0) ∧ (s.bay 0).clk.stopped = false ∧ s.resets = [] ∧
    (s.ctx 0 0).st ≠ 6 ∧ s.issueCheck 0 0 0 0 [Tests.word0 0x01 1, 0] 0 0 = none := by decide

theorem wit_arrivalLink : let ws := [Tests.word0 0x32 1, 0]
    let s := Tests.arrived 3 1 ws
    s.cueArrived[0]? = some (.command 3 0 1 1 ws 0 0 0 0) ∧ s.resets = [] ∧ (s.ctx 0 0).st ≠ 6 ∧
    s.issueCheck 3 0 1 1 ws 0 0 = none := by decide

theorem wit_arrivalFault : let s := Tests.arrived 0 0 [0, 0]
    s.cueArrived[0]? = some (.command 0 0 0 0 [0, 0] 0 0 0 0) ∧ (s.bay 0).clk.stopped = false ∧ s.resets = [] ∧
    (s.ctx 0 0).st ≠ 6 ∧ s.issueCheck 0 0 0 0 [0, 0] 0 0 = some fltOpcode := by decide

-- CompletionFreesAndSetsItsFlag
theorem wit_completion : let s := Tests.startedOne 0 0x03
    (s.bay 0).started.find? (fun x => decide (x.id = 7)) = some (Tests.startedCmd 0x03) ∧
    s.completes 0 (Tests.startedCmd 0x03) = true ∧ (s.bay 0).clk.stopped = false ∧ s.resets = [] ∧ (s.ctx 0 0).st ≠ 6 ∧
    0 ∈ arraysOf (Tests.startedCmd 0x03).head.arrays := by decide

-- StationRegisterWrites
theorem wit_stationRegs : Tests.up.ymr.dieOn = true ∧ linkcfgOk (stationOfBay 5) 0x0400 = true ∧
    (Tests.up.bay 5).running = false ∧ linkcfgOk (stationOfBay 6) 0x0400 = false ∧ fld (3 : Word) 1 0 = 3 ∧ fld (2 : Word) 1 0 ≠ 3 := by
  decide

-- RampTakesItsSteps
theorem wit_rampStep : let s := Tests.ramping 3 true
    let y := s.bay (bayOfStation (0 / 2))
    let r := y.ramp (0 % 2)
    r.step ≠ 0 ∧ r.since + rampStepCycles r.code ≤ y.clk.cyc ∧ ¬ (r.rising = true ∧ r.step = 8) ∧ r.rising = true ∧
    y.released 0 = false ∧ ∀ c ∈ y.inProgress 0, c.left ≤ rampRows r.code := by
  decide

theorem wit_rampStepDown : let s := Tests.ramping 1 false
    let y := s.bay (bayOfStation (0 / 2))
    let r := y.ramp (0 % 2)
    r.step = 1 ∧ r.rising = false ∧ r.since + rampStepCycles r.code ≤ y.clk.cyc ∧ (y.inProgress 0).isEmpty = true := by
  decide

-- PassThroughForwardsUnchanged
theorem wit_passesOn : let s := Tests.beats 0 true (Tests.beat 0)
    s.participating (bayOfStation 0) = false ∧ s.room 0 .cw 1 = true ∧ (Tests.beat 0).kind = 0 ∧
    Fronts s 0 .cw (Tests.beat 0) [] :=
  ⟨by decide +kernel, by decide +kernel, by decide +kernel, ⟨by decide +kernel, by decide +kernel, by decide +kernel⟩⟩

theorem wit_passesOnCarry : let s := (Tests.beats 0 true (Tests.beat 0)).setBay 0 { Bay.reset with tapCw := some (Tests.beat 1) }
    s.participating (bayOfStation 0) = false ∧ s.room 0 .cw 1 = true ∧ (Tests.beat 1).kind = 1 ∧
    (s.bay (bayOfStation 0)).clk.stopped = false ∧ (s.bay (bayOfStation 0)).tap .cw = some (Tests.beat 1) := by decide +kernel

-- StationMultipliesTheRow
theorem wit_multiplies : let s := Tests.mma
    s.participating (bayOfStation 0) = true ∧ Fronts s 0 .cw (Tests.beat 0) [] ∧
    (s.bay (bayOfStation 0)).tap .ccw = none ∧ (Tests.beat 0).kind = 0 ∧ (Tests.beat 0).remain = 1 ∧
    (s.bay (bayOfStation 0)).started.filter (fun x => x.mmaMatches (Tests.beat 0) .cw) = [Tests.mmaCmd] ∧
    arraysOf Tests.mmaCmd.head.arrays = [0] ∧ (s.bay (bayOfStation 0)).admits 0 = true ∧
    (s.bay (bayOfStation 0)).started.filter (fun x => x.mmaMatches (Tests.beat 0) .cw && x.onArray 0) = [Tests.mmaCmd] :=
  ⟨by decide +kernel, ⟨by decide +kernel, by decide +kernel, by decide +kernel⟩, by decide +kernel, by decide +kernel,
   by decide +kernel, by decide +kernel, by decide +kernel, by decide +kernel, by decide +kernel⟩

-- CarryBeatsGatherAndRowsAreSent
theorem wit_gather : let s := Tests.beats 0 false (Tests.beat 1)
    s.participating (bayOfStation 0) = true ∧ Fronts s 0 .cw (Tests.beat 1) [] ∧ (Tests.beat 1).kind = 1 ∧
    (sameRow (Tests.beat 1) ((s.bay (bayOfStation 0)).carryIn .cw ++ [Tests.beat 1])).map (fun x => x.beat.toNat) ≠ [0, 1, 2, 3] :=
  ⟨by decide +kernel, ⟨by decide +kernel, by decide +kernel, by decide +kernel⟩, by decide +kernel, by decide +kernel⟩

theorem wit_injection : InjectReady Tests.inject 0 .cw Tests.injectCmd :=
  ⟨by decide +kernel, by decide +kernel, by decide +kernel, by decide +kernel, by decide +kernel,
   ⟨0, ⟨by decide +kernel, by decide +kernel, by decide +kernel, fun _ _ => rfl⟩⟩, .inl (by decide +kernel)⟩

-- ScalarResultGoesToD
theorem wit_scalar : Issues (Tests.hand 0x01183200) 0 0x01 (shFields 0x01183200) :=
  ⟨by decide, by decide, by decide, by decide, by decide, by decide, by decide, by decide⟩

theorem wit_scalarZero : Issues (Tests.hand 0x18000001) 0 0x18 (shFields 0x18000001) ∧ (shFields 0x18000001).d = 0 :=
  ⟨⟨by decide, by decide, by decide, by decide, by decide, by decide, by decide, by decide⟩, by decide⟩

-- BranchesAndJumps
theorem wit_branch : Issues (Tests.hand 0x20000005) 0 0x20 (shFields 0x20000005) :=
  ⟨by decide, by decide, by decide, by decide, by decide, by decide, by decide, by decide⟩

theorem wit_jumps : Issues (Tests.hand 0x26080004) 0 0x26 (shFields 0x26080004) ∧ Issues (Tests.hand 0x27080004) 0 0x27 (shFields 0x27080004) ∧
    Issues (Tests.hand 0x28004003) 0 0x28 (shFields 0x28004003) ∧ ((Tests.hand 0x28004003).issuer 0).getS 1 ≠ 0 ∧
    Issues (Tests.hand 0x28000003) 0 0x28 (shFields 0x28000003) ∧ Issues (Tests.hand 0x2F000000) 0 0x2F (shFields 0x2F000000) :=
  ⟨⟨by decide, by decide, by decide, by decide, by decide, by decide, by decide, by decide⟩,
   ⟨by decide, by decide, by decide, by decide, by decide, by decide, by decide, by decide⟩,
   ⟨by decide, by decide, by decide, by decide, by decide, by decide, by decide, by decide⟩, by decide,
   ⟨by decide, by decide, by decide, by decide, by decide, by decide, by decide, by decide⟩,
   ⟨by decide, by decide, by decide, by decide, by decide, by decide, by decide, by decide⟩⟩

-- NopMovesOnAndLoopsRepeat
theorem wit_nop : Issues (Tests.hand 0x7B000000) 0 0x7B (shFields 0x7B000000) ∧ ((Tests.hand 0x7B000000).hand 0).loop = none ∧
    Issues (Tests.hand 0x71004000) 0 0x71 (shFields 0x71004000) :=
  ⟨⟨by decide, by decide, by decide, by decide, by decide, by decide, by decide, by decide⟩, by decide,
   ⟨by decide, by decide, by decide, by decide, by decide, by decide, by decide, by decide⟩⟩

theorem wit_nopLoop (last left : Nat) (h : left ≤ 2) (hl : last ≤ 1) :
    Issues (Tests.handLoop 0x7B000000 last left) 0 0x7B (shFields 0x7B000000) ∧
    ((Tests.handLoop 0x7B000000 last left).hand 0).loop = some { first := 0, last := last, left := left } := by
  have : left = 0 ∨ left = 1 ∨ left = 2 := by omega
  have : last = 0 ∨ last = 1 := by omega
  rcases ‹left = 0 ∨ _› with rfl | rfl | rfl <;> rcases ‹last = 0 ∨ _› with rfl | rfl <;>
    exact ⟨⟨by decide, by decide, by decide, by decide, by decide, by decide, by decide, by decide⟩, by decide⟩

-- LoadsReadTheScratchpad
theorem wit_load : let s := Tests.hand 0x34080004
    Issues s 0 0x34 (shFields 0x34080004) ∧ Accessible s 0 (s.shOff 0 (shFields 0x34080004) 1) 4 :=
  ⟨⟨by decide, by decide, by decide, by decide, by decide, by decide, by decide, by decide⟩, ⟨by decide, by decide, fun _ _ => rfl⟩⟩

theorem wit_loadVector : let s := Tests.hand 0x38000001
    Issues s 0 0x38 (shFields 0x38000001) ∧ Accessible s 0 (s.shOff 0 (shFields 0x38000001) 64) 64 :=
  ⟨⟨by decide, by decide, by decide, by decide, by decide, by decide, by decide, by decide⟩, ⟨by decide, by decide, fun _ _ => rfl⟩⟩

-- StoresWriteTheirBytesOnly
theorem wit_store : let s := Tests.hand 0x37080004
    Issues s 0 0x37 (shFields 0x37080004) ∧ Accessible s 0 (s.shOff 0 (shFields 0x37080004) 1) 4 :=
  ⟨⟨by decide, by decide, by decide, by decide, by decide, by decide, by decide, by decide⟩, ⟨by decide, by decide, fun _ _ => rfl⟩⟩

-- LanesGatherAndScatter
theorem wit_gatherLanes : let s := Tests.hand 0x3C000000
    Issues s 0 0x3C (shFields 0x3C000000) ∧ ∀ o ∈ laneOffsets (s.issuer 0) (shFields 0x3C000000), Accessible s 0 o 4 := by
  refine ⟨⟨by decide, by decide, by decide, by decide, by decide, by decide, by decide, by decide⟩, fun o h => ?_⟩
  have e : laneOffsets ((Tests.hand 0x3C000000).issuer 0) (shFields 0x3C000000) = List.replicate 16 0 := by decide +kernel
  rw [e] at h
  obtain rfl := List.eq_of_mem_replicate h
  exact ⟨by decide, by decide, fun _ _ => rfl⟩

theorem wit_scatterLanes : let s := Tests.handVec 0x3D004000
    Issues s 0 0x3D (shFields 0x3D004000) ∧ laneOffsets (s.issuer 0) (shFields 0x3D004000) = (List.range 16).map (4 * ·) ∧
    ∀ i ∈ List.range 16, Accessible s 0 (4 * i) 4 := by
  refine ⟨⟨by decide, by decide, by decide, by decide, by decide +kernel, by decide, by decide, by decide +kernel⟩, by decide +kernel,
    fun i h => ?_⟩
  have h' := List.mem_range.mp h
  refine ⟨?_, by omega, fun _ _ => rfl⟩
  have e : ((Tests.handVec 0x3D004000).ctx ((Tests.handVec 0x3D004000).hand 0).part ((Tests.handVec 0x3D004000).hand 0).ctx) =
      { Context.free with st := 4, spBytes := 0x1000000 } := by decide +kernel
  rw [e]
  simp [Context.spOk, Context.free]
  omega

-- VectorLanesUnderPredicate
theorem wit_lanes : Issues (Tests.hand 0x40084040) 0 0x40 (shFields 0x40084040) ∧ Issues (Tests.hand 0x4F084040) 0 0x4F (shFields 0x4F084040) ∧
    Issues (Tests.hand 0x52084040) 0 0x52 (shFields 0x52084040) :=
  ⟨⟨by decide, by decide, by decide, by decide, by decide, by decide, by decide, by decide⟩,
   ⟨by decide, by decide, by decide, by decide, by decide, by decide, by decide, by decide⟩,
   ⟨by decide, by decide, by decide, by decide, by decide, by decide, by decide, by decide⟩⟩

-- IntegerLanesAndPredicates
theorem wit_intLanes : Issues (Tests.hand 0x58084040) 0 0x58 (shFields 0x58084040) ∧ Issues (Tests.hand 0x60084400) 0 0x60 (shFields 0x60084400) ∧
    Issues (Tests.hand 0x4C000040) 0 0x4C (shFields 0x4C000040) ∧ (shFields 0x4C000040).d = 0 :=
  ⟨⟨by decide, by decide, by decide, by decide, by decide, by decide, by decide, by decide⟩,
   ⟨by decide, by decide, by decide, by decide, by decide, by decide, by decide, by decide⟩,
   ⟨by decide, by decide, by decide, by decide, by decide, by decide, by decide, by decide⟩, by decide⟩

-- ReductionsAndConversions
theorem wit_reductions : Issues (Tests.hand 0x50084040) 0 0x50 (shFields 0x50084040) ∧ Issues (Tests.hand 0x51084040) 0 0x51 (shFields 0x51084040) ∧
    Issues (Tests.hand 0x68084000) 0 0x68 (shFields 0x68084000) ∧ Issues (Tests.hand 0x69084009) 0 0x69 (shFields 0x69084009) ∧
    (shFields 0x69084009).fmt = 9 ∧ (((Tests.hand 0x69084009).issuer 0).getS (shFields 0x69084009).b).toNat % 256 ≠ 255 ∧
    Issues (Tests.hand 0x6A084000) 0 0x6A (shFields 0x6A084000) ∧ Issues (Tests.hand 0x6C080000) 0 0x6C (shFields 0x6C080000) :=
  ⟨⟨by decide, by decide, by decide, by decide, by decide, by decide, by decide, by decide⟩,
   ⟨by decide, by decide, by decide, by decide, by decide, by decide, by decide, by decide⟩,
   ⟨by decide, by decide, by decide, by decide, by decide, by decide, by decide, by decide⟩,
   ⟨by decide, by decide, by decide, by decide, by decide, by decide, by decide, by decide⟩, by decide, by decide,
   ⟨by decide, by decide, by decide, by decide, by decide, by decide, by decide, by decide⟩,
   ⟨by decide, by decide, by decide, by decide, by decide, by decide, by decide, by decide⟩⟩

theorem wit_packBlock : Issues (Tests.hand 0x69084000) 0 0x69 (shFields 0x69084000) ∧ (shFields 0x69084000).fmt = 0 ∧
    Issues (Tests.hand 0x69084006) 0 0x69 (shFields 0x69084006) ∧ (shFields 0x69084006).fmt = 6 ∧
    Issues (Tests.hand 0x6A084003) 0 0x6A (shFields 0x6A084003) ∧ (shFields 0x6A084003).fmt = 3 :=
  ⟨⟨by decide, by decide, by decide, by decide, by decide, by decide, by decide, by decide⟩, by decide,
   ⟨by decide, by decide, by decide, by decide, by decide, by decide, by decide, by decide⟩, by decide,
   ⟨by decide, by decide, by decide, by decide, by decide, by decide, by decide, by decide⟩, by decide⟩

-- FlagsAndCurtainsOfAStagehand
theorem wit_flags : Issues (Tests.hand 0x78000003) 0 0x78 (shFields 0x78000003) ∧ Issues (Tests.hand 0x79000003) 0 0x79 (shFields 0x79000003) ∧
    Issues (Tests.hand 0x7A000003) 0 0x7A (shFields 0x7A000003) ∧ (Tests.hand 0x79000003).crtFull (handBay 0) = false ∧
    (Tests.hand 0x78000003).flagAt 0 0 3 = false ∧
    ({ Tests.hand 0x78000003 with crt := { CurtNet.reset with flags := [(0, 8)] } } : State).flagAt 0 0 3 = true :=
  ⟨⟨by decide, by decide, by decide, by decide, by decide, by decide, by decide, by decide⟩,
   ⟨by decide, by decide, by decide, by decide, by decide, by decide, by decide, by decide⟩,
   ⟨by decide, by decide, by decide, by decide, by decide, by decide, by decide, by decide⟩, by decide, by decide, by decide⟩

-- UnlistedWordFaultsItsContext
theorem wit_unlisted : let s := Tests.hand 0xFF000000
    (s.hand 0).running = true ∧ (s.hand 0).wait = .none ∧ s.issueAt 0 ≤ (s.bay (handBay 0)).clk.cyc ∧ (s.issuer 0).pc ≤ 1023 ∧
    shListed (s.issuer 0).word.opc = false ∧
    ((Tests.handPc 1024).hand 0).running = true ∧ ((Tests.handPc 1024).hand 0).wait = .none ∧ 1023 < ((Tests.handPc 1024).issuer 0).pc ∧
    (Tests.handPc 1024).issueAt 0 ≤ ((Tests.handPc 1024).bay (handBay 0)).clk.cyc := by decide

theorem wit_checked : let s := Tests.hand 0x38400000
    (s.hand 0).running = true ∧ (s.hand 0).wait = .none ∧ s.issueAt 0 ≤ (s.bay (handBay 0)).clk.cyc ∧ (s.issuer 0).pc ≤ 1023 ∧
    (s.issuer 0).word.opc = 0x38 ∧ (s.issuer 0).stalls (s.issuer 0).word (s.issueAt 0) = false ∧
    shCheck (s.issuer 0) (s.issuer 0).word = some fltOpcode := by decide

-- RgetAndRputSendOneFlit
theorem wit_rget : let s := Tests.hand 0x3E000000
    Issues s 0 0x3E (shFields 0x3E000000) ∧ CanSend s 0 (shFields 0x3E000000) :=
  ⟨⟨by decide, by decide, by decide, by decide, by decide, by decide, by decide, by decide⟩,
   ⟨by decide, by decide, by decide, by decide⟩⟩

theorem wit_rput : let s := Tests.hand 0x3F000000
    Issues s 0 0x3F (shFields 0x3F000000) ∧ CanSend s 0 (shFields 0x3F000000) :=
  ⟨⟨by decide, by decide, by decide, by decide, by decide, by decide, by decide, by decide⟩,
   ⟨by decide, by decide, by decide, by decide⟩⟩

theorem wit_retry : let s := (Tests.hand 0x3E000000).setHand 0 { Tests.hand0 0x3E000000 with wait := .slot 0 }
    (s.hand 0).wait = .slot 0 ∧ 0 ≤ s.slotCount 0 ∧ s.slotOf 0 = 0 % 16 ∧
    s.setHand 0 { s.hand 0 with wait := .none } = Tests.hand 0x3E000000 := by decide +kernel

theorem wit_full : let s : State := { Tests.handFar with flits := Tests.eight }
    s.gridAddrBad 0 ((s.issuer 0).getS 1).toNat = none ∧ s.slotOf 0 = fld (sget 0 (s.hand 0).istore 0) 3 0 ∧ s.slotFree 0 0 = true ∧
    Issues s 0 0x3E (shFields 0x3E002000) ∧
    s.canStart (gridFlit (s.issuer 0) 0 (shFields 0x3E002000) ((s.issuer 0).getS 1).toNat) = false :=
  ⟨by decide, by decide, by decide, ⟨by decide, by decide, by decide, by decide, by decide, by decide, by decide, by decide⟩, by decide⟩

-- FlitsMoveAlongTheirRoute
theorem wit_hopHome (kind : Nat) : let f := { Tests.flit1 with at_ := 1, dest := if kind = 4 then 1 else 512, kind := kind }
    f.at_ = 1 ∧ f.target = 1 := by
  by_cases h : kind = 4 <;> simp [Flit.target, h]

theorem wit_hopHomeCrosses (kind : Nat) (h : kind = 1 ∨ kind = 4) :
    let f := { Tests.flit1 with at_ := 1, dest := if kind = 4 then 1 else 512, kind := kind }
    Crosses (Tests.flitOn f) 0 f := by
  rcases h with rfl | rfl <;> exact ⟨by decide, by decide, by decide, by decide, by decide, by decide⟩

theorem wit_hop : let s := Tests.flitOn Tests.flit1
    Crosses s 0 Tests.flit1 ∧ Tests.flit1.at_ ≠ Tests.flit1.target ∧ s.routerDead (gridNext 0 (Tests.flit1.outPort 0)) = false ∧
    handBay (gridNext 0 (Tests.flit1.outPort 0)) = handBay 0 :=
  ⟨⟨by decide, by decide, by decide, by decide, by decide, by decide⟩, by decide, by decide, by decide⟩

theorem wit_hopBorder : let s := Tests.flitOn { Tests.flit1 with at_ := 7 }
    Crosses s 0 { Tests.flit1 with at_ := 7 } ∧ handBay (gridNext 7 (Tests.flit1.outPort 7)) ≠ handBay 7 ∧
    s.routerDead (gridNext 7 (Tests.flit1.outPort 7)) = false :=
  ⟨⟨by decide, by decide, by decide, by decide, by decide, by decide⟩, by decide, by decide⟩

theorem wit_source (again : Option Nat) (h : again = none ∨ again = some 0) :
    let f := { Tests.flit1 with loc := .source 1 again }
    let s := Tests.flitOn f
    s.flits[0]? = some f ∧ (s.bay 0).clk.stopped = false ∧ s.routerDead 0 = false ∧ s.slotFree 0 0 = true ∧ s.canStart f = true ∧
    s.slotOf 0 = 0 ∧ (1 : Nat).testBit (s.slotOf 0) = true := by
  rcases h with rfl | rfl <;> decide

theorem wit_crossing : let f := { Tests.flit1 with at_ := 8, loc := .crossing 1 0 }
    let s := Tests.flitOn f
    Takes s 8 1 ∧ s.crossPick 8 1 = some 0 ∧ s.flits[0]? = some f :=
  ⟨⟨by decide, by decide, by decide, by decide⟩, by decide, by decide⟩

-- GridArrivals
theorem wit_arrivals (kind src : Nat) (h : kind ≤ 3) (h' : src = 1 ∨ src = 6144) (v : Bool) :
    let f : Flit := { Tests.flit1 with kind := kind, src := src, dest := 0, loc := .ejected, void := v }
    AtTarget (Tests.flitOn f) 0 f ∧ (Tests.flitOn f).memErr = [] ∧ f.data.length ≤ 256 ∧
    ((Tests.flitOn f).setHand 0 { Stagehand.idle with getsOut := [0] }).hand f.target = { Stagehand.idle with getsOut := [0] } := by
  have : kind = 0 ∨ kind = 1 ∨ kind = 2 ∨ kind = 3 := by omega
  rcases this with rfl | rfl | rfl | rfl <;> rcases h' with rfl | rfl <;> cases v <;>
    exact ⟨⟨by decide, by decide, by decide⟩, by decide, by decide, by decide⟩

-- ScrubWalkersVisit
theorem wit_scrub : let s : State := { Tests.up with clock := { Tests.up.clock with house := 90000000 },
                                                     memErr := [(spBase / 8, 1)] }
    s.canVisit (handBay 0) = true ∧ s.bankIdle (handBay 0) (bankAt 0 0) = true ∧
    (s.walker 0 0).forcedPeriod < (s.bay (handBay 0)).clk.cyc / 4096 + 1 ∧ (s.bay (handBay 0)).served = [] ∧
    s.ymr.dieOn = true ∧ s.bayActive 0 = true ∧ s.scrubDue 0 = true ∧ spBase / 8 ∈ rowWords 0 0 (s.walker 0 0).row := by decide +kernel

theorem wit_writeBack : let s := Tests.up.setBay 0 { Bay.reset with writeBack := [5] }
    (s.bay 0).writeBack = 5 :: [] ∧ (s.bay 0).clk.stopped = false ∧ s.bankIdle 0 (bankOf (spBayOff (8 * 5)).2) = true := by decide

-- RegisterWritesOfTheDie
theorem wit_dieRegs : Tests.up.ymr.dieOn = true ∧ xslotOk 13 false 0x00FF00FF = true ∧ (Tests.up.bay 13).running = false ∧
    xslotOk 0 false 0xFFFF0000 = false ∧ fld (0x2FFF : Word) 11 0 = 0xFFF ∧ bit (0x2FFF : Word) 13 = true ∧
    0x5A < fld (0x7F : Word) 6 0 := by decide

-- RegisterWritesOfOwnerAndFaultBlocks
theorem wit_ownerRegs : let s : State := { Tests.up with ymr := { Tests.up.ymr with owner := some 1 } }
    s.ymr.dieOn = true ∧ s.ymrUp = true ∧ s.ymr.owner.isSome = true ∧ s.power ≠ .off ∧ s.inter.snaps = [] ∧ s.ctxs = [] ∧
    (resvOf 0).1 + (resvOf 0).2 ≤ s.installedDdr + ddrBase ∧ (regRow (aMem 0 4)).isSome = true ∧
    s.installedDdr + ddrBase < (resvOf 0x00010001).1 + (resvOf 0x00010001).2 := by decide +kernel

theorem wit_cpRegs : let s : State := (Tests.hand 0)
    s.ymr.dieOn = true ∧ (s.ctx (s.partOfCp 0) 0).st = 4 ∧ (s.ctx (s.partOfCp 0) 1).st ≤ 3 ∧
    (findRow cpRows 0x1004).isSome = true ∧ (findRow cpRows 0x104C).isSome = true ∧ cpWriteBad 0x104C 0x400 = false ∧
    (findRow cpRows 0x0004).isSome = true := by decide +kernel

theorem wit_snapshotRegs : let s : State := { Tests.up with inter := { Tests.up.inter with snaps := [{ (default : Snapshot) with own := true }] } }
    s.ymr.dieOn = true ∧ s.inter.snaps.any Snapshot.own = true := by decide

-- EventsAreRegisteredAndNumbered
theorem wit_register (cp : Option Nat) (h : cp = none ∨ cp = some 0) :
    let e := { Tests.pend (.flagSet 0 3) with cp := cp }
    let s := Tests.crt { CurtNet.reset with waiting := [e] }
    s.crt.waiting[0]? = some e ∧ (s.crt.waiting.take 0).any (fun x => decide (x.node = e.node)) = false := by
  rcases h with rfl | rfl <;> decide

theorem wit_number (count : Nat) (chain held : Bool) (h : count = 1 ∨ count = 2) :
    let e := Tests.pend (.arrive 0 2 0x21 0 2 0)
    let s := (Tests.crt { CurtNet.reset with toRoot := [e] }).setCurtain 0 2
      { Curtain.off with count := count, chain := chain, held := held }
    s.crt.toRoot[0]? = some e ∧ (s.crt.toRoot.take 0).any (fun x => decide (x.node = e.node)) = false ∧
    s.crt.clearLate (rootCycle s.clock.refLost s.clock.uptime) e.ev = false ∧ (s.curtain 0 2).held = held ∧
    (s.curtain 0 2).chain = chain ∧ (s.curtain 0 2).count = count ∧ (s.curtain 0 2).arrived = 0 ∧ (s.curtain 0 2).next = none := by
  rcases h with rfl | rfl <;> cases chain <;> cases held <;> decide

theorem wit_numberFlag : let e := Tests.pend (.flagClr 0 3)
    let s := Tests.crt { CurtNet.reset with toRoot := [e] }
    s.crt.toRoot[0]? = some e ∧ s.crt.clearLate (rootCycle s.clock.refLost s.clock.uptime) e.ev = false := by decide

-- EventsApplyAtEveryNodeInOrder
theorem wit_apply (ev : CrtEvent) (h : ev ∈ [CrtEvent.flagSet 0 3, .flagClr 0 3, .clearAll 0, .arrive 0 2 0x21 0 2 0]) :
    let e : CrtNum := { seq := 1, ev := ev, release := if ev = .arrive 0 2 0x21 0 2 0 then some (0, 2, 0x21) else none, time := 0 }
    let s := (Tests.crt { CurtNet.reset with numbered := [e], joined := [(joinKey 0 2 0, 1)] }).setHand 0
      { Tests.hand0 0x73000000 with wait := if ev = .arrive 0 2 0x21 0 2 0 then .curtain 2 else .flag 3 }
    s.crt.numbered[sget 0 s.crt.applied 0]? = some e ∧ handBay 0 = 0 ∧ (s.hand 0).running = true ∧ (s.hand 0).part = 0 ∧
    (s.hand 0).wait = (if ev = .arrive 0 2 0x21 0 2 0 then .curtain 2 else .flag 3) ∧
    s.joinedOk (joinKey 0 2 0) (sget 0 s.crt.releases (64 * 0 + curtKey 0 2) + 1) = true := by
  simp only [List.mem_cons, List.not_mem_nil, or_false] at h
  rcases h with rfl | rfl | rfl | rfl <;> decide

-- CurtainRegistersAndCuePackets
theorem wit_cuePacket : let x : CueTransit := { pkt := .fault 1 0 0 0 0 0 0 0 0 [], node := 17, inp := 0, ready := 0 }
    let s : State := { Tests.up with cuePkts := [x] }
    s.ymr.dieOn = true ∧ s.cuePkts[0]? = some x ∧ s.cueHere x = true ∧ s.cuePkts.take 0 = [] ∧
    s.cueBacklog 17 + x.pkt.words ≤ 16 ∧ (s.curtain 0 0).arrived = 0 ∧
    ((s.setCurtain 0 0 { Curtain.off with arrived := 1 }).curtain 0 0).arrived ≠ 0 := by decide

-- CallSheetEntriesActOnTheNetwork
theorem wit_entry (kind : Nat) (h : kind ∈ [0, 3, 4, 5, 6, 7, 8, 9]) :
    EntryReady (Tests.cue [Tests.entry kind]) 0 0 (Tests.entry kind) [] ∧ (Tests.entry kind).kind = kind ∧ (Tests.entry kind).arg = 0 := by
  simp only [List.mem_cons, List.not_mem_nil, or_false] at h
  rcases h with rfl | rfl | rfl | rfl | rfl | rfl | rfl | rfl <;>
    exact ⟨⟨by decide, by decide, by decide, by decide, by decide, by decide⟩, by decide, by decide⟩

theorem wit_entryRange (k : Nat) (h : k ∈ [3, 4, 5, 6, 7]) :
    let e : CsEntry := { index := 0, addr := 0, bytes := [BitVec.ofNat 8 k, 0, 0, 0, 0, 0, 0, 0, 0, 16] }
    EntryReady (Tests.cue [e]) 0 0 e [] ∧ e.kind = k ∧ e.arg = 4096 := by
  simp only [List.mem_cons, List.not_mem_nil, or_false] at h
  rcases h with rfl | rfl | rfl | rfl | rfl <;>
    exact ⟨⟨by decide, by decide, by decide, by decide, by decide, by decide⟩, by decide, by decide⟩

theorem wit_waitSet : let s := (Tests.cue [Tests.entry 3]).setFlagsAt 14 1
    EntryReady s 0 0 (Tests.entry 3) [] ∧ s.flagAt (cpNode 0) (s.partOfCp 0) 0 = true :=
  ⟨⟨by decide, by decide, by decide, by decide, by decide, by decide⟩, by decide⟩

-- CallSheetPacketsLeaveInTheirSlot
theorem wit_cmd : let e := Tests.entryCmd 1 0
    let s := Tests.cue [e]
    EntryReady s 0 0 e [] ∧ s.targetBad 0 e = none ∧ e.kind = 1 ∧ s.queueLoad (s.targetOf 0 e) < 8 ∧ s.slotWaiters (s.targetOf 0 e) = [] :=
  ⟨⟨by decide, by decide, by decide, by decide, by decide, by decide⟩, by decide, by decide, by decide, by decide⟩

theorem wit_cmdFull : let e := Tests.entryCmd 1 0
    let s := (Tests.cue [e]).setBay 0 (Bay.reset.setQueue 0 (List.replicate 8 (Tests.qcmd 1)))
    EntryReady s 0 0 e [] ∧ s.targetBad 0 e = none ∧ 8 ≤ s.queueLoad (s.targetOf 0 e) :=
  ⟨⟨by decide, by decide, by decide, by decide, by decide, by decide⟩, by decide, by decide⟩

theorem wit_batch (arg : Nat) (h : arg ≤ 1) : let e := Tests.entryCmd 2 arg
    let s := Tests.trained (Tests.cue [e])
    EntryReady s 0 0 e [] ∧ s.targetBad 0 e = none ∧ e.kind = 2 ∧ e.batchAddr % 32 = 0 ∧ e.arg = arg ∧
    (s.ctx 0 0).hbmOk e.batchAddr 32 = true ∧ s.queueLoad (s.targetOf 0 e) < 8 ∧ s.slotWaiters (s.targetOf 0 e) = [] ∧
    CueReads s 0 0 (e.batchAddr + 32 * (s.cp 0).batchPos) 32 := by
  have : arg = 0 ∨ arg = 1 := by omega
  rcases this with rfl | rfl <;>
    exact ⟨⟨by decide, by decide, by decide, by decide, by decide, by decide⟩, by decide, by decide, by decide, by decide,
      by decide, by decide, by decide, ⟨by decide, by decide, by decide, by decide⟩⟩

theorem wit_targetBad : let e : CsEntry := { Tests.entryCmd 1 0 with bytes := [1, 2, 0, 0x80] }
    EntryReady (Tests.cue [e]) 0 0 e [] ∧ (Tests.cue [e]).targetBad 0 e = some fltContract :=
  ⟨⟨by decide, by decide, by decide, by decide, by decide, by decide⟩, by decide⟩

theorem wit_grant : let e := Tests.entryCmd 1 0
    let s := (Tests.cue [e]).setCp 0 { CueProc.idle with fetched := [e], inPass := true, wait := .slot 5 }
    s.cpCtx 0 = some 0 ∧ (s.cp 0).fetched = [e] ∧ (s.cp 0).wait = .slot 5 ∧ (s.cp 0).halted = false ∧
    s.queueLoad (s.targetOf 0 e) < 8 ∧ s.slotWaiters (s.targetOf 0 e) = [(5, 0)] := by decide

-- FetchesPassesAndBoundaries
theorem wit_fetch : let s := Tests.trained (Tests.cue [])
    s.fetchCtx 0 = some 0 ∧ s.ringSize 0 0 ≠ 0 ∧ (s.cp 0).fetched.length ≤ 512 ∧
    CueReads s (s.partOfCp 0) 0 (s.ringBase 0 0 + 64 * (s.cp 0).fetchPos) 64 :=
  ⟨by decide, by decide, by decide, ⟨by decide, by decide, by decide, by decide⟩⟩

theorem wit_pass : let s := ((Tests.cue []).setCp 0 CueProc.idle).setCtx 0 0 { Context.free with st := 4, credit := [(0, 1)] }
    s.cpCtx 0 = some 0 ∧ (s.cp 0).inPass = false ∧ (s.cp 0).halted = false ∧
    s.isolatedOut (s.partOfCp 0) 0 = false ∧ 0 < (s.ctx (s.partOfCp 0) 0).creditOf 0 := by decide

theorem wit_boundary (k : Option Nat) (h : k = none ∨ k = some 2) :
    let s := (List.range 4).foldl (fun s n => s.setCp n { CueProc.idle with inPass := true, wait := .boundary k }) (Tests.cue [])
    s.curCtx 0 = some 0 ∧ (s.ctx 0 0).st = 4 ∧ s.stopped 0 0 = false ∧ s.partFenced 0 = false ∧
    (s.cp (leadCp s.shape 0)).halted = false ∧ (s.cp (leadCp s.shape 0)).boundary = some k ∧
    (∀ n ∈ cpsOf s.shape 0, (s.cp n).boundary = some k) ∧ s.boundaryQuiet 0 0 k.isNone = true := by
  rcases h with rfl | rfl <;> decide

-- FirstFaultStopsItsContext
theorem wit_faultReport : let x : CuePkt := .fault 4 0 0 0 0 0 0 0 0 []
    let s : State := { Tests.hand 0 with cueArrived := [x] }
    s.cueArrived[0]? = some x ∧ s.cueArrived.any (faultBefore 0 0 0 0 0 0) = false ∧ s.faultRec 0 0 = none ∧ (s.ctx 0 0).st ≠ 0 ∧
    ((s.setFaultRec 0 0 (some (s.recordOf 1 0 0 0 0 0 0 0 0 []))).faultRec 0 0).isSome = true := by decide +kernel

-- GathersLandTheirShards
theorem wit_gatherEmpty : let s := Tests.linked 0 [Tests.word0 0x30 5]
    LinkReady s 0 0 0x30 { words := [Tests.word0 0x30 5], part := 0, ctx := 0, bookoff := 64, waitSeen := false } [] ∧
    s.gatherCheck 0 0 (gatherCmd [Tests.word0 0x30 5]) = none ∧ (gatherCmd [Tests.word0 0x30 5]).shards = 0 :=
  ⟨⟨by decide, by decide, by decide⟩, by decide, by decide⟩

theorem wit_gatherOpen : let ws : List Word := [Tests.word0 0x30 5, 0, 1 <<< 8, 0, 0, 256]
    let s := ((Tests.linked 0 ws).setCast 0 { CastList.empty with members := [9] }).setCtx 0 0 { Context.free with st := 4, hbmSize := 4096 }
    LinkReady s 0 0 0x30 { words := ws, part := 0, ctx := 0, bookoff := 64, waitSeen := false } [] ∧ s.gatherCheck 0 0 (gatherCmd ws) = none ∧
    (gatherCmd ws).shards = 1 ∧ (gatherCmd ws).len = 256 ∧ s.memberOf (gatherCmd ws).cast = none :=
  ⟨⟨by decide, by decide, by decide⟩, by decide, by decide, by decide, by decide⟩

theorem wit_shard (n : Nat) (h : n = 1 ∨ n = 2) : let ws : List Word := [Tests.word0 0x30 5, 0, BitVec.ofNat 32 (n <<< 8), 0, 0, 256]
    let g : Gather := { ctx := 0, words := ws, arrived := [], firstStamp := none, dead := false, bookoff := 0 }
    let m : ShardMsg := { ctx := 0, cast := 0, member := 0, tensor := 0, stamp := 1, epoch := 0, data := [5, 6], scales := [] }
    let s := Tests.up.setLink 0 { LinkEng.idle with gathers := [g] }
    m.epoch = (s.cast m.cast).epoch ∧ s.gatherFor 0 m = some 0 ∧ (s.link 0).gathers[0]? = some g ∧ (gatherCmd ws).mode = 0 ∧
    GoesOn s 0 0 ∧ (gatherCmd ws).dest + m.member * (gatherCmd ws).len + 256 ≤ spBase ∧ s.memFenced = false ∧ (gatherCmd ws).shards = n := by
  rcases h with rfl | rfl <;> exact ⟨by decide, by decide, by decide, by decide, ⟨by decide, by decide⟩, by decide, by decide, by decide⟩

theorem wit_shardVersion : let ws : List Word := [Tests.word0 0x30 5, 0x00400000, BitVec.ofNat 32 (1 <<< 8), 0, 0, 256]
    let g : Gather := { ctx := 0, words := ws, arrived := [], firstStamp := some 4, dead := false, bookoff := 0 }
    let m : ShardMsg := { ctx := 0, cast := 0, member := 0, tensor := 0, stamp := 1, epoch := 0, data := [5, 6], scales := [] }
    let s := Tests.up.setLink 0 { LinkEng.idle with gathers := [g] }
    s.gatherFor 0 m = some 0 ∧ s.wantedStamp 0 g (gatherCmd ws) 0 = some (true, 4) ∧ 4 ≠ m.stamp.toNat ∧ GoesOn s 0 0 :=
  ⟨by decide, by decide, by decide, ⟨by decide, by decide⟩⟩

theorem wit_shardStale : let m : ShardMsg := { ctx := 0, cast := 0, member := 0, tensor := 0, stamp := 1, epoch := 3, data := [], scales := [] }
    m.epoch ≠ (Tests.up.cast m.cast).epoch := by decide

-- BucketsOfAStep
theorem wit_transfer (lv : BitVec 2) (h : lv = 0 ∨ lv = 1) :
    let b := { Bucket.fresh 0 5 2 2 0 0 with firstIn0 := some 0, firstIn1 := some 0, dl0 := some 0, dl1 := some 0 }
    let s := ({ Tests.up with clock := { Tests.up.clock with house := 9 } } : State).setLink 0 { LinkEng.idle with buckets := [b] }
    let x := { Tests.bhdr with level := lv }
    (s.link 0).waiting = [] ∧ x.epoch = (s.cast x.cast.toNat).epoch ∧ x.step = s.stepOf 0 0 ∧ x.level.toNat ≤ 1 ∧ s.transferWaits 0 0 x = false ∧
    s.findBucket 0 0 x.tag.toNat x.level.toNat x.cast.toNat = some 0 ∧ s.findBucket 0 0 9 x.level.toNat x.cast.toNat = none ∧
    s.bucket 0 0 = some b ∧ b.decided x.level.toNat = false ∧
    b.confirmed = false ∧ 0 + b.deadline 0 < s.clock.house ∧ 0 + b.deadline 1 < s.clock.house ∧ b.recomputed = false ∧ b.accepted = none := by
  rcases h with rfl | rfl <;> decide

theorem wit_transferAhead : let x := { Tests.bhdr with step := 7 }
    x.epoch = (Tests.up.cast x.cast.toNat).epoch ∧ (Tests.up.stepOf 0 0).toNat < x.step.toNat ∧ (Tests.up.link 0).waiting = [] := by decide

theorem wit_compare (v : BitVec 16) (h : v = 0 ∨ v = 0x4000) :
    let b := { Bucket.fresh 0 5 2 256 1024 0 with chunks := [(0, Tests.bhdr, [0])], checks := [(0, { Tests.bhdr with check := true }, [v])] }
    let s := Tests.up.setLink 0 { LinkEng.idle with buckets := [b] }
    s.bucket 0 0 = some b ∧ b.toCompare 0 = [(Tests.bhdr, [0], [v])] ∧
    ([0].zip [v]).all (fun q => g16Agree (underScale 0 q.1) (underScale 0 q.2)) = decide (v = 0) := by
  rcases h with rfl | rfl <;> decide

theorem wit_land : let v := List.replicate 1024 (0 : BitVec 16)
    let b := { Bucket.fresh 0 5 0 256 1024 0 with chunks := [(0, Tests.bhdr, v)], doneSeq := some 0 }
    let s := ((Tests.exrec 4096).setCast 0 { CastList.empty with members := [0] }).setLink 0 { LinkEng.idle with buckets := [b] }
    s.bucket 0 0 = some b ∧ s.nextToLand 0 = some 0 ∧ s.partOf b = some (0, 0, 1) ∧ b.partData 0 0 1 = some [(Tests.bhdr, v)] ∧
    s.landRoom 0 0 (32 + 2048 * 1) = some 0 ∧ s.memFenced = false ∧ s.xget 0 0 0x030 8 + 0 + 32 + 2048 * 1 ≤ spBase ∧ v.length = 1024 := by
  decide +kernel

theorem wit_confirm : let b := { Bucket.fresh 0 5 0 256 0 0 with landed := true, accepted := some 0 }
    let s := Tests.up.setLink 0 { LinkEng.idle with buckets := [b] }
    s.bucket 0 0 = some b ∧ s.checkedOk 0 b = true ∧ b.decided 0 = true ∧ GoesOn s 0 b.ctx ∧
    Tests.bhdr.epoch = 0 ∧ ({ Tests.bhdr with epoch := 1 } : BucketHdr).epoch ≠ (s.cast 2).epoch :=
  ⟨by decide, by decide, by decide, ⟨by decide, by decide⟩, by decide, by decide⟩

theorem wit_reduce : let ws : List Word := [Tests.word0 0x31 6, 0, 0, 0x20000, 0, 32768, 0]
    let s := ((Tests.exrec 4096).setCast 0 { CastList.empty with members := [0] }).setLink 0 (LinkEng.idle.setQueue 1
      [{ words := ws, part := 0, ctx := 0, bookoff := 64, waitSeen := false }])
    LinkReady s 0 1 0x31 { words := ws, part := 0, ctx := 0, bookoff := 64, waitSeen := false } [] ∧ s.reduceCheck 0 0 (reduceCmd ws) = none ∧
    s.links.foldl (fun n kv => n + (kv.2.buckets.filter Bucket.inFlight).length) 0 < 256 ∧
    (s.readBlocks (blocksOf 0x20000 65536)).2 = none ∧ s.findBucket 0 0 0 0 0 = none ∧ s.pickUp 0 0 (reduceCmd ws) = none :=
  ⟨⟨by decide, by decide, by decide⟩, by decide +kernel, by decide, by decide +kernel, by decide, by decide⟩

-- StepsCloseAtTheirCurtain
theorem wit_step : let ws : List Word := [Tests.word0 0x32 1, 0]
    let s := (Tests.linked 1 ws).setCurtain 0 0 { Curtain.off with count := 1 }
    LinkReady s 0 1 0x32 { words := ws, part := 0, ctx := 0, bookoff := 64, waitSeen := false } [] ∧ (s.ctx 0 0).dress = false ∧
    (s.curtain 0 (stepCurt ws)).count ≠ 0 ∧ s.epochOk 0 0 (stepCast ws) = true ∧ (s.link 0).step = none :=
  ⟨⟨by decide, by decide, by decide⟩, by decide, by decide, by decide, by decide⟩

theorem wit_stepArrival (r : Option Byte) (h : r = none ∨ r = some 1) :
    let st : StepClose := { ctx := 0, curt := 0, cast := 0, arrived := r.isSome, setFlag := some 3, released := r }
    let s := (Tests.exrec 4096).setLink 0 { LinkEng.idle with step := some st }
    (s.link 0).step = some st ∧ s.stepOpen 0 0 = false ∧ GoesOn s 0 0 ∧ s.xaddr 0 0 = some 0 ∧ (s.ctx 0 0).dress = false ∧
    (s.link 0).waiting = [] := by
  rcases h with rfl | rfl <;> exact ⟨by decide, by decide, ⟨by decide, by decide +kernel⟩, by decide +kernel, by decide +kernel, by decide⟩

theorem wit_wing (nf pin : Bool) : let x : LandedPart := { ctx := 0, bucket := 0, hdr := { Tests.bhdr with nf := nf, ncontrib := 0 }, first := 0, elems := 0, at_ := 0, doneBy := 0 }
    let b := { Bucket.fresh 0 5 0 256 0 0 with seen := true, accepted := some 0 }
    let s0 := ((Tests.exrec 4096).setCast 0 { CastList.empty with members := [0] }).setLink 0 { LinkEng.idle with buckets := [b], landing := [x] }
    let s : State := { s0 with inter := { s0.inter with pinned := pin, pinHalves := [1] } }
    (s.link 0).landing[0]? = some x ∧ (s.link 0).buckets[0]? = some b ∧ (s.odesc 0 0 0).isSome = true ∧ (s.tensor 0 0 0).isSome = true ∧
    b.decided 0 = true ∧ s.checkedOk 0 b = true ∧ x.doneBy.getLsbD 3 = false ∧ s.memFenced = false ∧
    (s.odesc 0 0 0).elim false (fun d => decide (s.pinnedHalf 0 0 0 (1 - d.live) = pin) && (s.algoBad 0 0 x.hdr.ncontrib.toNat d).isNone &&
      (s.tensor 0 0 0).elim false (fun td => (wingSquares 3 x b.soff d td).isEmpty)) = true ∧
    (s.readMem (s.xget 0 0 0x030 8 + 0 + 32) 0).2 = some [] ∧ partRefused x [] = nf := by
  cases nf <;> cases pin <;> decide +kernel

theorem wit_updateBad : let c : Context := { Context.free with hbmSize := 0x100000, ddrSize := 0x100000, ddrBase := 0x100000000000 }
    let d : ODesc := { addr := 0, algo := 0, live := 0, tensor := 0, prog := 0, params := [], stageBase := 0, halfStride := 0x10000, nshard := 1024 }
    let td : TDesc := { addr := 0, tensor := 0, fmt := 8, sharded := false, frozen := false, rows := 32, cols := 32, wcBase := 0, stateBase := 0x100000000000, shards := 1 }
    (Tests.up.setCtx 0 0 c).updateBad 0 0 d td = false := by decide +kernel

-- ReblocksMoveSquareRows
theorem wit_asks (op : Byte) (need : Nat) (h : need ≤ 2000) (r : PcpRole) : Asks Tests.asked (Tests.hdrOf op) Tests.sess op.toNat r need :=
  ⟨show Tests.asked.pcpReaches Tests.hdr = true by decide, rfl, rfl, rfl, Nat.le_refl _, Or.inl rfl, rfl, rfl, rfl, rfl, by cases r <;> rfl, rfl,
    show Tests.hdr.sequence ≠ 0xFFFFFFFF by decide, by decide, h, Or.inl rfl⟩

theorem wit_reblock (st : Nat) (h : st = 2 ∨ st = 4) : let s := (Tests.asked).setCtx 0 0 { Context.free with st := st }
    Asks s (Tests.hdrOf 0x41) Tests.sess 0x41 .tenant 40 ∧ NamesCtx s (Tests.hdrOf 0x41) ∧ (s.ctx 0 0).st = st ∧ s.reblockOf 0 0 = none ∧
    [Tests.reEntry].any (s.reblockBad 0 0) = true := by
  rcases h with rfl | rfl <;> exact ⟨⟨by decide, rfl, rfl, rfl, by decide, Or.inl rfl, rfl, rfl, rfl, by decide, rfl, rfl, by decide, by decide,
    by decide, Or.inl rfl⟩, ⟨⟨by decide, by decide⟩, by decide, by decide, by decide⟩, by decide, by decide, by decide⟩

theorem wit_reblockPlan : let e := Tests.reEntry
    let s := (((Tests.exrec 4096).setCast 0 { CastList.empty with members := [0] }))
    [e].any (s.reblockBad 0 0) = false := by decide +kernel

theorem wit_squareRow : let rb : Reblock := { hdr := Tests.hdr, ctx := 0, plan := [Tests.reEntry], landed := [], maxStamp := [] }
    let s := ((Tests.exrec 4096).setCast 0 { CastList.empty with members := [0] }).setLink 0 { LinkEng.idle with reblocks := [rb] }
    (s.cast 0).epoch = 0 ∧ s.reblockOf 0 0 = some rb ∧
    rb.plan.find? (fun e => decide (e.tensor = 0) && decide (e.newCast = 0)) = some Tests.reEntry ∧
    (s.tensor 0 0 0).isSome = true ∧ rb.landed.contains (0, 0) = false ∧
    (s.link 0).reblocks.find? (s.reblockDone 0) = some rb := by decide +kernel

-- StreamTransfersRunToTheirEnd
theorem wit_transferIssue (op : Nat) (h : op = 0x41 ∨ op = 0x42) : let c := Tests.seCmd op
    let s := Tests.seState c
    (s.bay 0).started.find? (fun c => decide (c.id = 7)) = some c ∧ (s.bay 0).nextTransfer c = some 0 ∧
    (s.bay 0).freeTag c = some 0 ∧ (s.bay 0).clk.stopped = false ∧ s.laneFull 0 0 = false ∧
    (match (s.sePlan 0 c 0).2 with | .ok (a, off) => decide (a = 0 ∧ off = 0) | _ => false) = true ∧
    c.seWrite = decide (op = 0x42) ∧ ((s.sePlan 0 c 0).1.spRead 0 0 (256 * seBlocks c.words)).2.isSome = true := by
  rcases h with rfl | rfl <;> decide +kernel

theorem wit_transferFaults : let c := Tests.seCmd 0x41
    let s := Tests.up.setBay 0 { Bay.reset with started := [c] }
    (s.bay 0).started.find? (fun c => decide (c.id = 7)) = some c ∧ (s.bay 0).nextTransfer c = some 0 ∧
    (s.bay 0).freeTag c = some 0 ∧ (match (s.sePlan 0 c 0).2 with | .error _ => true | _ => false) = true := by decide +kernel

theorem wit_request (w : Bool) : let r : MemReq := { write := w, addr := 0, requester := 0, gen := 0, part := 0, ctx := 0, bay := 0, tag := 0, spOff := 0, data := List.replicate 256 3 }
    let s := Tests.up.setCtl 0 { MemCtl.idle with st := 2, lane := [r], reqs := [r] }
    (s.ctl 0).lane[0]? = some r ∧ (s.ctl 0).reqs[0]? = some r ∧ (s.ctl 0).stale r = false ∧ s.memFenced = false ∧ s.clock.refLost = false ∧
    (s.ctl 0).stale { r with gen := 1 } = true ∧ s.blockErr r.addr = 0 ∧ r.data.length = 256 ∧ (s.ctl 0).heldBack 0 [r] = false ∧
    (s.ctl 0).reqs.filter r.same = [r] ∧
    s.queueUse (edgeRouter 0 (edgeOf r.addr), wingQueuePort 0, (readFlit 0 r [] false s.clock.house).cls) < 8 ∧
    ({ s with clock := { s.clock with refLost := true } } : State).memFenced = true := by
  cases w <;> decide +kernel

theorem wit_transferDone : let x : Transfer := { tag := 3, cmd := 7, write := false, addr := 0, spOff := 0, blocks := 1, arrived := 1, issuedAt := 0 }
    let s := Tests.up.setBay 0 { Bay.reset with transfers := [x], started := [Tests.seCmd 0x41] }
    (s.bay 0).transfers.find? (fun t => decide (t.tag = 3)) = some x ∧ x.arrived = x.blocks ∧ (s.bay 0).clk.stopped = false := by
  decide

-- MemoryTrainsAndIsTended
theorem wit_training : let s : State := { Tests.up with power := .training, ctls := [(0, { MemCtl.idle with st := 1 }), (12, { MemCtl.idle with st := 1 })] }
    s.trainsNow 0 = true ∧ s.trainsNow 12 = true := by decide

theorem wit_test : let s : State := { Tests.up with power := .testing false false, ctls := (List.range 20).map (fun n => (n, { MemCtl.idle with st := 2, size := 1 })) }
    s.l4 = none ∧ s.power = .testing false false ∧ s.ddrReady = true ∧ sget 0 s.keySlots 4 = 0 ∧ s.bayActive 5 = true ∧
    (s.ctl 0).st = 2 ∧ s.memFenced = false ∧ s.ymr.dieOn = true ∧ (s.ctl 0).patrol < s.ctlBlocks 0 := by
  decide +kernel

theorem wit_fill : let s : State := { Tests.up with power := .testing true false, keySlots := [(4, 1)] }
    s.power = .testing true false ∧ sget 0 s.keySlots 4 ≠ 0 := by decide

theorem wit_l4 : let r : ResetOp := { hdr := Tests.hdr, level := 4, part := 0, ctx := 0, cls := 0, bay := 0, index := 0, since := 0,
                                      drained := true, hbmDone := true, ddrDone := true, tested := false, keysBack := false }
    let s : State := { Tests.up with resets := [r] }
    s.l4 = some r ∧ r.tested = false ∧ r.ddrDone = true ∧ r.keysBack = false := by decide

-- ClocksFollowTheirRules
theorem wit_clockDown : let s := Tests.clocked { BayClk.reset with code := 0x5B, cyc := 20000, runLen := 70, winStretch := 300 } 0x15A
    (s.bay 0).clk.stopped = false ∧ (s.bay 0).clk.fallback = false ∧ s.target 0 < (s.bay 0).clk.code ∧ s.adapt 0 = true ∧
    64 ≤ (s.bay 0).clk.runLen ∧ (s.bay 0).clk.winStart + 16384 ≤ (s.bay 0).clk.cyc ∧ 256 < (s.bay 0).clk.winStretch := by decide

theorem wit_clockUp : let s := Tests.clocked { BayClk.reset with code := 0x20, cyc := 20000, quiet := 15 } 0x35A
    (s.bay 0).clk.code < s.target 0 ∧ (s.bay 0).clk.moved + 1000 ≤ s.clock.house ∧ (s.bay 0).clk.winStretch ≤ 16 ∧
    (s.bay 0).clk.quiet = 15 ∧ bit (s.clkcfg 0) 9 = true ∧ s.bayIdle 0 = true ∧ s.ymr.dieOn = true ∧
    (s.bay 0).clk.woke ≠ some s.clock.uptime ∧ (s.bay 0).clk.busyCyc + 4096 ≤ (s.bay 0).clk.cyc ∧
    s.clock.thrPin = false ∧ s.clock.thrSupply = false ∧ s.clock.sag = none ∧ s.clock.sagEnd + 1000000 ≤ s.clock.house := by
  decide +kernel

theorem wit_clockLost : let s : State := { Tests.up with clock := { Tests.up.clock with refLost := true, thrPin := true, thrSupply := true } }
    s.clock.refLost = true ∧ (∀ supply : Bool, (if supply then s.clock.thrSupply else s.clock.thrPin) = true) := by decide

-- EthernetPortFollowsItsRules
theorem wit_frame (v : Nat) (h : v = 6 ∨ v = 5) : let s := { Tests.up with eth := { Eth.reset with link := true } }
    let f : FrameInfo :=
      { forUs := true, vid := 0, prio := 5, ipVersion := v, ipBytes := 1000, fragment := false, src := 7, dst := 9, checksumOk := true,
        proto := .echo, bytes := [5] }
    s.ethUp = true ∧ s.frameOk f = decide (v = 6) := by
  rcases h with rfl | rfl <;> decide

def Tests.packet : TransPkt :=
  { peer := 7, cls := 3, conn := 0, data := true, ack := false, opening := true, psn := 0, ackPsn := 0, sack := 0, window := 0, xseq := 0,
    tagOk := true, version := 1, payload := [1] }

theorem wit_packet : let p := Tests.packet
    let s := { Tests.up with eth := { Eth.reset with link := true } }
    let u := { s with eth := { s.eth with conns := [Conn.fresh 7 3 0 true 0] } }
    PacketGood s p ∧ s.eth.find 7 3 0 = none ∧ s.eth.conns.length < 256 ∧ s.ymrUp = true ∧ s.canSign = true ∧
    PacketGood u { p with data := false, ack := true } ∧ u.eth.find 7 3 0 = some 0 ∧ u.eth.conns[0]? = some (Conn.fresh 7 3 0 true 0) ∧
    (Conn.fresh 7 3 0 true 0).missing p = [] := by
  exact ⟨⟨rfl, rfl, by decide, Or.inr rfl⟩, by decide, by decide, by decide, by decide, ⟨rfl, rfl, by decide, Or.inr rfl⟩, by decide, by decide, by decide⟩

theorem wit_timers (tries : Nat) (h : tries = 1 ∨ tries = 16) : let x : TxPkt := { psn := 0, payload := [1], sent := 0, tries := tries }
    let c := { Conn.fresh 7 3 0 true 0 with rxUnacked := 1, txUnacked := [x] }
    let s := { Tests.up with clock := { Tests.up.clock with house := 200000 }, eth := { Eth.reset with link := true, conns := [c] } }
    s.eth.conns[0]? = some c ∧ 0 < c.rxUnacked ∧ c.rxSince + 2000 ≤ s.clock.house ∧
    c.txUnacked.find? (fun x => decide (x.psn = 0)) = some x ∧ x.sent + 100000 ≤ s.clock.house := by
  rcases h with rfl | rfl <;> decide

theorem wit_egress (kind : Nat) (h : kind = 0 ∨ kind = 2 ∨ kind = 3) :
    let m : OutMsg := { kind := kind, cls := 7, peer := 7, conn := 0, psn := 0, payload := [1], ready := 0 }
    let s := { Tests.up with eth := { Eth.reset with link := true, conns := [Conn.fresh 7 7 0 true 0], egress := [m] } }
    s.ethUp = true ∧ s.eth.pick = some 0 ∧ s.eth.egress[0]? = some m ∧ s.eth.conns[0]? = some (Conn.fresh 7 7 0 true 0) ∧
    s.eth.find 7 7 0 = some 0 ∧ s.eth.connFor 7 7 0 = some 0 ∧ s.eth.connFor 8 7 0 = none ∧ s.canOpen 7 = true := by
  rcases h with rfl | rfl | rfl <;> decide

theorem wit_sync (d : PtpData) : let s := ({ Tests.up with eth := { Eth.reset with link := true } }.setReg (aEth 4) 0xC000)
    s.ethUp = true ∧ bit s.ethCfg 14 = true ∧ (0 : Byte).toNat = fld (s.reg (aEth 0x08)) 7 0 ∧ s.eth.ptpMaster = none ∧
    s.eth.ptpMaster.elim true (fun e => ptpBefore d e) = true ∧ bit s.ethCfg 15 = true ∧ s.clock.refLost = false :=
  ⟨by decide, by decide, by decide, by decide, rfl, by decide, by decide⟩

theorem wit_cluster (n : Nat) (h : n = 1 ∨ n = 2) :
    let m : CurtMsg := { kind := 1, curtain := 3, payload := 1, part := 0, epoch := 0, step := 0, cast := 9, src := 0 }
    let s := ({ Tests.up with eth := { Eth.reset with link := true } }).setCast 9
      { CastList.empty with ethernet := true, members := (linkLocal Tests.up.fuse.mac.toNat :: [77]).take n }
    let a : CurtSlice := { kind := 1, curtain := 3, payload := 1, part := 0, step := 0, epoch := 0, cast := 0, members := 1, uplink := some 9,
                           src := 0, cseq := 0, cack := 0, tagOk := true }
    s.ethUp = true ∧ (s.cast m.cast).ethernet = true ∧ m.epoch = (s.cast m.cast).epoch ∧ s.chain.arrives = [] ∧
    s.ownAddrs.contains ((s.cast m.cast).members.getD 0 0) = true ∧ (s.cast m.cast).members.length = n ∧
    ({ s with chain := { s.chain with arrives := [a] } } : State).arrivesAll a = true := by
  rcases h with rfl | rfl <;> decide

-- RequestsAboutTheModule
theorem wit_asksPlain (op : Byte) (need : Nat) (h : need ≤ 2000) :
    AsksPlain Tests.up (Tests.hdrOf op) op.toNat need ∧ Tests.up.canSign = true ∧ Tests.up.ymr.sessions = [] :=
  ⟨⟨show Tests.up.pcpReaches Tests.hdr = true by decide, rfl, rfl, rfl, Nat.le_refl _, Or.inl rfl, rfl, rfl, h, Or.inl rfl⟩, by decide, rfl⟩

theorem wit_asksRole (op : Byte) (need : Nat) (h : need ≤ 2000) (r : PcpRole) : Asks Tests.asked (Tests.hdrOf op) Tests.sess op.toNat r need :=
  ⟨show Tests.asked.pcpReaches Tests.hdr = true by decide, rfl, rfl, rfl, Nat.le_refl _, Or.inl rfl, rfl, rfl, rfl, rfl, by cases r <;> rfl, rfl,
    show Tests.hdr.sequence ≠ 0xFFFFFFFF by decide, by decide, h, Or.inl rfl⟩

theorem wit_sessionIdle : let s := { Tests.asked with clock := { Tests.asked.clock with house := 300000000000 } }
    s.ymrUp = true ∧ s.ymr.sessions[0]? = some Tests.sess ∧ Tests.sess.lastTime + 300000000000 ≤ s.now ∧ s.ymr.sessions.length < 16 := by decide

theorem wit_requestStatus : let u := Tests.asked.accept Tests.hdr Tests.sess
    u.regStatus Tests.hdr false (regAddrs (aBay 0 0x10) 1) = stOk ∧ u.regStatus Tests.hdr true (regAddrs (aBay 0 0x10) 1) = stOk ∧
    u.regStatus Tests.hdr false (regAddrs 1 1) = stRange ∧ u.memStatus Tests.hdr 1 1 = stRange ∧
    u.memStatus Tests.hdr spBase 1 = stOk ∧ (Tests.trained u).memStatus Tests.hdr 0x100 1 = stOk := by decide +kernel

theorem wit_firmware : (Tests.asked.fwBad Tests.asked.inactiveFw 5000).map Prod.snd = some stMalformed := by decide +kernel

-- RequestsAboutContexts
theorem wit_contextAsks (op : Byte) (r : PcpRole) (st need : Nat) (h : 0 < st ∧ st < 7) (hn : need ≤ 2000) :
    let s := Tests.asked.setCtx 0 0 { Context.free with st := st }
    Asks s (Tests.hdrOf op) Tests.sess op.toNat r need ∧ NamesCtx s (Tests.hdrOf op) ∧ (s.ctx 0 0).st = st := by
  have : st = 1 ∨ st = 2 ∨ st = 3 ∨ st = 4 ∨ st = 5 ∨ st = 6 := by omega
  have key : ∀ k, (k = 1 ∨ k = 2 ∨ k = 3 ∨ k = 4 ∨ k = 5 ∨ k = 6) → let s := Tests.asked.setCtx 0 0 { Context.free with st := k }
      s.pcpReaches Tests.hdr = true ∧ s.session Tests.hdr = some Tests.sess ∧ NamesCtx s Tests.hdr ∧ (s.ctx 0 0).st = k := by
    intro k hk
    rcases hk with rfl | rfl | rfl | rfl | rfl | rfl <;> exact ⟨by decide, by decide, ⟨⟨by decide, by decide⟩, by decide, by decide, by decide⟩, by decide⟩
  obtain ⟨h1, h2, h3, h4⟩ := key st this
  exact ⟨⟨h1, rfl, rfl, rfl, Nat.le_refl _, Or.inl rfl, rfl, rfl, rfl, h2, by cases r <;> rfl, rfl,
    show Tests.hdr.sequence ≠ 0xFFFFFFFF by decide, by decide, hn, Or.inl rfl⟩, ⟨⟨h3.part.exists_, h3.part.open_⟩, h3.ctx, h3.free, h3.reset⟩, h4⟩

theorem wit_loadBook : let s := Tests.trained (Tests.asked.setCtx 0 0 { Context.free with st := 1, hbmBase := 0, hbmSize := 0x100000 })
    let r := (s.accept Tests.hdr Tests.sess).readBlocks (blocksOf 0x1000 128)
    (s.ctx 0 0).hbmOk 0x1000 128 = true ∧ r.2 = none ∧ 0 + bkHbmNeed (s.memBytes 0x1000 128) ≤ 0x1000 ∧
    (r.1.loadChecks 0 (s.ctx 0 0) (s.memBytes 0x1000 128) 128).isSome = true := by decide +kernel

theorem wit_patchEntry : let b := { Tests.book with patches := [(0x400, 6, 1, 9)] }
    let s := Tests.asked.setCtx 0 0 { Context.free with st := 2, book := some b }
    [({ kind := 6, symbol := 9, value := 5 } : PatchEntry)].all s.patchEntryOk = true ∧
    [({ kind := 7, symbol := 9, value := 5 } : PatchEntry)].all s.patchEntryOk = false ∧
    b.patches.filter (fun q => decide (q.2.1 = 6) && decide (q.2.2.2 = 9)) = [(0x400, 6, 1, 9)] ∧ 0x400 + 16 ≤ spBase ∧
    (s.ctx 0 0).book = some b ∧ (s.ctx 0 0).allBound = false ∧ (Tests.asked.ctx 0 0).allBound = true := by decide +kernel

theorem wit_create : let s := (Tests.trained Tests.asked).accept Tests.hdr Tests.sess
    let a : CtxParams := { shape := 1, dress := false, parent := 0, hbmBase := 0, hbmSize := 0x1000, ddrBase := 0, ddrSize := 0, spFirst := 0,
                           spBytes := 0x1000, key := 0 }
    s.createStatus 0 1 a = stOk ∧ s.createStatus 0 1 { a with hbmSize := 1 } = stRange := by decide +kernel

theorem wit_castSet : let s := (Tests.exrec 4096).setCast 3 CastList.empty
    let t := { s with ymr := Tests.asked.ymr, chain := { s.chain with addr := some 0, count := 2 } }
    (t.accept Tests.hdr Tests.sess).castStatus 0 { cast := 3, ethernet := false, carry := false, deadline := 0, bind := 1, epoch := 1, uplink := none, members := [0, 1] }
      = stBusy ∧ ((t.setCtx 0 0 { t.ctx 0 0 with st := 2 }).accept Tests.hdr Tests.sess).castStatus 0
      { cast := 3, ethernet := false, carry := false, deadline := 0, bind := 1, epoch := 1, uplink := none, members := [0, 1] } = stOk ∧
    (t.xaddr 0 0).isSome = true ∧ NamesPart t Tests.hdr :=
  ⟨by decide +kernel, by decide +kernel, by decide +kernel, ⟨by decide +kernel, by decide +kernel⟩⟩

-- ChainLinksCarryTheirFlits
/-- The die on with ports w and e of its chain. -/
def Tests.ports (w e : ChainPort) : State := { Tests.up with chain := { Chain.reset with w := w, e := e, addr := some 1, count := 3, enumSt := 2 } }
def Tests.linkUp : ChainPort := { ChainPort.idle with up := true, trainedOnce := true }
def Tests.cflit (tagOk : Bool) : ChainFlit :=
  { seq := 0, ack := 0, nak := false, vl := 1, som := true, eom := true, islocal := true, len := 4, cvl := 0, credits := 0, dest := 2, src := 0,
    plain := [1, 2, 3, 4], tagOk := tagOk }
def Tests.cslice (kind : Nat) : CurtSlice :=
  { kind := kind, curtain := 3, payload := 1, part := 0, step := 0, epoch := 0, cast := 0, members := 1, uplink := none, src := 0, cseq := 1,
    cack := 0, tagOk := true }

theorem wit_chainUp : let s := Tests.ports Tests.linkUp Tests.linkUp
    s.portUp (isE .w) = true ∧ (s.port (isE .w)).txQueue = [] ∧ s.inter.phase ≠ 4 ∧
    s.chain.headPort = isE .w ∧ s.chain.head = false ∧ s.clock.refLost = false ∧ s.ymrUp = true ∧ s.canSign = true ∧ s.dieRuns = false ∧
    (s.port (isE .w)).sliceTx + 1 < 2 ^ 64 := by decide

theorem wit_flitRaw : let raw := flitBytes 0 []
    crcHolds raw = true ∧ (flitOf raw [] true).len = 0 ∧ crcHolds (1 :: raw) = false ∧ (flitOf raw [] true).nak = false ∧
    (flitOf raw [] true).cvl = 0 := by decide +kernel

theorem wit_message (tagOk : Bool) : let s := Tests.ports Tests.linkUp Tests.linkUp
    EndsMessage s (isE .w) (Tests.cflit tagOk) ∧ s.flitMine (Tests.cflit tagOk) = true ∧ (Tests.cflit tagOk).tagOk = tagOk ∧
    ((s.port (isE .w)).whole (Tests.cflit tagOk)).length ≤ 255 := by
  cases tagOk <;> exact ⟨⟨by decide, rfl, fun _ => by decide⟩, by decide, rfl, by decide⟩

theorem wit_slice (kind : Nat) : NextSlice (Tests.ports Tests.linkUp Tests.linkUp) (isE .w) (Tests.cslice kind) ∧ (Tests.cslice kind).kind = kind :=
  ⟨⟨by decide, rfl, rfl⟩, rfl⟩

theorem wit_chainSent (resends : Nat) (h : resends = 1 ∨ resends = 16) :
    let f : TxFlit := { seq := 0, vl := 1, som := true, eom := true, islocal := true, dest := 0, src := 0, part := [1], count := 0, off := 0, whole := [1], relay := false }
    let x := { Tests.linkUp with txUnacked := [f], resends := resends, curtOut := [(Tests.cslice 1, 0, 0)], txSeq := 1 }
    let s := { Tests.ports x Tests.linkUp with clock := { Tests.up.clock with house := 20000 } }
    s.portUp (isE .w) = true ∧ ackedBy (s.port (isE .w)).txUnacked (s.port (isE .w)).txSeq 0 = 0 ∧ (s.port (isE .w)).txUnacked ≠ [] ∧
    (s.port (isE .w)).curtOut.find? (fun y => decide (y.1.cseq = 1) && decide (y.2.2 + 500 ≤ s.clock.house)) = some (Tests.cslice 1, 0, 0) ∧
    (s.port (isE .w)).timeSent + 10000 ≤ s.clock.house := by
  rcases h with rfl | rfl <;> decide

theorem wit_chainDown (lost : Bool) : let x := { Tests.linkUp with up := false, lost := lost }
    let s := { Tests.ports x Tests.linkUp with clock := { Tests.up.clock with house := 1000000000 } }
    let u := { s with chain := { s.chain with isLoop := true } }
    (u.port (isE .w)).up = false ∧ (u.port (isE .w)).lost = lost ∧ (u.port (isE .w)).trainedOnce = true ∧ u.ymr.dieOn = true ∧
    (u.port (isE .w)).downSince + 1000000000 ≤ u.clock.house ∧ u.chain.addr = some 1 := by cases lost <;> decide

-- ChainsEnumerateAndClose
theorem wit_enumHead (st : Nat) (e : Bool) (h : st = 0 ∨ st = 1) : let c := (Tests.ports Tests.linkUp { ChainPort.idle with up := e }).chain
    let s := { Tests.up with chain := { c with head := true, enumSt := st, addr := some 0 }, clock := { Tests.up.clock with house := 5000000000 } }
    s.power = .ready ∧ s.chain.head = true ∧ s.chain.enumSt = st ∧ s.ymr.dieOn = true ∧ s.chain.e.up = e ∧ s.portUp false = true ∧ s.chain.w.up = true ∧
    s.chain.enumAt + 5000000000 ≤ s.clock.house := by rcases h with rfl | rfl <;> cases e <;> decide

theorem wit_enumAlone : let s := { Tests.up with chain := { Chain.reset with head := true }, clock := { Tests.up.clock with house := 60000000000 } }
    s.chain.e.up = false ∧ s.chain.w.up = false ∧ s.chain.enumAt + 1000000000 ≤ s.clock.house ∧ s.chain.enumSt = 0 ∧
    s.chain.enumAt + 60000000000 ≤ s.clock.house ∧ s.chain.addr = none := by decide

theorem wit_enumMember (e : Bool) : let s := Tests.ports Tests.linkUp { Tests.linkUp with up := e }
    s.portUp false = true ∧ s.portUp true = e ∧ s.chain.head = false ∧ s.chain.addr.isSome = true ∧ s.chain.e.up = e ∧
    ({ s with chain := { s.chain with addr := none } } : State).chain.addr = none := by cases e <;> decide

theorem wit_arriveRelease (head : Bool) : let s0 := Tests.ports Tests.linkUp Tests.linkUp
    let s := (({ s0 with chain := { s0.chain with head := head } } : State).setCast 0 { CastList.empty with members := [1] }).setCurtain 0 3
      { Curtain.off with held := true }
    NextSlice s (isE .e) (Tests.cslice 1) ∧ NextSlice s (isE .e) (Tests.cslice 2) ∧ s.chain.addr.isSome = true ∧
    ¬ (Tests.cslice 1).epoch.toNat < (s.cast 0).epoch.toNat ∧ s.chain.head = head ∧ s.chain.arrives = [] ∧ (Tests.cslice 1).members ≤ 0 + 1 ∧
    (s.memberOf 0).isSome = true ∧ (s.cast 0).ethernet = false ∧ (s.curtain 0 3).held = true := by
  cases head <;> exact ⟨⟨by decide, rfl, by decide⟩, ⟨by decide, rfl, by decide⟩, by decide, by decide, by decide, by decide, by decide, by decide, by decide, by decide⟩

-- RiskAccumulatorDecays
theorem wit_decay (on : Bool) : let s := { Tests.up with clock := { Tests.up.clock with house := 60000000000, uptime := 60000000000 },
                                                         ymr := { Tests.up.ymr with dieOn := on, riskE := 112 } }
    s.ymrUp = true ∧ s.ymr.decayed < (if s.ymr.dieOn then s.clock.house else s.clock.uptime) / 60000000000 := by cases on <;> decide

/-- The worked example of R394's section: ceil(112 / 8) = 14 off E. -/
theorem test_decay : Machine.exec .riskDecay { Tests.up with clock := { Tests.up.clock with house := 60000000000 }, ymr := { Tests.up.ymr with riskE := 112 } } =
    .next { Tests.up with clock := { Tests.up.clock with house := 60000000000 }, ymr := { Tests.up.ymr with riskE := 98, decayed := 1 } } := rfl

-- YemirWatchesAndAnswersTheTray
theorem wit_yemirUp (hot : Nat) (h : hot = 300 ∨ hot = 370 ∨ hot = 384) :
    let s := { Tests.up with clock := { Tests.up.clock with uptime := 1000000000, house := 1000000000 },
                             ymr := { Tests.up.ymr with owner := if hot = 384 then some 5 else none, thermE := 0x40,
                                                        sensors := { Sensors.reset with bayTemp := [(6, hot)] } } }
    s.ymrUp = true ∧ 0 < (s.therm true).cap ∧ (s.therm true).cap < 0x5A ∧ s.ymr.capW ≤ 0x5A ∧ s.ymr.capE ≤ 0x5A ∧
    (s.therm true).time + 100000000 ≤ s.now ∧ s.ymr.dieOn = true ∧ s.ymr.watchdogAt + 1000000000 ≤ s.clock.uptime ∧
    s.hottest ((List.range 48).filter (fun b => bayEast b == true)) = hot ∧
    s.ymr.owner.isSome = decide (hot = 384) ∧ s.liveCtxs.isEmpty = true ∧ (s.setCtx 0 0 { Context.free with st := 1 }).liveCtxs.isEmpty = false := by
  rcases h with rfl | rfl | rfl <;> decide +kernel

theorem wit_yemirOnly : let s := { Tests.up with power := .yemir, ymr := { Tests.up.ymr with inRom := true } }
    s.power = .yemir ∧ s.power ≠ .off ∧ s.ymr.inRom = true ∧ s.bootSlot true false = some false ∧ s.bootSlot false false = none := by decide

theorem wit_mail (k : Nat) (h : k = 0 ∨ k = 8) : let s := ({ (Tests.up.setCp 0 { CueProc.idle with mbxRetry := [[1]] }) with
      clock := { Tests.up.clock with house := 1000 } } : State).setMail 0 { Mailbox.reset 0 with entries := List.replicate k [2] }
    s.mbxOn = true ∧ (s.mail 0).entries.length = k ∧ (s.mail 0).doorbell = false ∧ (s.cp 0).mbxRetry = [1] :: [] ∧
    (s.cp 0).mbxAt + 1000 ≤ s.clock.house ∧
    ({ s with pins := { s.pins with i3cAddr := some 9 } } : State).i3cOn = true := by rcases h with rfl | rfl <;> decide

-- PowerComesAndGoes
theorem wit_powerOn : let s := { Tests.up with pins := { Tests.up.pins with pwrEn := false } }
    s.pins.pwrEn = false ∧ s.power ≠ .off ∧ s.ymr.dieOn = true ∧ s.clock.sag = none ∧
    ({ s.clock with sag := some (0, 4000) } : Clock).sag = some (0, 4000) := by decide

theorem wit_bootReady : let s := { Tests.up with power := .testing true true, clock := { Tests.up.clock with uptime := 60000000000 },
                                                 ymr := { Tests.up.ymr with slotB := { FwSlot.blank with pending := true } } }
    s.ymrUp = true ∧ s.poweringUp = true ∧ s.inactiveFw.pending = true ∧ s.ymr.bootAt + 60000000000 ≤ s.clock.uptime := by decide

-- ResetsRunToTheirEnd
/-- Context 0 of partition 0 in a state, under the owner's session. -/
def Tests.resetAsked (st : Nat) : State := Tests.asked.setCtx 0 0 { Context.free with st := st }

theorem wit_reset (level : BitVec 8) (h : level = 0 ∨ level = 1 ∨ level = 2 ∨ level = 3 ∨ level = 4 ∨ level = 5) (role : PcpRole)
    (hr : role = .tenant ∨ role = .owner) : let s := Tests.resetAsked 4
    AsksReset s { Tests.hdrOf 0x32 with body := [level, 0, 0, 0] } Tests.sess level.toNat role ∧ s.partExists 0 = true ∧ s.partExists 1 = false ∧
    (s.ctx 0 0).st = 4 ∧ s.ymr.busy = [] ∧ s.resets = [] ∧ s.bayActive 5 = true := by
  rcases h with rfl | rfl | rfl | rfl | rfl | rfl <;> rcases hr with rfl | rfl <;>
  exact ⟨⟨⟨by decide, by decide, by decide, by decide, by decide, by decide, by decide, by decide, by decide, by decide, by decide,
    by decide, by decide, by decide, by decide, by decide⟩, by decide⟩, by decide, by decide, by decide, by decide, by decide, by decide⟩

theorem wit_fence (level : Nat) (h : level = 0 ∨ level = 1 ∨ level = 2 ∨ level = 3 ∨ level = 4) :
    let r := { Tests.asked.newReset Tests.hdr level 0 0 0 with drained := level == 0 }
    let s := { Tests.asked with resets := [r], clock := { Tests.up.clock with house := 13000000000 } }
    (s.resets.find? (fun r => decide (1 ≤ r.level) && !r.drained) = if level = 0 then none else some r) ∧
    r.since + 100000 ≤ s.clock.house ∧ s.l0Of 0 0 = (if level = 0 then some r else none) ∧ r.since + 1000000 < s.clock.house ∧
    s.resets.find? (fun r => decide (r.since + resetLimit r.level < s.clock.house)) = some r ∧
    (level = 4 → ({ s with resets := [{ r with drained := true }] } : State).l4 = some { r with drained := true }) ∧ (s.requesters r).Nodup := by
  rcases h with rfl | rfl | rfl | rfl | rfl <;> decide +kernel

-- IntermissionsTakeSnapshots
/-- Context 0 in a state, with a complete snapshot of it in an own slot of 16 MiB. -/
def Tests.snapped (st phase : Nat) : State :=
  let s0 := Tests.asked.setCtx 0 0 { Context.free with st := st, book := some Tests.book }
  let s := { s0 with ymr := { s0.ymr with owner := some 5 } }
  let x := { s.takeImage 0 0 0x100000000000 0x1000000 with complete := true, sigOk := true }
  { s with inter := { s.inter with snaps := [x], phase := phase } }

theorem wit_intermission (st : Nat) (h : st = 1 ∨ st = 2 ∨ st = 4) : let s := Tests.snapped st 0
    Asks s (Tests.hdrOf 0x30) Tests.sess 0x30 .tenant 8 ∧ NamesCtx s (Tests.hdrOf 0x30) ∧ (s.ctx 0 0).st = st ∧ s.canSign = true ∧
    (s.accept (Tests.hdrOf 0x30) Tests.sess).draw.1.buddy = none ∧
    ((s.accept (Tests.hdrOf 0x30) Tests.sess).draw.1.nextSlot 0 0).isSome = true := by
  rcases h with rfl | rfl | rfl <;>
  exact ⟨⟨by decide, by decide, by decide, by decide, by decide, by decide, by decide, by decide, by decide, by decide, by decide,
    by decide, by decide, by decide, by decide, by decide⟩, ⟨⟨by decide, by decide⟩, by decide, by decide, by decide⟩, by decide, by decide,
    by decide, by decide +kernel⟩

theorem wit_interStop : let r : IReq := { part := 0, ctx := 0, cause := 0, copyHost := false, hdrs := [Tests.hdr], expires := some 5 }
    let s0 := Tests.snapped 2 2
    let s := { s0 with inter := { s0.inter with reqs := [r] }, clock := { s0.clock with house := 9 } }
    s.inter.reqs = [r] ∧ s.inter.phase = 2 ∧ s.ymrUp = true ∧ s.ymr.dieOn = true ∧ (s.ctx r.part r.ctx).st = 2 ∧ 5 < s.clock.house ∧
    s.nextSlot 0 0 = some (0x100000000000, 0x1000000) := by
  decide +kernel

/-- Without a reserve there is no place for a slot, wherever a free one is looked for. -/
theorem wit_noSlot (s : State) (h : s.reg (aFlt 0x2020) = 0) (p c n : Nat) (hn : 0 < n) (ho : s.ownSnap p c = none) : s.slotFor p c n = none := by
  have fit : ∀ a, s.slotFits p c a n = false := fun a => by
    simp only [State.slotFits, resvOf, h]
    simp [fld]
    omega
  simp [State.slotFor, ho, fit]

theorem wit_interNone : let r : IReq := { part := 0, ctx := 0, cause := 0, copyHost := false, hdrs := [Tests.hdr], expires := some 5 }
    let s0 := Tests.snapped 2 2
    let s : State := { s0 with inter := { s0.inter with reqs := [r], snaps := [] } }
    s.inter.phase = 2 ∧ s.ymrUp = true ∧ s.ymr.dieOn = true ∧ s.nextSlot 0 0 = none :=
  ⟨rfl, rfl, rfl, wit_noSlot _ (by decide) 0 0 _ (by decide +kernel) (by decide)⟩

theorem wit_interCopies (phase : Nat) (h : phase = 3 ∨ phase = 4 ∨ phase = 5) : let s0 := Tests.snapped 2 phase
    let s := { s0.setPart 0 { Partition.empty with seed := 7 } with chain := { Chain.reset with addr := some 0, count := 2 }, clock := { s0.clock with house := 1000000000 } }
    s.inter.phase = phase ∧ s.ymrUp = true ∧ s.ymr.dieOn = true ∧ (s.ownSnap s.inter.part s.inter.ctx).isSome = true ∧ s.buddy = some 1 ∧
    s.inter.part = 0 ∧ (s.part 0).seed ≠ 0 ∧ s.canSign = true ∧ s.inter.progressAt + 1000000000 ≤ s.clock.house := by
  rcases h with rfl | rfl | rfl <;> decide +kernel

theorem wit_restore : let s := Tests.snapped 2 0
    let u := s.accept (Tests.hdrOf 0x31) Tests.sess
    Asks s (Tests.hdrOf 0x31) Tests.sess 0x31 .tenant 8 ∧ NamesCtx s (Tests.hdrOf 0x31) ∧
    u.restoreStatus 0 0 (u.source 0 0 (Tests.asked.snapId 0 0)) = stOk :=
  ⟨⟨by decide, by decide, by decide, by decide, by decide, by decide, by decide, by decide, by decide, by decide, by decide,
    by decide, by decide, by decide, by decide, by decide⟩, ⟨⟨by decide, by decide⟩, by decide, by decide, by decide⟩, by decide +kernel⟩

-- ScratchpadWindowGeometry
theorem wit_geometry : 95 < 96 ∧ 63 < 64 ∧ 0x1FFFF < 0x20000 ∧ handBay (63 * 96 + 95) = 47 := by decide

-- IdentityCountsTheActiveBays
theorem wit_identity : fld (State.reset.regValue 0x0004) 15 8 = 48 := by decide

/-- The worked example of chapter 00: an AXL-OZR88-W with bays 15, 32, 38 and 43 fused off reads STATIONS = 0x2C. -/
theorem test_identity : let s := { State.reset with fuse := { State.reset.fuse with bayMask := 0xF7BEFFFF7FFF } }
    s.regValue 0x0008 = 0xFFFF7FFF ∧ s.regValue 0x000C = 0xF7BE ∧ fld (s.regValue 0x0004) 15 8 = 0x2C := by decide

end Sys2Proof.Machine
end

section
/-!
The family of chapter 00: the scratchpad window's geometry (R14, R16) and the identity block's count of active bays (R7).
-/
namespace Sys2Proof.Machine

/-! ### Stagehands, their bays and their slices -/

/-- A bay and a bay-local index name one stagehand: going to them and back leads to the same linear id. -/
@[simp] theorem handOf_handBay_handLocal (l : Nat) : handOf (handBay l) (handLocal l) = l := by
  simp only [handOf, handBay, handLocal]
  omega

/-- The bay of the stagehand at (x, y) of the logical grid (R16). -/
theorem handBay_of_xy {x : Nat} (y : Nat) (hx : x < 96) : handBay (y * 96 + x) = y / 16 * 12 + x / 8 := by
  have row : (y * 96 + x) / 96 = y := by omega
  have col : (y * 96 + x) % 96 = x := by omega
  simp only [handBay, row, col]

/-- The byte of the window at offset k of a stagehand's slice, from the bay's side (R14). -/
theorem spAddr_of_slice (l : Nat) {k : Nat} (hk : k < 0x20000) :
    spAddr (handBay l) (handLocal l * 0x20000 + k) = spBase + l * 0x20000 + k := by
  have slice : (handLocal l * 0x20000 + k) / 0x20000 = handLocal l := by omega
  have byte : (handLocal l * 0x20000 + k) % 0x20000 = k := by omega
  simp only [spAddr, slice, byte, handOf_handBay_handLocal]

/-- The same byte from the window's side. -/
theorem spBayOff_of_slice (l : Nat) {k : Nat} (hk : k < 0x20000) :
    spBayOff (spBase + l * 0x20000 + k) = (handBay l, handLocal l * 0x20000 + k) := by
  have hand : (spBase + l * 0x20000 + k - spBase) / 0x20000 = l := by omega
  have byte : (spBase + l * 0x20000 + k - spBase) % 0x20000 = k := by omega
  simp only [spBayOff, hand, byte]

/-- Settles O59: the linear id is taken apart into row and column, and a slice offset into slice and byte. -/
theorem scratchpadWindowGeometry : Obligations.ScratchpadWindowGeometry := by
  intro x y k hx hy hk
  have bay := handBay_of_xy y hx
  have inGrid : handBay (y * 96 + x) < 48 := by omega
  exact ⟨bay, inGrid, spAddr_of_slice _ hk, spBayOff_of_slice _ hk⟩

/-! ### Bits and fields of words -/

/-- Bit i of the low word of a number. -/
theorem bit_lo32 (n : Nat) {i : Nat} (hi : i < 32) : bit (lo32 n) i = n.testBit i := by
  rw [bit, lo32, BitVec.testBit_toNat, BitVec.getLsbD_ofNat, decide_eq_true hi, Bool.true_and]

/-- Bit i of the word above it. -/
theorem bit_hi32 (n : Nat) {i : Nat} (hi : i < 32) : bit (hi32 n) i = n.testBit (32 + i) := by
  rw [hi32, ← lo32, bit_lo32 _ hi, Nat.testBit_div_two_pow, Nat.add_comm]

/-- A field of two words or'ed together is the two words' fields or'ed together. -/
theorem fld_or (v w : Word) (hi lo : Nat) : fld (v ||| w) hi lo = fld v hi lo ||| fld w hi lo := by
  simp only [fld, BitVec.toNat_or, Nat.shiftRight_or_distrib, Nat.or_mod_two_pow]

/-- The elements below a + b that satisfy p: those below a, and those a further on. -/
theorem length_filter_range_add (p : Nat → Bool) (a b : Nat) :
    ((List.range (a + b)).filter p).length =
      ((List.range a).filter p).length + ((List.range b).filter (fun i => p (a + i))).length := by
  simp [List.range_add, List.filter_map, Function.comp_def]

/-! ### The identity block (Table 0.2) -/

/-- Number of bays that are active in this grade (R2). -/
def State.activeBays (s : State) : Nat := ((List.range 48).filter s.bayActive).length

theorem State.activeBays_le (s : State) : s.activeBays ≤ 48 := by
  simpa [State.activeBays] using List.length_filter_le s.bayActive (List.range 48)

theorem State.bayActive_eq_testBit (s : State) (b : Nat) : s.bayActive b = s.fuse.bayMask.toNat.testBit b := rfl

theorem State.regValue_bayMaskLo (s : State) : s.regValue 0x0008 = lo32 s.fuse.bayMask.toNat := rfl

theorem State.regValue_bayMaskHi (s : State) : s.regValue 0x000C = hi32 s.fuse.bayMask.toNat := rfl

/-- GBL_IDENT: the compiler contract, the stepping and the number of active bays, each in its byte. -/
theorem State.regValue_ident (s : State) :
    s.regValue 0x0004 = BitVec.ofNat 32 (1 % 2 ^ 8 * 2 ^ 24) ||| BitVec.ofNat 32 (s.fuse.stepping.toNat % 2 ^ 8 * 2 ^ 16) |||
      BitVec.ofNat 32 (s.activeBays % 2 ^ 8 * 2 ^ 8) := rfl

/-- STATIONS of GBL_IDENT is the number of active bays: it fits the field, and the fields above do not reach into it. -/
theorem State.stations_eq_activeBays (s : State) : fld (s.regValue 0x0004) 15 8 = s.activeBays := by
  have contract : fld (BitVec.ofNat 32 (1 % 2 ^ 8 * 2 ^ 24)) 15 8 = 0 := by decide
  have stepping : fld (BitVec.ofNat 32 (s.fuse.stepping.toNat % 2 ^ 8 * 2 ^ 16)) 15 8 = 0 := by
    simp only [fld, BitVec.toNat_ofNat, Nat.shiftRight_eq_div_pow]
    omega
  have stations : fld (BitVec.ofNat 32 (s.activeBays % 2 ^ 8 * 2 ^ 8)) 15 8 = s.activeBays := by
    have fits := s.activeBays_le
    simp only [fld, BitVec.toNat_ofNat, Nat.shiftRight_eq_div_pow]
    omega
  rw [s.regValue_ident, fld_or, fld_or, contract, stepping, stations, Nat.zero_or, Nat.zero_or]

theorem State.bayActive_of_48_le (s : State) {b : Nat} (hb : 48 ≤ b) : s.bayActive b = false :=
  BitVec.getLsbD_of_ge _ _ hb

/-- The set bits of GBL_BAYMASK_LO number the active bays 0 to 31. -/
theorem State.filter_bit_bayMaskLo (s : State) :
    (List.range 32).filter (fun i => bit (s.regValue 0x0008) i) = (List.range 32).filter s.bayActive :=
  List.filter_congr fun i hi => by
    rw [s.regValue_bayMaskLo, bit_lo32 _ (List.mem_range.mp hi), s.bayActive_eq_testBit]

/-- The set bits of GBL_BAYMASK_HI number the active bays from 32 on. -/
theorem State.filter_bit_bayMaskHi (s : State) :
    (List.range 32).filter (fun i => bit (s.regValue 0x000C) i) = (List.range 32).filter (fun i => s.bayActive (32 + i)) :=
  List.filter_congr fun i hi => by
    rw [s.regValue_bayMaskHi, bit_hi32 _ (List.mem_range.mp hi), s.bayActive_eq_testBit]

/-- Counting up to 64 counts no more bays than counting up to 48: the fuses hold no bay above 47. -/
theorem State.activeBays_eq_split (s : State) :
    ((List.range 32).filter s.bayActive).length + ((List.range 32).filter (fun i => s.bayActive (32 + i))).length =
      s.activeBays := by
  have none48 : (List.range 16).filter (fun i => s.bayActive (48 + i)) = [] :=
    List.filter_eq_nil_iff.mpr fun i _ => by simp [s.bayActive_of_48_le (Nat.le_add_right 48 i)]
  calc _ = ((List.range 64).filter s.bayActive).length := (length_filter_range_add s.bayActive 32 32).symm
    _ = s.activeBays + ((List.range 16).filter (fun i => s.bayActive (48 + i))).length :=
        length_filter_range_add s.bayActive 48 16
    _ = s.activeBays := by rw [none48, List.length_nil, Nat.add_zero]

/-- Where all 48 bays are active the fuses' mask is all ones. -/
theorem State.bayMask_eq_allOnes (s : State) (h : s.activeBays = 48) : s.fuse.bayMask = BitVec.allOnes 48 := by
  have all : ∀ b ∈ List.range 48, s.bayActive b = true := by
    rw [← List.length_filter_eq_length_iff, List.length_range]
    exact h
  refine BitVec.eq_of_getLsbD_eq fun b hb => ?_
  rw [BitVec.getLsbD_allOnes, decide_eq_true hb]
  exact all b (List.mem_range.mpr hb)

/-- Settles O60: both sides count the active bays, the two registers in two halves of 32. -/
theorem identityCountsTheActiveBays : Obligations.IdentityCountsTheActiveBays := by
  intro s
  refine ⟨?_, fun h => ?_⟩
  · rw [s.filter_bit_bayMaskLo, s.filter_bit_bayMaskHi, s.activeBays_eq_split, s.stations_eq_activeBays]
  · have mask := s.bayMask_eq_allOnes (s.stations_eq_activeBays ▸ h)
    rw [s.regValue_bayMaskLo, s.regValue_bayMaskHi, mask]
    decide

end Sys2Proof.Machine
end

section
/-!
The family of chapter 14: the decay of the event accumulator E of the risk score (R394).
-/
namespace Sys2Proof.Machine

/-- Number of 60 s multiples passed: of house time while the die rails are on, of Yemir uptime while they are off (R394). -/
def State.minuteMark (s : State) : Nat := (if s.ymr.dieOn then s.clock.house else s.clock.uptime) / 60000000000

/-- One mark taken: E loses an eighth, rounded up (R394). -/
def State.decayRisk (s : State) : State :=
  { s with ymr := { s.ymr with riskE := s.ymr.riskE - (s.ymr.riskE + 7) / 8, decayed := s.ymr.decayed + 1 } }

@[simp] theorem State.decayRisk_riskE (s : State) : s.decayRisk.ymr.riskE = s.ymr.riskE - (s.ymr.riskE + 7) / 8 := rfl

@[simp] theorem State.decayRisk_decayed (s : State) : s.decayRisk.ymr.decayed = s.ymr.decayed + 1 := rfl

/-- Taking a mark writes E and the count of marks, and nothing else. -/
theorem State.decayRisk_frame (s : State) : s.decayRisk =
    { s with ymr := { s.ymr with riskE := s.decayRisk.ymr.riskE, decayed := s.decayRisk.ymr.decayed } } := rfl

/-- What a mark takes off E: the eighth rounded up never exceeds E, so nothing is cut off at 0. -/
theorem State.riskE_sub_decayRisk (s : State) : s.ymr.riskE - s.decayRisk.ymr.riskE = (s.ymr.riskE + 7) / 8 := by
  rw [s.decayRisk_riskE]
  omega

/-- RISK_DECAY takes a mark when the firmware runs and one is due, and changes nothing otherwise. -/
theorem exec_riskDecay (s : State) : exec .riskDecay s =
    if s.ymrUp && decide (s.ymr.decayed < s.minuteMark) then .next s.decayRisk else idle s := rfl

theorem exec_riskDecay_of_mark_due {s : State} (up : s.ymrUp = true) (due : s.ymr.decayed < s.minuteMark) :
    exec .riskDecay s = .next s.decayRisk := by
  rw [exec_riskDecay, up, decide_eq_true due, Bool.and_self, if_pos rfl]

theorem exec_riskDecay_of_marks_taken {s : State} (taken : s.minuteMark ≤ s.ymr.decayed) :
    exec .riskDecay s = .next s := by
  rw [exec_riskDecay, decide_eq_false (Nat.not_lt.mpr taken), Bool.and_false, if_neg Bool.false_ne_true, idle_eq]

/-- With the die rails off the score has no term but E (R394). -/
theorem State.riskScore_of_rails_off {s : State} (off : s.ymr.dieOn = false) : s.riskScore = min 255 s.ymr.riskE := by
  simp [State.riskScore, off]

/-- Settles O54: a due mark takes the eighth (E + 7) / 8 off E, which lies between E / 8 and less than one above it. -/
theorem riskAccumulatorDecays : Obligations.RiskAccumulatorDecays := by
  intro s
  refine ⟨fun up due => ⟨s.decayRisk, exec_riskDecay_of_mark_due up due, ?_, ?_, s.decayRisk_decayed, s.decayRisk_frame⟩,
    exec_riskDecay_of_marks_taken, State.riskScore_of_rails_off⟩
  · rw [s.riskE_sub_decayRisk]
    omega
  · rw [s.riskE_sub_decayRisk]
    omega

end Sys2Proof.Machine
end

section
/-!
PROOFS. Two plain facts of the block as a whole: O1, O5.
-/
namespace Sys2Proof.Machine

-- One declaration after another: the whole text elaborated in parallel outgrows the memory of its check.
set_option Elab.async false

/-- Settles O1: a step takes the command in front by definition. -/
theorem frontCommandRuns : Obligations.FrontCommandRuns := fun _ _ => rfl

/-- Settles O5: the values of the reset state, read off its definition. -/
theorem resetState : Obligations.ResetState := by
  refine ⟨fun b => ⟨rfl, rfl, rfl, rfl, fun _ => rfl, fun _ _ => rfl, fun _ => rfl⟩, fun p c => ⟨rfl, rfl⟩, rfl, rfl,
    rfl, rfl, rfl, rfl, fun a => ?_⟩
  rfl

end Sys2Proof.Machine
end

section
/-!
Stagehands: the registers of a stagehand after a write, the results in flight, and what an instruction that issues
leaves (R133, R134, R145). The rules that O18 to O28 rest on.
-/
namespace Sys2Proof.Machine

-- One declaration after another: the whole text elaborated in parallel outgrows the memory of its check.
set_option Elab.async false

/-! ### Reading a register after a write -/

theorem Stagehand.getS_setS (h : Stagehand) (d r : Nat) (v : Word) :
    (h.setS d v).getS r = if r = d ∧ d ≠ 0 then v else h.getS r := by
  unfold Stagehand.setS Stagehand.getS
  by_cases hd : d = 0
  · simp [hd]
  · by_cases hr : r = d
    · subst hr; simp [hd, sget_sset_same]
    · simp [hd, hr, sget_sset_other]

theorem Stagehand.getV_setV (h : Stagehand) (d r : Nat) (x : BitVec 512) :
    (h.setV d x).getV r = if r = d then x else h.getV r := by
  unfold Stagehand.setV Stagehand.getV
  by_cases hr : r = d
  · subst hr; simp [sget_sset_same]
  · simp [hr, sget_sset_other]

theorem Stagehand.getP_setP (h : Stagehand) (d r : Nat) (x : Word) :
    (h.setP d x).getP r = if r = d ∧ d ≠ 0 then x else h.getP r := by
  unfold Stagehand.setP Stagehand.getP
  by_cases hd : d = 0
  · simp [hd]
  · by_cases hr : r = d
    · subst hr; simp [hd, sget_sset_same]
    · simp [hd, hr, sget_sset_other]

@[simp] theorem Stagehand.setS_v (h : Stagehand) (d : Nat) (v : Word) : (h.setS d v).v = h.v := by
  unfold Stagehand.setS; split <;> rfl

@[simp] theorem Stagehand.setS_p (h : Stagehand) (d : Nat) (v : Word) : (h.setS d v).p = h.p := by
  unfold Stagehand.setS; split <;> rfl

@[simp] theorem Stagehand.setS_flags (h : Stagehand) (d : Nat) (v : Word) : (h.setS d v).flags = h.flags := by
  unfold Stagehand.setS; split <;> rfl

@[simp] theorem Stagehand.setP_s (h : Stagehand) (d : Nat) (v : Word) : (h.setP d v).s = h.s := by
  unfold Stagehand.setP; split <;> rfl

@[simp] theorem Stagehand.setP_v (h : Stagehand) (d : Nat) (v : Word) : (h.setP d v).v = h.v := by
  unfold Stagehand.setP; split <;> rfl

@[simp] theorem Stagehand.setP_flags (h : Stagehand) (d : Nat) (v : Word) : (h.setP d v).flags = h.flags := by
  unfold Stagehand.setP; split <;> rfl

/-! ### Results in flight -/

/-- Two stagehands read alike: the same registers and flags. -/
structure SameRegs (g h : Stagehand) : Prop where
  s : g.s = h.s
  v : g.v = h.v
  p : g.p = h.p
  flags : g.flags = h.flags

theorem SameRegs.refl (h : Stagehand) : SameRegs h h := ⟨rfl, rfl, rfl, rfl⟩

theorem SameRegs.trans {a b c : Stagehand} (x : SameRegs a b) (y : SameRegs b c) : SameRegs a c :=
  ⟨x.s.trans y.s, x.v.trans y.v, x.p.trans y.p, x.flags.trans y.flags⟩

theorem SameRegs.symm {a b : Stagehand} (x : SameRegs a b) : SameRegs b a := ⟨x.s.symm, x.v.symm, x.p.symm, x.flags.symm⟩

theorem SameRegs.setS {g h : Stagehand} (e : SameRegs g h) (d : Nat) (v : Word) : SameRegs (g.setS d v) (h.setS d v) := by
  unfold Stagehand.setS
  split
  · exact e
  · exact ⟨by rw [e.s], e.v, e.p, e.flags⟩

theorem SameRegs.setV {g h : Stagehand} (e : SameRegs g h) (d : Nat) (x : BitVec 512) :
    SameRegs (g.setV d x) (h.setV d x) :=
  ⟨e.s, by simp only [Stagehand.setV, e.v], e.p, e.flags⟩

theorem SameRegs.setP {g h : Stagehand} (e : SameRegs g h) (d : Nat) (v : Word) : SameRegs (g.setP d v) (h.setP d v) := by
  unfold Stagehand.setP
  split
  · exact e
  · exact ⟨e.s, e.v, by rw [e.p], e.flags⟩

/-- A fold of writes keeps two stagehands alike. -/
theorem SameRegs.foldl {α : Type} {f : Stagehand → α → Stagehand}
    (step : ∀ {g h : Stagehand} (x : α), SameRegs g h → SameRegs (f g x) (f h x)) (l : List α) {g h : Stagehand}
    (e : SameRegs g h) : SameRegs (l.foldl f g) (l.foldl f h) := by
  induction l generalizing g h with
  | nil => exact e
  | cons x xs ih => exact ih (step x e)

theorem SameRegs.write {g h : Stagehand} (w : ShWrite) (e : SameRegs g h) : SameRegs (g.write w) (h.write w) := by
  unfold Stagehand.write
  dsimp only
  have a := SameRegs.foldl (f := fun h (r : Nat × Word) => h.setS r.1 r.2) (fun x e => e.setS x.1 x.2) w.s e
  have b := SameRegs.foldl (f := fun h (r : Nat × BitVec 512) => h.setV r.1 r.2) (fun x e => e.setV x.1 x.2) w.v a
  have c := SameRegs.foldl (f := fun h (r : Nat × Word) => h.setP r.1 r.2) (fun x e => e.setP x.1 x.2) w.p b
  exact ⟨c.s, c.v, c.p, by rw [c.flags]⟩

/-- Of a list's front that meets q, what meets p comes first when p implies q. -/
theorem takeWhile_split {α : Type} {p q : α → Bool} (pq : ∀ x, p x = true → q x = true) (l : List α) :
    l.takeWhile q = l.takeWhile p ++ (l.dropWhile p).takeWhile q := by
  induction l with
  | nil => rfl
  | cons x xs ih =>
    by_cases hp : p x = true
    · simp [hp, pq x hp, ih]
    · simp [hp]

theorem dropWhile_dropWhile {α : Type} {p q : α → Bool} (pq : ∀ x, p x = true → q x = true) (l : List α) :
    (l.dropWhile p).dropWhile q = l.dropWhile q := by
  induction l with
  | nil => rfl
  | cons x xs ih =>
    by_cases hp : p x = true
    · simp [hp, pq x hp, ih]
    · simp [hp]

/-- The results due with a new one of its cycle are the earlier ones and, behind them, the new one (R134). -/
theorem takeWhile_insertWrite (w : ShWrite) (l : List ShWrite) :
    (insertWrite w l).takeWhile (fun x => decide (x.due ≤ w.due)) = l.takeWhile (fun x => decide (x.due ≤ w.due)) ++ [w] := by
  induction l with
  | nil => simp [insertWrite]
  | cons x xs ih =>
    by_cases h : x.due ≤ w.due
    · simp [insertWrite, h, ih]
    · simp [insertWrite, h]

theorem foldl_write_flight (l : List ShWrite) (h : Stagehand) (fl : List ShWrite) :
    SameRegs (l.foldl Stagehand.write { h with flight := fl }) (l.foldl Stagehand.write h) :=
  SameRegs.foldl (fun w e => e.write w) l ⟨rfl, rfl, rfl, rfl⟩

theorem SameRegs.landed {g h : Stagehand} (e : SameRegs g h) (fl : g.flight = h.flight) (k : Nat) :
    SameRegs (g.landed k) (h.landed k) := by
  unfold Stagehand.landed
  rw [fl]
  have a := SameRegs.foldl (fun w e => SameRegs.write w e) (h.flight.takeWhile fun w => decide (w.due ≤ k)) e
  exact ⟨a.s, a.v, a.p, a.flags⟩

/-- What is due by a cycle is due by a later one: looking twice changes nothing. -/
theorem Stagehand.landed_landed (h : Stagehand) {j k : Nat} (jk : j ≤ k) : SameRegs ((h.landed j).landed k) (h.landed k) := by
  have le : ∀ w : ShWrite, decide (w.due ≤ j) = true → decide (w.due ≤ k) = true := by
    intro w hw
    simp only [decide_eq_true_eq] at hw ⊢
    omega
  have a := foldl_write_flight ((h.flight.dropWhile fun w => decide (w.due ≤ j)).takeWhile fun w => decide (w.due ≤ k))
    ((h.flight.takeWhile fun w => decide (w.due ≤ j)).foldl Stagehand.write h) (h.flight.dropWhile fun w => decide (w.due ≤ j))
  rw [← List.foldl_append, ← takeWhile_split le] at a
  exact ⟨a.s, a.v, a.p, a.flags⟩

/-- With one more result in flight, the stagehand in that result's cycle is as without it, the result written last. -/
theorem Stagehand.landed_insert {g h : Stagehand} {w : ShWrite} (e : SameRegs g h) (fl : g.flight = insertWrite w h.flight) :
    SameRegs (g.landed w.due) ((h.landed w.due).write w) := by
  have a := SameRegs.foldl (fun w e => SameRegs.write w e) (h.flight.takeWhile fun x : ShWrite => decide (x.due ≤ w.due)) e
  have b := (a.write w).trans (SameRegs.write w (foldl_write_flight [] _ (h.flight.dropWhile fun x : ShWrite => decide (x.due ≤ w.due))).symm)
  unfold Stagehand.landed
  rw [fl, takeWhile_insertWrite, List.foldl_append]
  exact ⟨b.s, b.v, b.p, b.flags⟩

/-! ### What writing results leaves of the rest of a stagehand -/

@[simp] theorem sameRun.refl (h : Stagehand) : sameRun h h := ⟨rfl, rfl, rfl, rfl, rfl, rfl, rfl, rfl, rfl, rfl⟩

/-- Two stagehands run alike: at the same word, with the same loop, store and state of waiting. -/
structure RunsAs (h g : Stagehand) : Prop where
  run : sameRun h g
  pc : g.pc = h.pc
  loop : g.loop = h.loop
  issue : g.issue = h.issue

theorem RunsAs.refl (h : Stagehand) : RunsAs h h := ⟨sameRun.refl h, rfl, rfl, rfl⟩

theorem sameRun.trans {a b c : Stagehand} (x : sameRun a b) (y : sameRun b c) : sameRun a c := by
  obtain ⟨x1, x2, x3, x4, x5, x6, x7, x8, x9, x10⟩ := x
  obtain ⟨y1, y2, y3, y4, y5, y6, y7, y8, y9, y10⟩ := y
  exact ⟨y1.trans x1, y2.trans x2, y3.trans x3, y4.trans x4, y5.trans x5, y6.trans x6, y7.trans x7, y8.trans x8,
    y9.trans x9, y10.trans x10⟩

theorem RunsAs.trans {a b c : Stagehand} (x : RunsAs a b) (y : RunsAs b c) : RunsAs a c :=
  ⟨x.run.trans y.run, y.pc.trans x.pc, y.loop.trans x.loop, y.issue.trans x.issue⟩

theorem RunsAs.foldl {α : Type} {f : Stagehand → α → Stagehand} (step : ∀ h x, RunsAs h (f h x)) (l : List α) (h : Stagehand) :
    RunsAs h (l.foldl f h) := by
  induction l generalizing h with
  | nil => exact .refl h
  | cons x xs ih => exact (step h x).trans (ih _)

theorem RunsAs.setS (h : Stagehand) (d : Nat) (v : Word) : RunsAs h (h.setS d v) := by
  unfold Stagehand.setS
  split
  · exact .refl h
  · exact ⟨sameRun.refl h, rfl, rfl, rfl⟩

theorem RunsAs.setP (h : Stagehand) (d : Nat) (v : Word) : RunsAs h (h.setP d v) := by
  unfold Stagehand.setP
  split
  · exact .refl h
  · exact ⟨sameRun.refl h, rfl, rfl, rfl⟩

theorem RunsAs.write (h : Stagehand) (w : ShWrite) : RunsAs h (h.write w) := by
  have a := RunsAs.foldl (f := fun h (r : Nat × Word) => h.setS r.1 r.2) (fun h _ => .setS h _ _) w.s h
  have b := a.trans (RunsAs.foldl (f := fun h (r : Nat × BitVec 512) => h.setV r.1 r.2)
    (fun h _ => ⟨sameRun.refl h, rfl, rfl, rfl⟩) w.v _)
  have c := b.trans (RunsAs.foldl (f := fun h (r : Nat × Word) => h.setP r.1 r.2) (fun h _ => .setP h _ _) w.p _)
  exact ⟨c.run, c.pc, c.loop, c.issue⟩

theorem RunsAs.landed (h : Stagehand) (k : Nat) : RunsAs h (h.landed k) := by
  unfold Stagehand.landed
  exact .trans (RunsAs.foldl RunsAs.write _ h) ⟨sameRun.refl _, rfl, rfl, rfl⟩

theorem RunsAs.issuer (s : State) (l : Nat) : RunsAs (s.hand l) (s.issuer l) := .landed _ _

theorem sameRun_nextPc (h : Stagehand) : sameRun h h.nextPc := by
  unfold Stagehand.nextPc
  repeat' split
  all_goals exact sameRun.refl h

theorem SameRegs.nextPc (h : Stagehand) : SameRegs h.nextPc h := by
  unfold Stagehand.nextPc
  repeat' split
  all_goals exact ⟨rfl, rfl, rfl, rfl⟩

@[simp] theorem Stagehand.nextPc_flight (h : Stagehand) : h.nextPc.flight = h.flight := by
  unfold Stagehand.nextPc
  repeat' split
  all_goals rfl

@[simp] theorem Stagehand.nextPc_issue (h : Stagehand) : h.nextPc.issue = h.issue := by
  unfold Stagehand.nextPc
  repeat' split
  all_goals rfl

/-- Where a stagehand goes on depends on its pc and its loop only. -/
theorem movesOn_nextPc {h g : Stagehand} (pc : g.pc = h.pc) (loop : g.loop = h.loop) : movesOn h g.nextPc := by
  unfold movesOn Stagehand.nextPc
  rw [pc, loop]
  repeat' split
  all_goals exact ⟨rfl, rfl⟩

/-! ### An instruction that writes a result and moves on -/

/-- Only stagehand l changes when it takes another value. -/
theorem OnlyHand.setHand (s : State) (l : Nat) (x : Stagehand) : OnlyHand s (s.setHand l x) l :=
  ⟨rfl, fun k hk => State.hand_setHand_other s l x k hk⟩

@[simp] theorem State.setHand_setHand (s : State) (l : Nat) (x y : Stagehand) : (s.setHand l x).setHand l y = s.setHand l y := by
  simp [State.setHand]

/-- The stagehand that issues, with result w in flight, has moved on. -/
def State.wrote (s : State) (l : Nat) (w : ShWrite) : Stagehand :=
  ({ s.issuing l with flight := insertWrite w (s.issuing l).flight } : Stagehand).nextPc

theorem movedOn_wrote (s : State) (l : Nat) (w : ShWrite) : MovedOn s (s.setHand l (s.wrote l w)) l := by
  have r := RunsAs.issuer s l
  refine ⟨?_, ?_, ?_⟩
  · rw [State.hand_setHand_same]
    exact (r.run.trans (sameRun.refl _)).trans (sameRun_nextPc _)
  · rw [State.hand_setHand_same]
    exact movesOn_nextPc rfl rfl
  · rw [State.hand_setHand_same]
    exact Stagehand.nextPc_issue _

/-- In the cycle of its result, a stagehand whose result w is in flight reads as it would without the instruction, the result
written last. -/
theorem handAt_flight {s t : State} {l : Nat} {w : ShWrite} (later : s.issueAt l ≤ w.due) (regs : SameRegs (t.hand l) (s.issuer l))
    (fl : (t.hand l).flight = insertWrite w (s.issuer l).flight) : SameRegs (t.handAt l w.due) ((s.handAt l w.due).write w) :=
  (Stagehand.landed_insert regs fl).trans (((s.hand l).landed_landed later).write w)

theorem handAt_wrote (s : State) (l : Nat) (w : ShWrite) (later : s.issueAt l ≤ w.due) :
    SameRegs ((s.setHand l (s.wrote l w)).handAt l w.due) ((s.handAt l w.due).write w) := by
  refine handAt_flight later ?_ ?_
  · rw [State.hand_setHand_same]
    exact (SameRegs.nextPc { s.issuing l with flight := insertWrite w (s.issuing l).flight }).trans ⟨rfl, rfl, rfl, rfl⟩
  · rw [State.hand_setHand_same]
    exact Stagehand.nextPc_flight _

theorem flags_clear_none (f : StickyFlags) : f &&& ~~~0 = f := BitVec.and_allOnes

theorem flags_or_none (f : StickyFlags) : f ||| 0 = f := BitVec.or_zero

/-- A write of one scalar register. -/
theorem putsS_write {g h : Stagehand} {w : ShWrite} {d : Nat} {u v : Word} (e : SameRegs g (h.write w)) (hs : w.s = [(d, u)])
    (hu : d ≠ 0 → u = v)
    (hv : w.v = []) (hp : w.p = []) (hf : w.flags = 0) (hc : w.clear = 0) : PutsS h g d v := by
  have wr : h.write w = h.setS d u := by
    simp only [Stagehand.write, hs, hv, hp, hf, hc, List.foldl_cons, List.foldl_nil, flags_clear_none, flags_or_none]
  have getS : ∀ r, g.getS r = (h.setS d u).getS r := fun r => by rw [Stagehand.getS, e.s, wr]; rfl
  refine ⟨?_, fun r hr => ?_, fun r => ?_, fun r => ?_, ?_⟩
  · rw [getS, Stagehand.getS_setS]
    by_cases hd : d = 0
    · simp [hd, Stagehand.getS]
    · simp [hd, hu hd]
  · rw [getS, Stagehand.getS_setS]
    simp [hr]
  · rw [Stagehand.getV, e.v, wr]
    simp [Stagehand.getV]
  · rw [Stagehand.getP, e.p, wr]
    simp [Stagehand.getP]
  · rw [e.flags, wr, Stagehand.setS_flags]

/-- A write of one vector register, with flags set. -/
theorem putsV_write {g h : Stagehand} {w : ShWrite} {d : Nat} {x : BitVec 512} {f : StickyFlags} (e : SameRegs g (h.write w))
    (hs : w.s = []) (hv : w.v = [(d, x)]) (hp : w.p = []) (hf : w.flags = f) (hc : w.clear = 0) : PutsV h g d x f := by
  have wr : h.write w = { h.setV d x with flags := h.flags ||| f } := by
    simp only [Stagehand.write, hs, hv, hp, hf, hc, List.foldl_cons, List.foldl_nil, flags_clear_none]
    rfl
  refine ⟨?_, fun r hr => ?_, fun r => ?_, fun r => ?_, ?_⟩
  · rw [Stagehand.getV, e.v, wr]
    exact (Stagehand.getV_setV h d d x).trans (if_pos rfl)
  · rw [Stagehand.getV, e.v, wr]
    exact (Stagehand.getV_setV h d r x).trans (if_neg hr)
  · rw [Stagehand.getS, e.s, wr]; rfl
  · rw [Stagehand.getP, e.p, wr]; rfl
  · rw [e.flags, wr]

/-- A write of nothing. -/
theorem putsNothing_of_same {g h : Stagehand} (e : SameRegs g h) : PutsNothing h g :=
  ⟨fun r => by rw [Stagehand.getS, e.s]; rfl, fun r => by rw [Stagehand.getV, e.v]; rfl, fun r => by rw [Stagehand.getP, e.p]; rfl, e.flags⟩

/-- The result that `Stagehand.put` puts in flight. -/
def putWrite (h : Stagehand) (f : ShFields) (lat : Nat) (upd : Stagehand → Stagehand) : ShWrite :=
  let g := upd { h with flags := 0 }
  { due := h.issue - 1 + lat
    s := (shDests f).filterMap (fun r => match r with | .s k => some (k, g.getS k) | _ => none)
    v := (shDests f).filterMap (fun r => match r with | .v k => some (k, g.getV k) | _ => none)
    p := (shDests f).filterMap (fun r => match r with | .p k => some (k, g.getP k) | _ => none)
    flags := g.flags, clear := 0, load := false, store := false, words := [], ask := 0, age := 0 }

theorem put_eq (h : Stagehand) (f : ShFields) (lat : Nat) (upd : Stagehand → Stagehand) :
    h.put f lat upd = { h with flight := insertWrite (putWrite h f lat upd) h.flight } := rfl

/-- What the instruction f of stagehand l puts in flight, by the update that its result is. -/
def State.result (s : State) (l : Nat) (f : ShFields) (lat : Nat) (upd : Stagehand → Stagehand) : ShWrite :=
  putWrite (s.issuing l) f lat upd

theorem State.result_due (s : State) (l : Nat) (f : ShFields) (lat : Nat) (upd : Stagehand → Stagehand) :
    (s.result l f lat upd).due = s.issueAt l + lat := rfl

theorem put_nextPc (s : State) (l : Nat) (f : ShFields) (lat : Nat) (upd : Stagehand → Stagehand) :
    ((s.issuing l).put f lat upd).nextPc = s.wrote l (s.result l f lat upd) := rfl

/-- An instruction whose result is the update upd, in flight for lat cycles, and that moves on. -/
theorem shIssue_puts {s : State} {l opc lat : Nat} {f : ShFields} {body : ShFields → State → ShRes} {upd : Stagehand → Stagehand}
    (h : Issues s l opc f)
    (b : body f (s.setHand l (s.issuing l)) = .done (s.setHand l ((s.issuing l).put f lat upd).nextPc)) :
    ∃ t, shIssue opc body l s = .next t ∧ OnlyHand s t l ∧ MovedOn s t l ∧
      SameRegs (t.handAt l (s.issueAt l + lat)) ((s.handAt l (s.issueAt l + lat)).write (s.result l f lat upd)) :=
  ⟨_, shIssue_done h b, .setHand .., movedOn_wrote .., handAt_wrote s l (s.result l f lat upd) (Nat.le_add_right ..)⟩

/-- A register form does so at its contract latency. -/
theorem shReg_puts {s : State} {l opc : Nat} {f : ShFields} {upd : ShFields → Stagehand → Stagehand} (h : Issues s l opc f) :
    ∃ t, shReg opc upd l s = .next t ∧ OnlyHand s t l ∧ MovedOn s t l ∧
      SameRegs (t.handAt l (s.issueAt l + shLatency opc))
        ((s.handAt l (s.issueAt l + shLatency opc)).write (s.result l f (shLatency opc) (upd f))) :=
  shIssue_puts h (by simp)

end Sys2Proof.Machine
end

section
/-!
Stagehands, the register forms: scalar results, branches, loops, NOP and CLRFL (O18 to O20).
-/
namespace Sys2Proof.Machine

-- One declaration after another: the whole text elaborated in parallel outgrows the memory of its check.
set_option Elab.async false

/-! ### Where a result goes, by opcode -/

/-- Stagehand l as an update reads it: at issue, with its flags apart. -/
def State.blank (s : State) (l : Nat) : Stagehand := { s.issuing l with flags := 0 }

theorem State.getS_blank (s : State) (l r : Nat) : (s.blank l).getS r = (s.issuer l).getS r := by
  unfold State.blank State.issuing Stagehand.getS
  dsimp only

theorem State.getV_blank (s : State) (l r : Nat) : (s.blank l).getV r = (s.issuer l).getV r := by
  unfold State.blank State.issuing Stagehand.getV
  dsimp only

theorem State.getP_blank (s : State) (l r : Nat) : (s.blank l).getP r = (s.issuer l).getP r := by
  unfold State.blank State.issuing Stagehand.getP
  dsimp only

/-- The opcodes whose one result goes to the scalar register D (Table 5.3). -/
def scalarDest (opc : Nat) : Bool :=
  (0x01 ≤ opc && opc ≤ 0x18) || opc == 0x26 || opc == 0x27 || (0x30 ≤ opc && opc ≤ 0x34) || opc == 0x50 || opc == 0x51 ||
    opc == 0x53 || opc == 0x64 || opc == 0x70

theorem shDests_scalar {f : ShFields} {opc : Nat} (o : f.opc = opc) (d : scalarDest opc = true) : shDests f = [.s f.d] := by
  subst o
  simp only [scalarDest, Bool.or_eq_true, Bool.and_eq_true, decide_eq_true_eq, beq_iff_eq] at d
  unfold shDests
  exact if_pos (by omega)

/-- The result of an update that writes the scalar register D. -/
theorem putsS_result {s : State} {l lat : Nat} {f : ShFields} {upd : Stagehand → Stagehand} {v : Word} {g h : Stagehand}
    (d : shDests f = [.s f.d]) (u : upd (s.blank l) = (s.blank l).setS f.d v)
    (e : SameRegs g (h.write (s.result l f lat upd))) : PutsS h g f.d v := by
  refine putsS_write e (u := (upd (s.blank l)).getS f.d) ?_ ?_ ?_ ?_ ?_ rfl
  · simp only [State.result, putWrite, d, List.filterMap_cons, List.filterMap_nil, State.blank]
  · intro hd
    rw [u, Stagehand.getS_setS, if_pos ⟨rfl, hd⟩]
  · simp only [State.result, putWrite, d, List.filterMap_cons, List.filterMap_nil]
  · simp only [State.result, putWrite, d, List.filterMap_cons, List.filterMap_nil]
  · have flags : (upd (s.blank l)).flags = 0 := by rw [u, Stagehand.setS_flags]; rfl
    exact flags

/-- A register form that writes D: D takes the value, and nothing else changes. -/
theorem shReg_putsS {s : State} {l opc lat : Nat} {f : ShFields} {upd : ShFields → Stagehand → Stagehand} {v : Word}
    (h : Issues s l opc f) (dest : scalarDest opc = true) (late : shLatency opc = lat)
    (u : upd f (s.blank l) = (s.blank l).setS f.d v) :
    ∃ t, shReg opc upd l s = .next t ∧ OnlyHand s t l ∧ MovedOn s t l ∧
      PutsS (s.handAt l (s.issueAt l + lat)) (t.handAt l (s.issueAt l + lat)) f.d v := by
  subst late
  obtain ⟨t, ht, only, moved, regs⟩ := shReg_puts (upd := upd) h
  exact ⟨t, ht, only, moved, putsS_result (shDests_scalar h.opcode dest) u regs⟩

/-- RDFL reads the flags as written by its issue. -/
theorem execRdfl_puts {s : State} {l : Fin 6144} {f : ShFields} (h : Issues s l 0x70 f) :
    ∃ t, execRdfl l s = .next t ∧ OnlyHand s t l ∧ MovedOn s t l ∧
      PutsS (s.handAt l (s.issueAt l + 1)) (t.handAt l (s.issueAt l + 1)) f.d ((s.issuer l).flags.setWidth 32) := by
  have b := shIssue_puts (lat := 1) (upd := fun g => g.setS f.d ((s.issuing l).flags.setWidth 32))
    (body := fun f s => .done (s.setHand l ((s.hand l).put f 1 (fun g => g.setS f.d ((s.hand l).flags.setWidth 32))).nextPc)) h
    (by simp)
  obtain ⟨t, ht, only, moved, regs⟩ := b
  exact ⟨t, ht, only, moved, putsS_result (shDests_scalar h.opcode rfl) rfl regs⟩

theorem opSlt_eq (a b : Word) : opSlt a b = if a.toInt < b.toInt then 1 else 0 := by simp [opSlt, BitVec.slt]

theorem opSltu_eq (a b : Word) : opSltu a b = if a.toNat < b.toNat then 1 else 0 := by simp [opSltu, BitVec.ult]

/-- A shift amount is the low five bits of an immediate (Table 5.3). -/
theorem shiftImm_eq (i : Int) : (BitVec.ofInt 32 i).toNat % 32 = (i % 32).toNat := by
  rw [BitVec.toNat_ofInt]
  omega

theorem mul_eq (a b : Word) : a * b = BitVec.ofNat 32 (a.toNat * b.toNat) := by
  apply BitVec.eq_of_toNat_eq
  simp [BitVec.toNat_mul]

/-- The immediate of a word has fourteen bits with its sign (Table 5.2). -/
theorem signed_bounds (n v : Nat) (pos : 0 < n) : -(2 ^ (n - 1) : Int) ≤ signed n v ∧ signed n v < (2 ^ (n - 1) : Int) := by
  obtain ⟨m, rfl⟩ := Nat.exists_eq_succ_of_ne_zero (Nat.pos_iff_ne_zero.mp pos)
  have lt : v % 2 ^ (m + 1) < 2 ^ (m + 1) := Nat.mod_lt _ (Nat.two_pow_pos _)
  have dbl : 2 ^ (m + 1) = 2 * 2 ^ m := Nat.pow_succ'
  have cast : ((2 ^ m : Nat) : Int) = (2 : Int) ^ m := by push_cast; rfl
  unfold signed
  simp only [Nat.succ_eq_add_one, Nat.add_sub_cancel, ← cast]
  split <;> omega

theorem Issues.imm_bounds {s : State} {l opc : Nat} {f : ShFields} (h : Issues s l opc f) : -8192 ≤ f.imm ∧ f.imm < 8192 := by
  rw [← h.word]
  exact signed_bounds 14 _ (by decide)

/-- An immediate reads the same as a word. -/
theorem Issues.imm_toInt {s : State} {l opc : Nat} {f : ShFields} (h : Issues s l opc f) : (BitVec.ofInt 32 f.imm).toInt = f.imm := by
  have b := h.imm_bounds
  rw [BitVec.toInt_ofInt]
  exact Int.bmod_eq_of_le (by omega) (by omega)

/-- What O18 says of a row of Table 5.3. -/
def ScalarForm (mk : Fin 6144 → Instr) (opc lat : Nat) (val : Stagehand → ShFields → Word) : Prop :=
  ∀ (s : State) (l : Fin 6144) (f : ShFields), Issues s l opc f →
    ∃ t, Machine.exec (mk l) s = .next t ∧ OnlyHand s t l ∧ MovedOn s t l ∧
      PutsS (s.handAt l (s.issueAt l + lat)) (t.handAt l (s.issueAt l + lat)) f.d (val (s.issuer l) f)

/-- A row whose command is a register form that writes its result to D. -/
theorem ScalarForm.reg {mk : Fin 6144 → Instr} {opc lat : Nat} {val : Stagehand → ShFields → Word}
    {upd : ShFields → Stagehand → Stagehand} (e : ∀ l s, exec (mk l) s = shReg opc upd l s)
    (u : ∀ s l f, Issues s l opc f →
      upd f (s.blank l) = (s.blank l).setS f.d (val (s.issuer l) f))
    (dest : scalarDest opc = true := by rfl) (late : shLatency opc = lat := by rfl) : ScalarForm mk opc lat val := by
  intro s l f h
  rw [e]
  exact shReg_putsS h dest late (u s l f h)

/-- A row of two register operands. -/
theorem ScalarForm.alu {mk : Fin 6144 → Instr} {opc lat : Nat} {op : Word → Word → Word} {val : Stagehand → ShFields → Word}
    (e : ∀ l s, exec (mk l) s = shAlu opc op l s) (o : ∀ h f, op (h.getS f.a) (h.getS f.b) = val h f)
    (dest : scalarDest opc = true := by rfl) (late : shLatency opc = lat := by rfl) : ScalarForm mk opc lat val :=
  .reg e (fun s l f _ => by rw [State.getS_blank, State.getS_blank, o]) dest late

/-- A row of a register and an immediate. -/
theorem ScalarForm.aluImm {mk : Fin 6144 → Instr} {opc lat : Nat} {op : Word → Word → Word} {val : Stagehand → ShFields → Word}
    (e : ∀ l s, exec (mk l) s = shAluImm opc op l s)
    (o : ∀ s l f, Issues s l opc f → op ((s.issuer l).getS f.a) (BitVec.ofInt 32 f.imm) = val (s.issuer l) f)
    (dest : scalarDest opc = true := by rfl) (late : shLatency opc = lat := by rfl) : ScalarForm mk opc lat val :=
  .reg e (fun s l f h => by rw [State.getS_blank, o s l f h]) dest late

/-- Every row of the table is one. -/
theorem scalarRows_forms : ∀ r ∈ scalarRows, ScalarForm r.1 r.2.1 r.2.2.1 r.2.2.2 := by
  simp only [scalarRows, List.forall_mem_cons]
  exact ⟨
    .alu (op := (· + ·)) (fun _ _ => rfl) fun _ _ => rfl, .alu (op := (· - ·)) (fun _ _ => rfl) fun _ _ => rfl,
    .alu (op := (· &&& ·)) (fun _ _ => rfl) fun _ _ => rfl, .alu (op := (· ||| ·)) (fun _ _ => rfl) fun _ _ => rfl,
    .alu (op := (· ^^^ ·)) (fun _ _ => rfl) fun _ _ => rfl, .alu (op := opSll) (fun _ _ => rfl) fun _ _ => rfl,
    .alu (op := opSrl) (fun _ _ => rfl) fun _ _ => rfl, .alu (op := opSra) (fun _ _ => rfl) fun _ _ => rfl,
    .alu (op := opSlt) (fun _ _ => rfl) fun _ _ => opSlt_eq .., .alu (op := opSltu) (fun _ _ => rfl) fun _ _ => opSltu_eq ..,
    .alu (op := (· * ·)) (fun _ _ => rfl) fun _ _ => mul_eq .., .aluImm (op := (· + ·)) (fun _ _ => rfl) fun _ _ _ _ => rfl,
    .aluImm (op := (· &&& ·)) (fun _ _ => rfl) fun _ _ _ _ => rfl, .aluImm (op := (· ||| ·)) (fun _ _ => rfl) fun _ _ _ _ => rfl,
    .aluImm (op := (· ^^^ ·)) (fun _ _ => rfl) fun _ _ _ _ => rfl,
    .aluImm (op := opSll) (fun _ _ => rfl) fun _ _ _ _ => by rw [opSll, shiftImm_eq],
    .aluImm (op := opSrl) (fun _ _ => rfl) fun _ _ _ _ => by rw [opSrl, shiftImm_eq],
    .aluImm (op := opSra) (fun _ _ => rfl) fun _ _ _ _ => by rw [opSra, shiftImm_eq],
    .aluImm (op := opSlt) (fun _ _ => rfl) fun _ _ _ h => by rw [opSlt_eq, h.imm_toInt],
    .reg (fun _ _ => rfl) fun _ _ _ _ => rfl, .reg (fun _ _ => rfl) fun s l f _ => by rw [State.getP_blank],
    fun _ _ _ h => execRdfl_puts h, .reg (fun _ _ => rfl) fun s l f _ => by rw [State.getS_blank, State.getV_blank],
    List.forall_mem_nil _⟩

/-- Settles O18: each row of Table 5.3 is a register form that writes D with its operation. -/
theorem scalarResultGoesToD : Obligations.ScalarResultGoesToD :=
  fun _ _ _ _ row => scalarRows_forms _ row

/-! ### Branches, jumps and loops -/

/-- An instruction whose stagehand becomes h' at once. -/
theorem shIssue_hand {s : State} {l opc : Nat} {f : ShFields} {body : ShFields → State → ShRes} {g : Stagehand} (h : Issues s l opc f)
    (b : body f (s.setHand l (s.issuing l)) = .done (s.setHand l g)) :
    ∃ t, shIssue opc body l s = .next t ∧ OnlyHand s t l ∧ t.hand l = g :=
  ⟨_, shIssue_done h b, .setHand .., State.hand_setHand_same ..⟩

/-- What O19 says of a conditional branch. -/
def BranchForm (mk : Fin 6144 → Instr) (opc : Nat) (cond : Word → Word → Bool) : Prop :=
  ∀ (s : State) (l : Fin 6144) (f : ShFields), Issues s l opc f →
    ∃ t, Machine.exec (mk l) s = .next t ∧ OnlyHand s t l ∧
      t.hand l = (if cond ((s.issuer l).getS f.d) ((s.issuer l).getS f.a) then
        { s.issuer l with pc := pcPlus (s.issuer l).pc f.imm, issue := s.issueAt l + 2 } else (s.issuing l).nextPc)

theorem BranchForm.of_cond {mk : Fin 6144 → Instr} {opc : Nat} {cond : Word → Word → Bool} (e : ∀ l s, exec (mk l) s = shBr opc l s)
    (c : ∀ a b, shBranch opc a b = cond a b) : BranchForm mk opc cond := by
  intro s l f h
  rw [e, ← c]
  exact shIssue_hand h (by simp only [State.hand_setHand_same, State.setHand_setHand]; rfl)

theorem branchRows_forms : ∀ r ∈ branchRows, BranchForm r.1 r.2.1 r.2.2 := by
  simp only [branchRows, List.forall_mem_cons]
  exact ⟨
    .of_cond (fun _ _ => rfl) fun _ _ => rfl, .of_cond (fun _ _ => rfl) fun _ _ => rfl,
    .of_cond (fun _ _ => rfl) fun _ _ => rfl,
    .of_cond (fun _ _ => rfl) fun a b => by simp [shBranch, BitVec.slt, ← decide_not],
    .of_cond (fun _ _ => rfl) fun _ _ => rfl,
    .of_cond (fun _ _ => rfl) fun a b => by simp [shBranch, BitVec.ult, ← decide_not], List.forall_mem_nil _⟩

/-- The stagehand after a jump, with the return address in flight. -/
def State.jumped (s : State) (l : Nat) (f : ShFields) (target : Nat) : Stagehand :=
  { (s.issuing l).put f 2 (fun g => g.setS f.d (BitVec.ofNat 32 ((s.issuer l).pc + 1))) with pc := target, issue := s.issueAt l + 2 }

theorem SameRegs.issuing (s : State) (l : Nat) : SameRegs (s.issuing l) (s.issuer l) := ⟨rfl, rfl, rfl, rfl⟩

theorem SameRegs.put_jump (h : Stagehand) (f : ShFields) (lat : Nat) (upd : Stagehand → Stagehand) (x y : Nat) :
    SameRegs { h.put f lat upd with pc := x, issue := y } h := ⟨rfl, rfl, rfl, rfl⟩

theorem sameRun_put_jump (h : Stagehand) (f : ShFields) (lat : Nat) (upd : Stagehand → Stagehand) (x y : Nat) :
    sameRun h { h.put f lat upd with pc := x, issue := y } := ⟨rfl, rfl, rfl, rfl, rfl, rfl, rfl, rfl, rfl, rfl⟩

theorem loop_put_jump (h : Stagehand) (f : ShFields) (lat : Nat) (upd : Stagehand → Stagehand) (x y : Nat) :
    ({ h.put f lat upd with pc := x, issue := y } : Stagehand).loop = h.loop := rfl

theorem sameRun_issuing (s : State) (l : Nat) : sameRun (s.hand l) (s.issuing l) :=
  (RunsAs.issuer s l).run.trans ⟨rfl, rfl, rfl, rfl, rfl, rfl, rfl, rfl, rfl, rfl⟩

theorem loop_issuing (s : State) (l : Nat) : (s.issuing l).loop = (s.hand l).loop := (RunsAs.issuer s l).loop

/-- JAL and JR (Table 5.3): two cycles, the return address to D. -/
theorem shIssue_jump {s : State} {l opc target : Nat} {f : ShFields} {body : ShFields → State → ShRes} (h : Issues s l opc f)
    (dest : scalarDest opc = true) (b : body f (s.setHand l (s.issuing l)) = .done (s.setHand l (s.jumped l f target))) :
    ∃ t, shIssue opc body l s = .next t ∧ OnlyHand s t l ∧ (t.hand l).pc = target ∧
      (t.hand l).loop = (s.hand l).loop ∧ (t.hand l).issue = s.issueAt l + 2 ∧ sameRun (s.hand l) (t.hand l) ∧
      PutsS (s.handAt l (s.issueAt l + 2)) (t.handAt l (s.issueAt l + 2)) f.d (BitVec.ofNat 32 ((s.issuer l).pc + 1)) := by
  obtain ⟨t, ht, only, hand⟩ := shIssue_hand h b
  refine ⟨t, ht, only, ?_, ?_, ?_, ?_, ?_⟩
  · rw [hand]; rfl
  · rw [hand, State.jumped, loop_put_jump, loop_issuing]
  · rw [hand]; rfl
  · rw [hand, State.jumped]
    exact (sameRun_issuing s l).trans (sameRun_put_jump ..)
  · have regs : SameRegs (t.hand l) (s.issuer l) := by
      rw [hand, State.jumped]
      exact (SameRegs.put_jump ..).trans (.issuing s l)
    have fl : (t.hand l).flight =
        insertWrite (s.result l f 2 fun g => g.setS f.d (BitVec.ofNat 32 ((s.issuer l).pc + 1))) (s.issuer l).flight := by
      rw [hand]
      rfl
    have e := handAt_flight (by rw [s.result_due]; exact Nat.le_add_right _ _) regs fl
    rw [s.result_due] at e
    refine putsS_result (shDests_scalar h.opcode dest) ?_ e
    rfl

/-- Settles O19: the six branches by their conditions, the two jumps by their targets, LOOP and HALT as they stand. -/
theorem branchesAndJumps : Obligations.BranchesAndJumps := by
  refine ⟨fun mk opc cond row => branchRows_forms _ row, fun s l f => ⟨?_, ?_, ?_⟩⟩
  · intro mk opc target row h
    simp only [List.mem_cons, Prod.mk.injEq, List.not_mem_nil, or_false] at row
    rcases row with ⟨rfl, rfl, rfl⟩ | ⟨rfl, rfl, rfl⟩
    · exact shIssue_jump h rfl (by simp only [State.hand_setHand_same, State.setHand_setHand]; rfl)
    · exact shIssue_jump h rfl (by simp only [State.hand_setHand_same, State.setHand_setHand]; rfl)
  · intro h
    refine shIssue_hand h ?_
    simp only [State.hand_setHand_same, State.setHand_setHand]
    have count : (s.issuing l).getS f.a = (s.issuer l).getS f.a := rfl
    by_cases zero : (s.issuer l).getS f.a = 0
    · simp only [count, zero, if_true]
      rfl
    · have pos : ((s.issuer l).getS f.a).toNat ≠ 0 := fun e => zero (BitVec.eq_of_toNat_eq e)
      simp only [count, zero, pos, if_false]
      rfl
  · intro h
    exact shIssue_hand h (by simp only [State.hand_setHand_same, State.setHand_setHand])

/-! ### NOP and CLRFL -/

theorem shDests_nop {f : ShFields} (o : f.opc = 0x7B) : shDests f = [] := by simp [shDests, o]

/-- A write of nothing leaves a stagehand reading as it did. -/
theorem SameRegs.write_nothing {h : Stagehand} {w : ShWrite} (hs : w.s = []) (hv : w.v = []) (hp : w.p = []) (hf : w.flags = 0)
    (hc : w.clear = 0) : SameRegs (h.write w) h := by
  simp only [Stagehand.write, hs, hv, hp, hf, hc, List.foldl_nil, flags_clear_none, flags_or_none]
  exact .refl h

theorem execNop_puts {s : State} {l : Fin 6144} {f : ShFields} (h : Issues s l 0x7B f) :
    ∃ t, execNop l s = .next t ∧ OnlyHand s t l ∧ MovedOn s t l ∧
      PutsNothing (s.handAt l (s.issueAt l + 1)) (t.handAt l (s.issueAt l + 1)) := by
  obtain ⟨t, ht, only, moved, regs⟩ := shReg_puts (upd := fun _ h => h) h
  have d := shDests_nop h.opcode
  refine ⟨t, ht, only, moved, putsNothing_of_same (regs.trans (.write_nothing ?_ ?_ ?_ rfl rfl))⟩
  all_goals simp only [State.result, putWrite, d, List.filterMap_nil]

/-- The result of CLRFL: nothing but the flags it clears, a cycle on (R145). -/
def clearing (h : Stagehand) (f : ShFields) : ShWrite :=
  { due := h.issue, s := [], v := [], p := [], flags := 0, clear := (h.getS f.a).setWidth 5, load := false, store := false, words := []
    ask := 0, age := 0 }

theorem execClrfl_clears {s : State} {l : Fin 6144} {f : ShFields} (h : Issues s l 0x71 f) :
    ∃ t, execClrfl l s = .next t ∧ OnlyHand s t l ∧ MovedOn s t l ∧
      SameRegs (t.handAt l (s.issueAt l + 1)) ((s.handAt l (s.issueAt l + 1)).write (clearing (s.issuing l) f)) :=
  ⟨_, shIssue_done h (by simp only [State.hand_setHand_same, State.setHand_setHand]; rfl), .setHand ..,
    movedOn_wrote s l (clearing (s.issuing l) f), handAt_wrote s l (clearing (s.issuing l) f) (Nat.le_add_right _ 1)⟩

/-- Where the program counter and the loop stand after an instruction that does not branch (R137). -/
theorem MovedOn.steps {s t : State} {l : Nat} (m : MovedOn s t l) :
    ((s.hand l).loop = none → (t.hand l).pc = (s.hand l).pc + 1 ∧ (t.hand l).loop = none) ∧
    (∀ k, (s.hand l).loop = some k → (s.hand l).pc ≠ k.last → (t.hand l).pc = (s.hand l).pc + 1 ∧ (t.hand l).loop = some k) ∧
    (∀ k, (s.hand l).loop = some k → (s.hand l).pc = k.last → 1 < k.left →
      (t.hand l).pc = k.first ∧ (t.hand l).loop = some { k with left := k.left - 1 }) ∧
    (∀ k, (s.hand l).loop = some k → (s.hand l).pc = k.last → k.left ≤ 1 →
      (t.hand l).pc = (s.hand l).pc + 1 ∧ (t.hand l).loop = none) := by
  obtain ⟨pc, loop⟩ := m.next
  have r := RunsAs.issuer s l
  rw [pc, loop, ← r.pc, ← r.loop]
  unfold Stagehand.nextPc
  refine ⟨fun e => ?_, fun k e ne => ?_, fun k e eq more => ?_, fun k e eq last => ?_⟩
  · simp [e]
  · simp [e, ne]
  · simp [e, eq, more]
  · simp [e, eq, Nat.not_lt.mpr last]

/-- Settles O20: NOP is a register form without a result, CLRFL one whose result clears flags. -/
theorem nopMovesOnAndLoopsRepeat : Obligations.NopMovesOnAndLoopsRepeat := by
  intro s l f
  refine ⟨fun h => ?_, fun h => ?_⟩
  · obtain ⟨t, ht, only, moved, puts⟩ := execNop_puts h
    exact ⟨t, ht, only, moved, puts, moved.steps⟩
  · obtain ⟨t, ht, only, moved, regs⟩ := execClrfl_clears h
    refine ⟨t, ht, only, moved, fun r => ?_, fun r => ?_, fun r => ?_, fun i hi => ?_⟩
    · rw [Stagehand.getS, regs.s]; rfl
    · rw [Stagehand.getV, regs.v]; rfl
    · rw [Stagehand.getP, regs.p]; rfl
    · rw [regs.flags]
      simp only [Stagehand.write, clearing, List.foldl_nil, flags_or_none, BitVec.getLsbD_and, BitVec.getLsbD_not,
        BitVec.getLsbD_setWidth, hi, decide_true, Bool.true_and]
      rfl

end Sys2Proof.Machine
end

section
/-!
Stagehands and the scratchpad: what a check, a read and a write of clean words leave, and the memory instructions (O21 to O23).
-/
namespace Sys2Proof.Machine

-- One declaration after another: the whole text elaborated in parallel outgrows the memory of its check.
set_option Elab.async false

/-! ### Scratchpad accesses without bit errors -/

/-- A range that is aligned to its size lies in one slice. -/
theorem within_of_aligned {off n : Nat} (divides : 0x20000 % n = 0) (aligned : off % n = 0) :
    off % 0x20000 + n ≤ 0x20000 := by
  have lt : off % 0x20000 < 0x20000 := Nat.mod_lt _ (by decide)
  obtain ⟨k, hk⟩ := Nat.dvd_of_mod_eq_zero divides
  have m : off % 0x20000 % n = 0 := by rw [Nat.mod_mod_of_dvd _ (Nat.dvd_of_mod_eq_zero divides), aligned]
  obtain ⟨j, hj⟩ := Nat.dvd_of_mod_eq_zero m
  rw [hj] at lt ⊢
  rw [hk] at lt ⊢
  have jk : j < k := Nat.lt_of_mul_lt_mul_left lt
  calc n * j + n = n * (j + 1) := rfl
    _ ≤ n * k := Nat.mul_le_mul_left n jk

/-- Words that are dealt with afresh: nothing but them and corrections that wait changes. -/
theorem State.freshWords_frame (s : State) (ws : List Nat) : { s.freshWords ws with memErr := s.memErr, bays := s.bays } = s := by
  induction ws generalizing s with
  | nil => rfl
  | cons w ws ih =>
    simp only [State.freshWords]
    split
    · exact ih s
    · exact (congrArg (fun t : State => { t with memErr := s.memErr, bays := s.bays }) (ih _)).trans rfl

theorem State.bay_setBay_writeBack (s : State) (k : Nat) (l : List Nat) (b : Nat) :
    { (s.setBay k { s.bay k with writeBack := l }).bay b with writeBack := (s.bay b).writeBack } = s.bay b := by
  by_cases e : b = k
  · subst e
    rw [State.bay_setBay_same]
  · rw [State.bay_setBay_other s _ _ _ e]

theorem State.freshWords_bays (s : State) (ws : List Nat) (b : Nat) :
    { (s.freshWords ws).bay b with writeBack := (s.bay b).writeBack } = s.bay b := by
  induction ws generalizing s with
  | nil => rfl
  | cons w ws ih =>
    simp only [State.freshWords]
    split
    · exact ih s
    · refine (congrArg (fun y : Bay => { y with writeBack := (s.bay b).writeBack }) (ih _)).trans ?_
      exact State.bay_setBay_writeBack s _ _ b

theorem State.freshWords_errors (s : State) (ws : List Nat) (w : Nat) :
    sget 0 (s.freshWords ws).memErr w = if w ∈ ws then 0 else sget 0 s.memErr w := by
  induction ws generalizing s with
  | nil => simp [State.freshWords]
  | cons x xs ih =>
    simp only [State.freshWords]
    split
    · rename_i h
      rw [ih]
      by_cases hw : w = x
      · subst hw; simp [h.1]
      · simp [hw]
    · rw [ih]
      by_cases hw : w = x
      · subst hw; simp
      · simp [hw, sget_sset_other]

theorem State.putBytes_frame (s : State) (a : Nat) (v : List Byte) : { s.putBytes a v with mem := s.mem } = s := by
  induction v generalizing s a with
  | nil => rfl
  | cons x xs ih => exact (congrArg (fun t : State => { t with mem := s.mem }) (ih (s.putByte a x) (a + 1))).trans rfl

/-- A write within one slice to words without bit errors is made. -/
theorem State.spWrite_clean (s : State) (b off : Nat) (v : List Byte) (within : off % 0x20000 + v.length ≤ 0x20000)
    (clean : ∀ w ∈ wordsOf (spAddr b off) v.length, sget 0 s.memErr w = 0) :
    s.spWrite b off v = ((s.freshWords (wordsOf (spAddr b off) v.length)).putBytes (spAddr b off) v, true) := by
  have ok := s.checkWords_clean (partialWords (spAddr b off) v.length) fun w hw => clean w (List.mem_filter.mp hw).1
  simp [State.spWrite, inSlice_within within, ok, State.putBytes]

/-- From s to t bytes have been written to words without bit errors: nothing else changes but corrections that wait. -/
structure CleanFrame (s t : State) : Prop where
  rest : { t with mem := s.mem, memErr := s.memErr, bays := s.bays } = s
  bays : ∀ b, { t.bay b with writeBack := (s.bay b).writeBack } = s.bay b
  errors : ∀ w, sget 0 t.memErr w = sget 0 s.memErr w

theorem CleanFrame.refl (s : State) : CleanFrame s s := ⟨rfl, fun _ => rfl, fun _ => rfl⟩

theorem CleanFrame.trans {s t u : State} (a : CleanFrame s t) (b : CleanFrame t u) : CleanFrame s u := by
  refine ⟨?_, fun k => ?_, fun w => (b.errors w).trans (a.errors w)⟩
  · exact (congrArg (fun x : State => { x with mem := s.mem, memErr := s.memErr, bays := s.bays }) b.rest).trans a.rest
  · exact (congrArg (fun y : Bay => { y with writeBack := (s.bay k).writeBack }) (b.bays k)).trans (a.bays k)

theorem CleanFrame.stagehands {s t : State} (c : CleanFrame s t) : t.stagehands = s.stagehands := by
  have e := congrArg State.stagehands c.rest
  exact e

/-- What a write within one slice to words without bit errors leaves: the bytes stand there, all else reads as before. -/
structure CleanWrite (s t : State) (a : Nat) (v : List Byte) : Prop where
  frame : CleanFrame s t
  inside : ∀ i, i < v.length → t.byte (a + i) = v.getD i 0
  outside : ∀ x, (x < a ∨ a + v.length ≤ x) → t.byte x = s.byte x

theorem cleanWrite_fresh (s : State) (ws : List Nat) (a : Nat) (v : List Byte) (clean : ∀ w ∈ ws, sget 0 s.memErr w = 0) :
    CleanWrite s ((s.freshWords ws).putBytes a v) a v := by
  have put := State.putBytes_frame (s.freshWords ws) a v
  have fresh := State.freshWords_frame s ws
  have mem : (s.freshWords ws).mem = s.mem := State.freshWords_mem s ws
  have bays : ((s.freshWords ws).putBytes a v).bays = (s.freshWords ws).bays := by
    have e := congrArg State.bays put
    exact e
  have errs : ((s.freshWords ws).putBytes a v).memErr = (s.freshWords ws).memErr := by
    have e := congrArg State.memErr put
    exact e
  refine ⟨⟨?_, fun b => ?_, fun w => ?_⟩, fun i hi => ?_, fun x hx => ?_⟩
  · exact (congrArg (fun t : State => { t with mem := s.mem, memErr := s.memErr, bays := s.bays }) put).trans
      ((congrArg (fun t : State => { t with mem := s.mem }) fresh).trans rfl)
  · rw [State.bay, bays]
    exact State.freshWords_bays s ws b
  · rw [errs, State.freshWords_errors]
    split
    · exact (clean w ‹_›).symm
    · rfl
  · exact State.byte_putBytes_inside _ _ _ _ hi
  · rw [State.byte_putBytes_outside _ _ _ _ hx, State.byte, mem]
    rfl

/-! ### Loads and stores -/

/-- What bytes read as depends on the data space only. -/
theorem State.bytes_of_mem {s t : State} (h : t.mem = s.mem) (a n : Nat) : t.bytes a n = s.bytes a n := by
  induction n generalizing a with
  | zero => rfl
  | succ n ih => simp only [State.bytes, ih, State.byte, h]


/-- The checks of an accessible range let it pass (R139). -/
theorem Accessible.ok {s : State} {l off n : Nat} (a : Accessible s l off n) (g : Stagehand) (p : g.part = (s.hand l).part)
    (c : g.ctx = (s.hand l).ctx) : (s.setHand l g).shAddrBad l off n n = none := by
  simp [State.shAddrBad, p, c, a.quota, a.aligned]

/-- What `Stagehand.access` puts in flight. -/
def accessWrite (h : Stagehand) (f : ShFields) (lat : Nat) (banks : List Nat) (upd : Option (Stagehand → Stagehand)) : ShWrite :=
  let k := h.issue - 1
  let g := (upd.getD id) h
  { due := k + lat
    s := (shDests f).filterMap (fun r => match r with | .s j => some (j, g.getS j) | _ => none)
    v := (shDests f).filterMap (fun r => match r with | .v j => some (j, g.getV j) | _ => none)
    p := [], flags := 0, clear := 0, load := upd.isSome, store := upd.isNone, words := banks, ask := k, age := k }

theorem access_nextPc (s : State) (l : Nat) (f : ShFields) (lat : Nat) (banks : List Nat) (upd : Option (Stagehand → Stagehand)) :
    ((s.issuing l).access f lat banks upd).nextPc = s.wrote l (accessWrite (s.issuing l) f lat banks upd) := rfl

theorem accessWrite_due (s : State) (l : Nat) (f : ShFields) (lat : Nat) (banks : List Nat) (upd : Option (Stagehand → Stagehand)) :
    (accessWrite (s.issuing l) f lat banks upd).due = s.issueAt l + lat := rfl

theorem issuing_part (s : State) (l : Nat) : (s.issuing l).part = (s.hand l).part := (RunsAs.issuer s l).run.2.2.1

theorem issuing_ctx (s : State) (l : Nat) : (s.issuing l).ctx = (s.hand l).ctx := (RunsAs.issuer s l).run.2.2.2.1

/-- A load whose bytes can be read: they are on their way to the destination, and the stagehand has moved on. -/
theorem shLoad_puts {s : State} {l opc n unit : Nat} {f : ShFields} {put : ShFields → Stagehand → List Byte → Stagehand}
    (h : Issues s l opc f) (a : Accessible s l (s.shOff l f unit) n) (divides : 0x20000 % n = 0) :
    ∃ t, shLoad opc n n unit put l s = .next t ∧ OnlyHand s t l ∧ MovedOn s t l ∧
      SameRegs (t.handAt l (s.issueAt l + shMemLatency opc l [s.shOff l f unit]))
        ((s.handAt l (s.issueAt l + shMemLatency opc l [s.shOff l f unit])).write
          (accessWrite (s.issuing l) f (shMemLatency opc l [s.shOff l f unit]) (narrowBanks opc (s.shOff l f unit))
            (some fun g => put f g (s.bytes (spAddr (handBay l) (s.shOff l f unit)) n)))) := by
  have ok := a.ok (s.issuing l) (issuing_part s l) (issuing_ctx s l)
  have rd := (s.setHand l (s.issuing l)).spRead_clean (handBay l) _ n (within_of_aligned divides a.aligned) a.clean
  have off : shOffset ((s.issuing l).getS f.a) f.imm unit = s.shOff l f unit := rfl
  refine ⟨_, shIssue_done h ?_, .setHand .., movedOn_wrote .., handAt_wrote s l (accessWrite (s.issuing l) f
    (shMemLatency opc l [s.shOff l f unit]) (narrowBanks opc (s.shOff l f unit)) (some fun g => put f g (s.bytes
      (spAddr (handBay l) (s.shOff l f unit)) n))) (Nat.le_add_right ..)⟩
  simp only [State.hand_setHand_same, off, ok, rd, State.setHand_setHand,
    State.bytes_of_mem (State.setHand_mem s l (s.issuing l))]
  rfl

theorem shDests_vector {f : ShFields} {opc : Nat} (o : f.opc = opc)
    (d : opc = 0x38 ∨ opc = 0x3A ∨ opc = 0x3C ∨ (0x40 ≤ opc ∧ opc ≤ 0x4A) ∨ opc = 0x4F ∨ opc = 0x52 ∨ (0x58 ≤ opc ∧ opc ≤ 0x5C) ∨
      opc = 0x68 ∨ opc = 0x6A ∨ opc = 0x6C) : shDests f = [.v f.d] := by
  subst o
  unfold shDests
  dsimp only
  rw [if_neg (by omega), if_pos d]

theorem putsS_access {s : State} {l lat : Nat} {banks : List Nat} {f : ShFields} {v : Word} {g h : Stagehand}
    (d : shDests f = [.s f.d]) (e : SameRegs g (h.write (accessWrite (s.issuing l) f lat banks (some fun g => g.setS f.d v)))) :
    PutsS h g f.d v := by
  refine putsS_write e (u := ((s.issuing l).setS f.d v).getS f.d) ?_ ?_ ?_ rfl rfl rfl
  · simp only [accessWrite, d, List.filterMap_cons, List.filterMap_nil]
    rfl
  · intro hd
    rw [Stagehand.getS_setS, if_pos ⟨rfl, hd⟩]
  · simp only [accessWrite, d, List.filterMap_cons, List.filterMap_nil]

theorem putsV_access {s : State} {l lat : Nat} {banks : List Nat} {f : ShFields} {x : BitVec 512} {g h : Stagehand}
    (d : shDests f = [.v f.d]) (e : SameRegs g (h.write (accessWrite (s.issuing l) f lat banks (some fun g => g.setV f.d x)))) :
    PutsV h g f.d x 0 := by
  refine putsV_write e ?_ ?_ rfl rfl rfl
  · simp only [accessWrite, d, List.filterMap_cons, List.filterMap_nil]
  · have same : ((s.issuing l).setV f.d x).getV f.d = x := (Stagehand.getV_setV ..).trans (if_pos rfl)
    simp only [accessWrite, d, List.filterMap_cons, List.filterMap_nil, Option.getD_some, same]

/-- Settles O21: each load is `shLoad` with its bytes, its extension and its destination. -/
theorem loadsReadTheScratchpad : Obligations.LoadsReadTheScratchpad := by
  refine ⟨fun mk opc n sgn row s l f h a => ?_, fun mk opc n row s l f h a => ?_⟩
  · have form : (∀ l s, exec (mk l) s = shLoad opc n n 1 (putScalar n sgn) l s) ∧ 0x20000 % n = 0 ∧ scalarDest opc = true := by
      simp only [loadRows, List.mem_cons, Prod.mk.injEq, List.not_mem_nil, or_false] at row
      rcases row with ⟨rfl, rfl, rfl, rfl⟩ | ⟨rfl, rfl, rfl, rfl⟩ | ⟨rfl, rfl, rfl, rfl⟩ | ⟨rfl, rfl, rfl, rfl⟩ | ⟨rfl, rfl, rfl, rfl⟩ <;>
        exact ⟨fun _ _ => rfl, rfl, rfl⟩
    obtain ⟨e, divides, dest⟩ := form
    obtain ⟨t, ht, only, moved, regs⟩ := shLoad_puts (put := putScalar n sgn) h a divides
    exact ⟨t, (e l s).trans ht, only, moved, putsS_access (shDests_scalar h.opcode dest) regs⟩
  · have form : (∀ l s, exec (mk l) s = shLoad opc n n n putVec l s) ∧ 0x20000 % n = 0 ∧ (opc = 0x38 ∨ opc = 0x3A) := by
      simp only [List.mem_cons, Prod.mk.injEq, List.not_mem_nil, or_false] at row
      rcases row with ⟨rfl, rfl, rfl⟩ | ⟨rfl, rfl, rfl⟩
      · exact ⟨fun _ _ => rfl, rfl, .inl rfl⟩
      · exact ⟨fun _ _ => rfl, rfl, .inr rfl⟩
    obtain ⟨e, divides, dest⟩ := form
    obtain ⟨t, ht, only, moved, regs⟩ := shLoad_puts (put := putVec) h a divides
    exact ⟨t, (e l s).trans ht, only, moved, putsV_access (shDests_vector h.opcode (by omega)) regs⟩

theorem toLE_length (n v : Nat) : (toLE n v).length = n := by
  induction n generalizing v with
  | zero => rfl
  | succ n ih => simp [toLE, ih]

/-- A stored word puts no register in flight. -/
theorem accessWrite_store {s : State} {l lat : Nat} {banks : List Nat} {f : ShFields} (d : shDests f = []) (h : Stagehand) :
    SameRegs (h.write (accessWrite (s.issuing l) f lat banks none)) h :=
  .write_nothing (by simp [accessWrite, d]) (by simp [accessWrite, d]) rfl rfl rfl

theorem movedOn_of_wrote {s t : State} {l : Nat} {w : ShWrite} (e : t.hand l = s.wrote l w) : MovedOn s t l := by
  obtain ⟨run, next, issue⟩ := movedOn_wrote s l w
  rw [State.hand_setHand_same, ← e] at run next issue
  exact ⟨run, next, issue⟩

/-- A stagehand whose instruction has put a result in flight reads as at issue. -/
theorem putsNothing_wrote {s t : State} {l : Nat} {w : ShWrite} (e : t.hand l = s.wrote l w) : PutsNothing (s.issuer l) (t.hand l) := by
  rw [e]
  exact putsNothing_of_same ((SameRegs.nextPc { s.issuing l with flight := insertWrite w (s.issuing l).flight }).trans
    ⟨rfl, rfl, rfl, rfl⟩)

/-- The stagehand that stored, and the bytes it wrote. -/
theorem onlyStore_of_clean {s u : State} {l : Nat} {g x : Stagehand} (c : CleanFrame (s.setHand l g) u) :
    OnlyStore s (u.setHand l x) l := by
  refine ⟨?_, fun k hk => ?_, c.bays⟩
  · exact (congrArg (fun t : State => { t with stagehands := s.stagehands }) c.rest).trans rfl
  · rw [State.hand_setHand_other _ _ _ _ hk, State.hand, c.stagehands]
    exact State.hand_setHand_other _ _ _ _ hk

/-- A store to words without bit errors: the bytes stand there, and the stagehand has moved on. -/
theorem shStore_writes {s : State} {l opc n unit : Nat} {f : ShFields} {get : ShFields → Stagehand → List Byte}
    (h : Issues s l opc f) (a : Accessible s l (s.shOff l f unit) n) (divides : 0x20000 % n = 0)
    (len : (get f (s.issuing l)).length = n) :
    ∃ u, shStore opc n n unit get l s = .next (u.setHand l (s.wrote l
        (accessWrite (s.issuing l) f (shMemLatency opc l [s.shOff l f unit]) (narrowBanks opc (s.shOff l f unit)) none))) ∧
      CleanWrite (s.setHand l (s.issuing l)) u (spAddr (handBay l) (s.shOff l f unit)) (get f (s.issuing l)) := by
  subst len
  have ok := a.ok (s.issuing l) (issuing_part s l) (issuing_ctx s l)
  have wr := (s.setHand l (s.issuing l)).spWrite_clean (handBay l) (s.shOff l f unit) (get f (s.issuing l))
    (within_of_aligned divides a.aligned) a.clean
  refine ⟨_, shIssue_done h ?_, cleanWrite_fresh _ _ _ _ a.clean⟩
  have off : shOffset ((s.issuing l).getS f.a) f.imm unit = s.shOff l f unit := rfl
  simp only [State.hand_setHand_same, off, ok, wr]
  rfl

theorem shDests_store {f : ShFields} {opc : Nat} (o : f.opc = opc) (d : opc = 0x35 ∨ opc = 0x36 ∨ opc = 0x37 ∨ opc = 0x39 ∨
    opc = 0x3B ∨ opc = 0x3D) : shDests f = [] := by
  subst o
  unfold shDests
  rcases d with e | e | e | e | e | e <;> simp [e]

/-- Settles O22: each store is `shStore` with its bytes. -/
theorem storesWriteTheirBytesOnly : Obligations.StoresWriteTheirBytesOnly := by
  intro mk opc n unit val row s l f h a
  have form : ∃ get : ShFields → Stagehand → List Byte, (∀ l s, exec (mk l) s = shStore opc n n unit get l s) ∧ 0x20000 % n = 0 ∧
      get f (s.issuing l) = val (s.issuer l) f ∧ (get f (s.issuing l)).length = n := by
    simp only [storeRows, List.mem_cons, Prod.mk.injEq, List.not_mem_nil, or_false] at row
    rcases row with ⟨rfl, rfl, rfl, rfl, rfl⟩ | ⟨rfl, rfl, rfl, rfl, rfl⟩ | ⟨rfl, rfl, rfl, rfl, rfl⟩ | ⟨rfl, rfl, rfl, rfl, rfl⟩ |
      ⟨rfl, rfl, rfl, rfl, rfl⟩
    · exact ⟨getScalar 1, fun _ _ => rfl, rfl, rfl, toLE_length ..⟩
    · exact ⟨getScalar 2, fun _ _ => rfl, rfl, rfl, toLE_length ..⟩
    · exact ⟨getScalar 4, fun _ _ => rfl, rfl, rfl, toLE_length ..⟩
    · exact ⟨getVec 64, fun _ _ => rfl, rfl, rfl, toLE_length ..⟩
    · exact ⟨getVec 32, fun _ _ => rfl, rfl, rfl, toLE_length ..⟩
  obtain ⟨get, e, divides, same, len⟩ := form
  obtain ⟨u, hu, c⟩ := shStore_writes (get := get) h a divides len
  have hand := State.hand_setHand_same u l (s.wrote l
    (accessWrite (s.issuing l) f (shMemLatency opc l [s.shOff l f unit]) (narrowBanks opc (s.shOff l f unit)) none))
  refine ⟨_, (e l s).trans hu, onlyStore_of_clean c.frame, movedOn_of_wrote hand, fun i hi => ?_, fun x hx => ?_, c.frame.errors,
    putsNothing_wrote hand⟩
  · exact (c.inside i (by rwa [len])).trans (by rw [same])
  · exact c.outside x (by rwa [len])

/-! ### Gather and scatter -/

/-- Two words of a bay at different aligned offsets have no byte in common (R14). -/
theorem spAddr_apart (b : Nat) {o p : Nat} (ho : o % 4 = 0) (hp : p % 4 = 0) (ne : o ≠ p) :
    spAddr b o + 4 ≤ spAddr b p ∨ spAddr b p + 4 ≤ spAddr b o := by
  unfold spAddr handOf
  omega

theorem State.firstBadLane_none {s : State} {l : Nat} {offs : List Nat} (g : Stagehand) (p : g.part = (s.hand l).part)
    (c : g.ctx = (s.hand l).ctx) (a : ∀ o ∈ offs, Accessible s l o 4) : (s.setHand l g).firstBadLane l offs = none := by
  induction offs with
  | nil => rfl
  | cons o os ih =>
    rw [State.firstBadLane, (a o List.mem_cons_self).ok g p c]
    exact ih fun x hx => a x (List.mem_cons_of_mem _ hx)

/-- A gather of words without bit errors reads each. -/
theorem State.gatherWords_clean (s : State) (b : Nat) {offs : List Nat} (aligned : ∀ o ∈ offs, o % 4 = 0)
    (clean : ∀ o ∈ offs, ∀ w ∈ wordsOf (spAddr b o) 4, sget 0 s.memErr w = 0) :
    s.gatherWords b offs = (s, .ok (offs.map fun o => BitVec.ofNat 32 (leNat (s.bytes (spAddr b o) 4)))) := by
  induction offs with
  | nil => rfl
  | cons o os ih =>
    have rd := s.spRead_clean b o 4 (within_of_aligned rfl (aligned o List.mem_cons_self)) (clean o List.mem_cons_self)
    have rest := ih (fun x hx => aligned x (List.mem_cons_of_mem _ hx)) fun x hx => clean x (List.mem_cons_of_mem _ hx)
    simp only [State.gatherWords, rd, rest, List.map_cons]

theorem execVgather_puts {s : State} {l : Fin 6144} {f : ShFields} (a : ∀ o ∈ laneOffsets (s.issuer l) f, Accessible s l o 4)
    (h : Issues s l 0x3C f) :
    ∃ t, execVgather l s = .next t ∧ OnlyHand s t l ∧ MovedOn s t l ∧
      PutsV (s.handAt l (s.issueAt l + shMemLatency 0x3C l (laneOffsets (s.issuer l) f)))
        (t.handAt l (s.issueAt l + shMemLatency 0x3C l (laneOffsets (s.issuer l) f))) f.d
        (vec32 ((laneOffsets (s.issuer l) f).map (fun o => BitVec.ofNat 32 (leNat (s.bytes (spAddr (handBay l) o) 4))))) 0 := by
  have bad := State.firstBadLane_none (s.issuing l) (issuing_part s l) (issuing_ctx s l) a
  have rd := (s.setHand l (s.issuing l)).gatherWords_clean (handBay l) (fun o ho => (a o ho).aligned) fun o ho => (a o ho).clean
  have offs : laneOffsets (s.issuing l) f = laneOffsets (s.issuer l) f := rfl
  have w := handAt_wrote s l (accessWrite (s.issuing l) f (shMemLatency 0x3C l (laneOffsets (s.issuer l) f))
    ((laneOffsets (s.issuer l) f).map bankOf) (some fun g => g.setV f.d (vec32 ((laneOffsets (s.issuer l) f).map fun o =>
      BitVec.ofNat 32 (leNat (s.bytes (spAddr (handBay l) o) 4)))))) (Nat.le_add_right ..)
  refine ⟨_, shIssue_done h ?_, .setHand .., movedOn_wrote .., putsV_access (shDests_vector h.opcode (by omega)) w⟩
  simp only [State.hand_setHand_same, offs, bad, rd, State.setHand_setHand,
    State.bytes_of_mem (State.setHand_mem s l (s.issuing l))]
  rfl

/-- The words of a scatter, each without bit errors: nothing but their bytes changes. -/
theorem State.scatterWords_frame (s : State) (b : Nat) {ws : List (Nat × Word)}
    (clean : ∀ x ∈ ws, ∀ w ∈ wordsOf (spAddr b x.1) 4, sget 0 s.memErr w = 0) : CleanFrame s (s.scatterWords b ws) := by
  induction ws generalizing s with
  | nil => exact .refl s
  | cons x xs ih =>
    have c := (cleanWrite_fresh s _ (spAddr b x.1) (toLE 4 x.2.toNat) (clean x List.mem_cons_self)).frame
    refine c.trans (ih _ fun y hy w hw => ?_)
    rw [c.errors]
    exact clean y (List.mem_cons_of_mem _ hy) w hw

theorem State.byte_scatterWords_outside (s : State) (b a : Nat) {ws : List (Nat × Word)}
    (out : ∀ x ∈ ws, a < spAddr b x.1 ∨ spAddr b x.1 + 4 ≤ a) : (s.scatterWords b ws).byte a = s.byte a := by
  induction ws generalizing s with
  | nil => rfl
  | cons x xs ih =>
    refine (ih _ fun y hy => out y (List.mem_cons_of_mem _ hy)).trans ?_
    rw [State.byte_putBytes_outside _ _ _ _ (out x List.mem_cons_self), State.byte, State.freshWords_mem]
    rfl

theorem State.bytes_congr {s t : State} {a n : Nat} (e : ∀ i, i < n → t.byte (a + i) = s.byte (a + i)) : t.bytes a n = s.bytes a n := by
  induction n generalizing a with
  | zero => rfl
  | succ n ih =>
    have rest : t.bytes (a + 1) n = s.bytes (a + 1) n := ih fun i hi => by
      have := e (i + 1) (by omega)
      rwa [show a + 1 + i = a + (i + 1) by omega]
    simp only [State.bytes, rest]
    rw [show t.byte a = s.byte a from e 0 (by omega)]

theorem State.bytes_putBytes (s : State) (a : Nat) (v : List Byte) {n : Nat} (len : v.length = n) : (s.putBytes a v).bytes a n = v := by
  subst len
  induction v generalizing s a with
  | nil => rfl
  | cons x xs ih =>
    show (((s.putByte a x).putBytes (a + 1) xs).byte a :: ((s.putByte a x).putBytes (a + 1) xs).bytes (a + 1) xs.length) = x :: xs
    rw [ih, State.byte_putBytes_outside _ _ _ _ (.inl (by omega)), State.byte_putByte_same]

/-- Of coinciding words of a scatter the last one stands (R139). -/
theorem State.bytes_scatterWords (s : State) (b : Nat) {ws : List (Nat × Word)} (i : Nat) (hi : i < ws.length)
    (last : ∀ j, i < j → (hj : j < ws.length) →
      spAddr b ws[i].1 + 4 ≤ spAddr b ws[j].1 ∨ spAddr b ws[j].1 + 4 ≤ spAddr b ws[i].1) :
    (s.scatterWords b ws).bytes (spAddr b ws[i].1) 4 = toLE 4 ws[i].2.toNat := by
  induction ws generalizing s i with
  | nil => cases hi
  | cons x xs ih =>
    cases i with
    | zero =>
      show (State.scatterWords _ b xs).bytes (spAddr b x.1) 4 = toLE 4 x.2.toNat
      refine (State.bytes_congr fun k hk => State.byte_scatterWords_outside _ b _ fun y hy => ?_).trans
        (State.bytes_putBytes (s.freshWords (wordsOf (spAddr b x.1) 4)) (spAddr b x.1) (toLE 4 x.2.toNat) (toLE_length ..))
      obtain ⟨j, hj, rfl⟩ := List.getElem_of_mem hy
      have apart := last (j + 1) (by omega) (Nat.succ_lt_succ hj)
      simp only [List.getElem_cons_zero, List.getElem_cons_succ] at apart ⊢
      omega
    | succ i => exact ih _ i (by simpa using hi) fun j ij hj => last (j + 1) (by omega) (Nat.succ_lt_succ hj)

/-- The words of a scatter of stagehand l: the word of each lane, at its offset. -/
def scattered (h : Stagehand) (f : ShFields) : List (Nat × Word) :=
  (laneOffsets h f).zip ((List.range 16).map (lane32 (h.getV f.d)))

theorem laneOffsets_length (h : Stagehand) (f : ShFields) : (laneOffsets h f).length = 16 := by simp [laneOffsets]

theorem scattered_length (h : Stagehand) (f : ShFields) : (scattered h f).length = 16 := by simp [scattered, laneOffsets_length]

theorem scattered_get (h : Stagehand) (f : ShFields) {i : Nat} (hi : i < (scattered h f).length) :
    (scattered h f)[i] = ((laneOffsets h f).getD i 0, lane32 (h.getV f.d) i) := by
  have lt : i < 16 := scattered_length h f ▸ hi
  simp [scattered, laneOffsets, lt]

theorem scattered_mem {h : Stagehand} {f : ShFields} {x : Nat × Word} (hx : x ∈ scattered h f) : x.1 ∈ laneOffsets h f :=
  (List.of_mem_zip hx).1

/-- The word an aligned offset lies in is one of those its bytes touch. -/
theorem div_mem_wordsOf (a : Nat) : a / 8 ∈ wordsOf a 4 := by
  simp only [wordsOf, seqFromTo]
  simp only [reduceIte, Nat.reduceEqDiff, List.mem_map, List.mem_range]
  exact ⟨0, by omega, by omega⟩

theorem execVscatter_writes {s : State} {l : Fin 6144} {f : ShFields} (a : ∀ o ∈ laneOffsets (s.issuer l) f, Accessible s l o 4)
    (h : Issues s l 0x3D f) :
    execVscatter l s = .next (((s.setHand l (s.issuing l)).scatterWords (handBay l) (scattered (s.issuer l) f)).setHand l (s.wrote l
      (accessWrite (s.issuing l) f (shMemLatency 0x3D l (laneOffsets (s.issuer l) f)) ((laneOffsets (s.issuer l) f).map bankOf) none))) := by
  have bad := State.firstBadLane_none (s.issuing l) (issuing_part s l) (issuing_ctx s l) a
  have rd := (s.setHand l (s.issuing l)).checkWords_clean ((laneOffsets (s.issuer l) f).map fun o => spAddr (handBay l) o / 8)
    fun w hw => by
      obtain ⟨o, ho, rfl⟩ := List.mem_map.mp hw
      exact (a o ho).clean _ (div_mem_wordsOf _)
  have offs : laneOffsets (s.issuing l) f = laneOffsets (s.issuer l) f := rfl
  refine shIssue_done h ?_
  simp only [State.hand_setHand_same, offs, bad, rd]
  rfl

/-- The word of a lane after a scatter, unless a higher lane names the same word. -/
theorem State.bytes_scattered {s : State} {h : Stagehand} {f : ShFields} (aligned : ∀ o ∈ laneOffsets h f, o % 4 = 0) {i : Nat}
    (hi : i < 16) (distinct : ∀ j, i < j → j < 16 → (laneOffsets h f).getD j 0 ≠ (laneOffsets h f).getD i 0) (b : Nat) :
    (s.scatterWords b (scattered h f)).bytes (spAddr b ((laneOffsets h f).getD i 0)) 4 = toLE 4 (lane32 (h.getV f.d) i).toNat := by
  have len := scattered_length h f
  have lane : ∀ {j} (hj : j < (scattered h f).length), (laneOffsets h f).getD j 0 % 4 = 0 := fun {j} hj => by
    have m := aligned _ (scattered_mem (List.getElem_mem hj))
    rwa [scattered_get] at m
  have e := s.bytes_scatterWords b i (len ▸ hi) fun j ij hj => by
    rw [scattered_get, scattered_get]
    exact spAddr_apart b (lane (len ▸ hi)) (lane hj) (Ne.symm (distinct j ij (len ▸ hj)))
  rwa [scattered_get] at e

/-- What clean stores of the stagehand that issues leave, once its result is in flight. -/
theorem wrote_of_clean {s u : State} {l : Nat} {w : ShWrite} (c : CleanFrame (s.setHand l (s.issuing l)) u) :
    OnlyStore s (u.setHand l (s.wrote l w)) l ∧ MovedOn s (u.setHand l (s.wrote l w)) l ∧
      PutsNothing (s.issuer l) ((u.setHand l (s.wrote l w)).hand l) ∧ (u.setHand l (s.wrote l w)).mem = u.mem ∧
      ∀ k, sget 0 (u.setHand l (s.wrote l w)).memErr k = sget 0 s.memErr k := by
  have hand := State.hand_setHand_same u l (s.wrote l w)
  exact ⟨onlyStore_of_clean c, movedOn_of_wrote hand, putsNothing_wrote hand, State.setHand_mem .., c.errors⟩

/-- A scatter of words without bit errors: the state that its stores leave, and the stagehand moved on. -/
theorem execVscatter_puts {s : State} {l : Fin 6144} {f : ShFields} (a : ∀ o ∈ laneOffsets (s.issuer l) f, Accessible s l o 4)
    (h : Issues s l 0x3D f) :
    ∃ t, execVscatter l s = .next t ∧ OnlyStore s t l ∧ MovedOn s t l ∧ PutsNothing (s.issuer l) (t.hand l) ∧
      t.mem = ((s.setHand l (s.issuing l)).scatterWords (handBay l) (scattered (s.issuer l) f)).mem ∧
      ∀ w, sget 0 t.memErr w = sget 0 s.memErr w := by
  have clean : ∀ x ∈ scattered (s.issuer l) f, ∀ w ∈ wordsOf (spAddr (handBay l) x.1) 4,
      sget 0 (s.setHand l (s.issuing l)).memErr w = 0 := fun x hx => (a x.1 (scattered_mem hx)).clean
  exact ⟨_, execVscatter_writes a h, wrote_of_clean (State.scatterWords_frame _ (handBay l) clean)⟩

/-- Settles O23: a gather reads its words and a scatter writes them, lane by lane. -/
theorem lanesGatherAndScatter : Obligations.LanesGatherAndScatter := by
  intro s l f a
  refine ⟨fun h => ?_, fun h => ?_⟩
  · obtain ⟨t, ht, rest⟩ := execVgather_puts a h
    exact ⟨t, ht, rest⟩
  · obtain ⟨t, ht, only, moved, puts, mem, errors⟩ := execVscatter_puts a h
    refine ⟨t, ht, only, moved, puts, errors, fun x hx => ?_, fun i hi distinct => ?_⟩
    · rw [State.byte, mem]
      exact State.byte_scatterWords_outside _ _ _ fun y hy => hx y.1 (scattered_mem hy)
    · rw [State.bytes_of_mem mem]
      exact State.bytes_scattered (fun o ho => (a o ho).aligned) hi distinct _

end Sys2Proof.Machine
end

section
/-!
Stagehands, the vector, integer-lane and predicate instructions (O24, O25).
-/
namespace Sys2Proof.Machine

-- One declaration after another: the whole text elaborated in parallel outgrows the memory of its check.
set_option Elab.async false

/-! ### Lanes of a packed register -/

theorem packNat_lt (w : Nat) (l : List Nat) : packNat w l < 2 ^ (w * l.length) := by
  induction l with
  | nil => simp [packNat]
  | cons x xs ih =>
    have lo : x % 2 ^ w < 2 ^ w := Nat.mod_lt _ (Nat.two_pow_pos w)
    have hi : packNat w xs + 1 ≤ 2 ^ (w * xs.length) := ih
    calc packNat w (x :: xs) < 2 ^ w * (packNat w xs + 1) := by simp only [packNat, Nat.mul_add]; omega
      _ ≤ 2 ^ w * 2 ^ (w * xs.length) := Nat.mul_le_mul_left _ hi
      _ = 2 ^ (w * (x :: xs).length) := by rw [← Nat.pow_add, List.length_cons, Nat.mul_succ, Nat.add_comm]

/-- The i-th of the numbers packed, w bits wide. -/
theorem packNat_get (w : Nat) (l : List Nat) (i : Nat) : packNat w l / 2 ^ (w * i) % 2 ^ w = l.getD i 0 % 2 ^ w := by
  induction l generalizing i with
  | nil => simp [packNat]
  | cons x xs ih =>
    cases i with
    | zero => simp [packNat]
    | succ i =>
      have lo : x % 2 ^ w < 2 ^ w := Nat.mod_lt _ (Nat.two_pow_pos w)
      have split : packNat w (x :: xs) / 2 ^ w = packNat w xs := by
        rw [packNat, Nat.add_mul_div_left _ _ (Nat.two_pow_pos w), Nat.div_eq_of_lt lo, Nat.zero_add]
      rw [Nat.mul_succ, Nat.add_comm, Nat.pow_add, ← Nat.div_div_eq_div_mul, split, ih]
      rfl

/-- The same of a register that holds them all. -/
theorem packed_get {w : Nat} {l : List Nat} (fits : w * l.length ≤ 512) (i : Nat) :
    (BitVec.ofNat 512 (packNat w l)).toNat >>> (w * i) % 2 ^ w = l.getD i 0 % 2 ^ w := by
  have lt := Nat.lt_of_lt_of_le (packNat_lt w l) (Nat.pow_le_pow_right Nat.two_pos fits)
  rw [BitVec.toNat_ofNat, Nat.mod_eq_of_lt lt, Nat.shiftRight_eq_div_pow, packNat_get]

theorem getD_map_toNat {n : Nat} (l : List (BitVec n)) (i : Nat) : (l.map BitVec.toNat).getD i 0 = (l.getD i 0).toNat := by
  simp only [List.getD_eq_getElem?_getD, List.getElem?_map]
  cases l[i]? <;> simp

theorem lane16_vec16 {l : List (BitVec 16)} (len : l.length = 32) (i : Nat) : lane16 (vec16 l) i = l.getD i 0 := by
  apply BitVec.eq_of_toNat_eq
  have e := packed_get (w := 16) (l := l.map BitVec.toNat) (by simp [len]) i
  rw [getD_map_toNat, Nat.mod_eq_of_lt (BitVec.isLt _)] at e
  rw [lane16, BitVec.toNat_ofNat]
  exact e

theorem lane32_vec32 {l : List Word} (len : l.length = 16) (i : Nat) : lane32 (vec32 l) i = l.getD i 0 := by
  apply BitVec.eq_of_toNat_eq
  have e := packed_get (w := 32) (l := l.map BitVec.toNat) (by simp [len]) i
  rw [getD_map_toNat, Nat.mod_eq_of_lt (BitVec.isLt _)] at e
  rw [lane32, BitVec.toNat_ofNat]
  exact e

/-- Element i of a list made from a range. -/
theorem getD_map_range {α : Type} (g : Nat → α) (d : α) {i n : Nat} (h : i < n) : ((List.range n).map g).getD i d = g i := by
  simp [List.getD_eq_getElem?_getD, h]

theorem lane16_range (g : Nat → BitVec 16) {i : Nat} (h : i < 32) : lane16 (vec16 ((List.range 32).map g)) i = g i := by
  rw [lane16_vec16 (by simp), getD_map_range g 0 h]

theorem lane32_range (g : Nat → Word) {i : Nat} (h : i < 16) : lane32 (vec32 ((List.range 16).map g)) i = g i := by
  rw [lane32_vec32 (by simp), getD_map_range g 0 h]

/-- A lane of a BF16 operation under a predicate. -/
theorem lane16_mapLanes16 (pred : Word) (old : BitVec 512) (g : Nat → BitVec 16 × StickyFlags) {i : Nat} (h : i < 32) :
    lane16 (mapLanes16 pred old g).1 i = if pred.getLsbD i then (g i).1 else lane16 old i := by
  simp only [mapLanes16, List.map_map]
  rw [lane16_range _ h]
  simp only [Function.comp_apply]
  split <;> rfl

/-- A flag of or'ed flags is set when some of them sets it. -/
theorem getLsbD_foldl_or {α : Type} (g : α → StickyFlags) (l : List α) (z : StickyFlags) (k : Nat) :
    (l.foldl (fun a r => a ||| g r) z).getLsbD k = true ↔ z.getLsbD k = true ∨ ∃ x ∈ l, (g x).getLsbD k = true := by
  induction l generalizing z with
  | nil => simp
  | cons x xs ih => simp [ih, or_assoc]

/-- The flags of a BF16 operation are those of the lanes the predicate selects. -/
theorem flags_mapLanes16 (pred : Word) (old : BitVec 512) (g : Nat → BitVec 16 × StickyFlags) (k : Nat) :
    (mapLanes16 pred old g).2.getLsbD k = true ↔ ∃ i, i < 32 ∧ pred.getLsbD i = true ∧ (g i).2.getLsbD k = true := by
  simp only [mapLanes16]
  rw [getLsbD_foldl_or]
  constructor
  · rintro (z | ⟨x, hx, hk⟩)
    · simp at z
    · obtain ⟨i, hi, rfl⟩ := List.mem_map.mp hx
      by_cases p : pred.getLsbD i = true
      · exact ⟨i, List.mem_range.mp hi, p, by simpa [p] using hk⟩
      · simp [p] at hk
  · rintro ⟨i, hi, p, hk⟩
    exact .inr ⟨_, List.mem_map.mpr ⟨i, List.mem_range.mpr hi, rfl⟩, by simpa [p] using hk⟩

theorem lane32_mapLanes32 (pred : Word) (old : BitVec 512) (g : Nat → Word) {i : Nat} (h : i < 16) :
    lane32 (mapLanes32 pred old g) i = if pred.getLsbD (2 * i) then g i else lane32 old i :=
  lane32_range _ h

/-! ### Vector results -/

/-- The result of an update that writes the vector register D and sets flags. -/
theorem putsV_result {s : State} {l lat : Nat} {f : ShFields} {upd : Stagehand → Stagehand} {x : BitVec 512} {fl : StickyFlags}
    {g h : Stagehand} (d : shDests f = [.v f.d])
    (u : upd (s.blank l) = ((s.blank l).setV f.d x).flag fl)
    (e : SameRegs g (h.write (s.result l f lat upd))) : PutsV h g f.d x fl := by
  refine putsV_write e ?_ ?_ ?_ ?_ rfl
  · simp only [State.result, putWrite, d, List.filterMap_cons, List.filterMap_nil]
  · have same : (upd (s.blank l)).getV f.d = x := by
      rw [u]
      exact (Stagehand.getV_setV ..).trans (if_pos rfl)
    rw [State.blank] at same
    simp only [State.result, putWrite, d, List.filterMap_cons, List.filterMap_nil, same]
  · simp only [State.result, putWrite, d, List.filterMap_cons, List.filterMap_nil]
  · have flags : (upd (s.blank l)).flags = fl := by
      rw [u]
      exact BitVec.zero_or
    exact flags

theorem Stagehand.flag_none (h : Stagehand) : h.flag 0 = h := by simp [Stagehand.flag]

/-- A register form that writes the vector register D and sets flags. -/
theorem shReg_putsV {s : State} {l opc : Nat} {f : ShFields} {upd : ShFields → Stagehand → Stagehand} {x : BitVec 512}
    {fl : StickyFlags} (h : Issues s l opc f) (d : shDests f = [.v f.d])
    (u : upd f (s.blank l) = ((s.blank l).setV f.d x).flag fl) :
    ∃ t, shReg opc upd l s = .next t ∧ OnlyHand s t l ∧ MovedOn s t l ∧
      PutsV (s.handAt l (s.issueAt l + shLatency opc)) (t.handAt l (s.issueAt l + shLatency opc)) f.d x fl := by
  obtain ⟨t, ht, only, moved, regs⟩ := shReg_puts (upd := upd) h
  exact ⟨t, ht, only, moved, putsV_result d u regs⟩

/-- The result of a lane operation of stagehand l (R136, R141). -/
def State.laneResult (s : State) (l : Nat) (f : ShFields)
    (op : BitVec 16 → BitVec 16 → BitVec 16 → BitVec 16 × StickyFlags) : BitVec 512 × StickyFlags :=
  mapLanes16 ((s.issuer l).getP f.p) ((s.issuer l).getV f.d)
    (fun i => op (lane16 ((s.issuer l).getV f.a) i) (lane16 ((s.issuer l).getV f.b) i) (lane16 ((s.issuer l).getV f.d) i))

theorem shLane_puts {s : State} {l opc : Nat} {f : ShFields} {op : BitVec 16 → BitVec 16 → BitVec 16 → BitVec 16 × StickyFlags}
    (h : Issues s l opc f) (r : 0x40 ≤ opc ∧ opc ≤ 0x4A) :
    ∃ t, shLane opc op l s = .next t ∧ OnlyHand s t l ∧ MovedOn s t l ∧
      PutsV (s.handAt l (s.issueAt l + shLatency opc)) (t.handAt l (s.issueAt l + shLatency opc)) f.d (s.laneResult l f op).1
        (s.laneResult l f op).2 :=
  shReg_putsV h (shDests_vector h.opcode (by omega)) (by simp only [State.getV_blank, State.getP_blank]; rfl)

/-- The rows of lane operations are `shLane` at their latencies. -/
theorem laneRows_forms : ∀ r ∈ laneRows, (∀ l s, exec (r.1 l) s = shLane r.2.1 r.2.2.2 l s) ∧ (0x40 ≤ r.2.1 ∧ r.2.1 ≤ 0x4A) ∧
    shLatency r.2.1 = r.2.2.1 := by
  simp only [laneRows, List.forall_mem_cons]
  refine ⟨?_, ?_, ?_, ?_, ?_, ?_, ?_, ?_, ?_, ?_, ?_, List.forall_mem_nil _⟩
  all_goals exact ⟨fun _ _ => rfl, by decide, rfl⟩

/-- VSEL takes each lane from vA or vB. -/
theorem execVsel_puts {s : State} {l : Fin 6144} {f : ShFields} (h : Issues s l 0x4F f) :
    ∃ t, execVsel l s = .next t ∧ OnlyHand s t l ∧ MovedOn s t l ∧
      PutsV (s.handAt l (s.issueAt l + 1)) (t.handAt l (s.issueAt l + 1)) f.d (vec16 ((List.range 32).map (fun i =>
        if ((s.issuer l).getP f.p).getLsbD i then lane16 ((s.issuer l).getV f.a) i else lane16 ((s.issuer l).getV f.b) i))) 0 :=
  shReg_putsV h (shDests_vector h.opcode (by omega)) (by simp only [State.getV_blank, State.getP_blank, Stagehand.flag_none])

/-- VBCAST is a lane operation that sets no flag. -/
theorem execVbcast_puts {s : State} {l : Fin 6144} {f : ShFields} (h : Issues s l 0x52 f) :
    ∃ t, execVbcast l s = .next t ∧ OnlyHand s t l ∧ MovedOn s t l ∧
      PutsV (s.handAt l (s.issueAt l + 1)) (t.handAt l (s.issueAt l + 1)) f.d
        (mapLanes16 ((s.issuer l).getP f.p) ((s.issuer l).getV f.d) (fun _ => (((s.issuer l).getS f.a).setWidth 16, 0))).1 0 :=
  shReg_putsV h (shDests_vector h.opcode (by omega))
    (by simp only [State.getS_blank, State.getV_blank, State.getP_blank, Stagehand.flag_none])

/-- Settles O24: lanes and flags of `mapLanes16` for the lane operations and VBCAST, the lanes of VSEL. -/
theorem vectorLanesUnderPredicate : Obligations.VectorLanesUnderPredicate := by
  refine ⟨fun mk opc lat op row s l f h => ?_, fun s l f => ⟨fun h => ?_, fun h => ?_⟩⟩
  · obtain ⟨e, range, late⟩ := laneRows_forms _ row
    dsimp only at e range late
    subst late
    obtain ⟨t, ht, only, moved, puts⟩ := shLane_puts (op := op) h range
    refine ⟨t, (e l s).trans ht, only, moved, _, _, puts, fun i hi => ?_, fun k _ => ?_⟩
    · exact lane16_mapLanes16 _ _ _ hi
    · exact flags_mapLanes16 _ _ _ k
  · obtain ⟨t, ht, only, moved, puts⟩ := execVsel_puts h
    exact ⟨t, ht, only, moved, _, puts, fun i hi => lane16_range _ hi⟩
  · obtain ⟨t, ht, only, moved, puts⟩ := execVbcast_puts h
    exact ⟨t, ht, only, moved, _, puts, fun i hi => lane16_mapLanes16 _ _ _ hi⟩

/-! ### Integer lanes and predicates -/

theorem shIntLane_puts {s : State} {l opc : Nat} {f : ShFields} {op : Stagehand → ShFields → Nat → Word}
    (h : Issues s l opc f) (r : 0x58 ≤ opc ∧ opc ≤ 0x5C) :
    ∃ t, shIntLane opc op l s = .next t ∧ OnlyHand s t l ∧ MovedOn s t l ∧
      PutsV (s.handAt l (s.issueAt l + shLatency opc)) (t.handAt l (s.issueAt l + shLatency opc)) f.d
        (mapLanes32 ((s.issuer l).getP f.p) ((s.issuer l).getV f.d) (op (s.blank l) f)) 0 :=
  shReg_putsV h (shDests_vector h.opcode (by omega)) (by rw [State.getV_blank, State.getP_blank, Stagehand.flag_none])

/-- The rows of integer-lane operations are `shIntLane`, with operands read at issue. -/
theorem intLaneRows_forms : ∀ r ∈ intLaneRows, (∀ l s, exec (r.1 l) s = shIntLane r.2.1 r.2.2 l s) ∧ (0x58 ≤ r.2.1 ∧ r.2.1 ≤ 0x5C) ∧
    shLatency r.2.1 = 2 ∧ ∀ (s : State) (l : Nat) f i, r.2.2 (s.blank l) f i = r.2.2 (s.issuer l) f i := by
  simp only [intLaneRows, List.forall_mem_cons]
  refine ⟨?_, ?_, ?_, ?_, ?_, List.forall_mem_nil _⟩
  all_goals exact ⟨fun _ _ => rfl, by decide, rfl, fun _ _ _ _ => by simp only [State.getS_blank, State.getV_blank]⟩

theorem shDests_predicate {f : ShFields} {opc : Nat} (o : f.opc = opc) (r : (0x4C ≤ opc ∧ opc ≤ 0x4E) ∨ (0x60 ≤ opc ∧ opc ≤ 0x63)) :
    shDests f = [.p f.d] := by
  subst o
  unfold shDests
  dsimp only
  rw [if_neg (by omega), if_neg (by omega), if_neg (by omega), if_pos r]

/-- The predicate register D takes x, and no other register and no flag changes. -/
structure PutsP (h g : Stagehand) (d : Nat) (x : Word) : Prop where
  result : g.getP d = if d = 0 then 0xFFFFFFFF else x
  predicates : ∀ r, r ≠ d → g.getP r = h.getP r
  scalars : sameScalars h g
  vectors : sameVectors h g
  flags : g.flags = h.flags

theorem putsP_write {g h : Stagehand} {w : ShWrite} {d : Nat} {u x : Word} (e : SameRegs g (h.write w)) (hs : w.s = []) (hv : w.v = [])
    (hp : w.p = [(d, u)]) (hu : d ≠ 0 → u = x) (hf : w.flags = 0) (hc : w.clear = 0) : PutsP h g d x := by
  have wr : h.write w = h.setP d u := by
    simp only [Stagehand.write, hs, hv, hp, hf, hc, List.foldl_cons, List.foldl_nil, flags_clear_none, flags_or_none]
  have getP : ∀ r, g.getP r = (h.setP d u).getP r := fun r => by rw [Stagehand.getP, e.p, wr]; rfl
  refine ⟨?_, fun r hr => ?_, fun r => ?_, fun r => ?_, ?_⟩
  · rw [getP, Stagehand.getP_setP]
    by_cases hd : d = 0
    · simp [hd, Stagehand.getP]
    · simp [hd, hu hd]
  · rw [getP, Stagehand.getP_setP]
    simp [hr]
  · rw [Stagehand.getS, e.s, wr]
    simp [Stagehand.getS]
  · rw [Stagehand.getV, e.v, wr]
    simp [Stagehand.getV]
  · rw [e.flags, wr, Stagehand.setP_flags]

/-- A register form that writes the predicate register D. -/
theorem shReg_putsP {s : State} {l opc : Nat} {f : ShFields} {upd : ShFields → Stagehand → Stagehand} {x : Word}
    (h : Issues s l opc f) (r : (0x4C ≤ opc ∧ opc ≤ 0x4E) ∨ (0x60 ≤ opc ∧ opc ≤ 0x63))
    (u : upd f (s.blank l) = (s.blank l).setP f.d x) :
    ∃ t, shReg opc upd l s = .next t ∧ OnlyHand s t l ∧ MovedOn s t l ∧
      PutsP (s.handAt l (s.issueAt l + shLatency opc)) (t.handAt l (s.issueAt l + shLatency opc)) f.d x := by
  obtain ⟨t, ht, only, moved, regs⟩ := shReg_puts (upd := upd) h
  have d := shDests_predicate h.opcode r
  refine ⟨t, ht, only, moved, putsP_write regs (u := (upd f (s.blank l)).getP f.d) ?_ ?_ ?_ ?_ ?_ rfl⟩
  · simp only [State.result, putWrite, d, List.filterMap_cons, List.filterMap_nil]
  · simp only [State.result, putWrite, d, List.filterMap_cons, List.filterMap_nil]
  · simp only [State.result, putWrite, d, List.filterMap_cons, List.filterMap_nil, State.blank]
  · intro hd
    rw [u, Stagehand.getP_setP, if_pos ⟨rfl, hd⟩]
  · have flags : (upd f (s.blank l)).flags = 0 := by rw [u, Stagehand.setP_flags]; rfl
    exact flags

/-- A word made bit by bit. -/
theorem getLsbD_setBits (v : Nat → Bool) (n : Nat) {i : Nat} (hi : i < 32) :
    ((List.range n).foldl (fun (acc : Word) j => if v j then acc ||| (1 <<< j) else acc) 0).getLsbD i = (decide (i < n) && v i) := by
  induction n with
  | zero => simp
  | succ n ih =>
    rw [List.range_succ, List.foldl_append, List.foldl_cons, List.foldl_nil]
    have one : (((1 <<< n : Nat) : Word)).getLsbD i = decide (n = i) := by
      rw [BitVec.natCast_eq_ofNat, BitVec.getLsbD_ofNat, Nat.one_shiftLeft, Nat.testBit_two_pow, decide_eq_true hi, Bool.true_and]
    by_cases hv : v n = true
    · rw [if_pos hv, BitVec.getLsbD_or, ih, one]
      by_cases e : i = n
      · subst e; simp [hv]
      · have : decide (i < n + 1) = decide (i < n) := by simp; omega
        rw [this, decide_eq_false (Ne.symm e), Bool.or_false]
    · rw [if_neg hv, ih]
      by_cases e : i = n
      · subst e; simp [hv]
      · have : decide (i < n + 1) = decide (i < n) := by simp; omega
        rw [this]

/-- What O25 says of a predicate instruction. -/
def PredicateForm (mk : Fin 6144 → Instr) (opc lat : Nat) (val : Stagehand → ShFields → Nat → Bool) : Prop :=
  ∀ (s : State) (l : Fin 6144) (f : ShFields), Issues s l opc f → ∃ t x, Machine.exec (mk l) s = .next t ∧ OnlyHand s t l ∧
    MovedOn s t l ∧ PutsP (s.handAt l (s.issueAt l + lat)) (t.handAt l (s.issueAt l + lat)) f.d x ∧
    ∀ i, i < 32 → x.getLsbD i = val (s.issuer l) f i

theorem PredicateForm.reg {mk : Fin 6144 → Instr} {opc lat : Nat} {val : Stagehand → ShFields → Nat → Bool}
    {upd : ShFields → Stagehand → Stagehand} (x : Stagehand → ShFields → Word) (e : ∀ l s, exec (mk l) s = shReg opc upd l s)
    (u : ∀ (s : State) (l : Nat) f, upd f (s.blank l) = (s.blank l).setP f.d (x (s.issuer l) f))
    (bits : ∀ h f i, i < 32 → (x h f).getLsbD i = val h f i)
    (r : (0x4C ≤ opc ∧ opc ≤ 0x4E) ∨ (0x60 ≤ opc ∧ opc ≤ 0x63) := by decide) (late : shLatency opc = lat := by rfl) :
    PredicateForm mk opc lat val := by
  subst late
  intro s l f h
  rw [e]
  obtain ⟨t, ht, only, moved, puts⟩ := shReg_putsP h r (u s l f)
  exact ⟨t, _, ht, only, moved, puts, bits _ _⟩

/-- The bits of a comparison under pP (R142). -/
def compareBits (cmp : Num → Num → Bool) (h : Stagehand) (f : ShFields) : Word :=
  (List.range 32).foldl (fun (acc : Word) i =>
    if (if (h.getP f.p).getLsbD i then cmp (bf16 (lane16 (h.getV f.a) i)) (bf16 (lane16 (h.getV f.b) i))
        else (h.getP f.d).getLsbD i) then acc ||| (1 <<< i) else acc) 0

theorem getLsbD_compareBits (cmp : Num → Num → Bool) (h : Stagehand) (f : ShFields) {i : Nat} (hi : i < 32) :
    (compareBits cmp h f).getLsbD i = if (h.getP f.p).getLsbD i then cmp (bf16 (lane16 (h.getV f.a) i)) (bf16 (lane16 (h.getV f.b) i))
      else (h.getP f.d).getLsbD i := by
  rw [compareBits, getLsbD_setBits _ _ hi, decide_eq_true hi, Bool.true_and]

theorem predicateRows_forms : ∀ r ∈ predicateRows, PredicateForm r.1 r.2.1 r.2.2.1 r.2.2.2 := by
  simp only [predicateRows, List.forall_mem_cons]
  exact ⟨
    .reg (fun h f => h.getP f.a &&& h.getP f.b) (fun _ _ => rfl) (fun _ _ _ => by simp only [State.getP_blank]) fun _ _ _ _ => BitVec.getLsbD_and,
    .reg (fun h f => h.getP f.a ||| h.getP f.b) (fun _ _ => rfl) (fun _ _ _ => by simp only [State.getP_blank]) fun _ _ _ _ => BitVec.getLsbD_or,
    .reg (fun h f => ~~~h.getP f.a) (fun _ _ => rfl) (fun _ _ _ => by simp only [State.getP_blank]) fun _ _ i hi => by
      rw [BitVec.getLsbD_not, decide_eq_true hi, Bool.true_and],
    .reg (fun h f => h.getS f.a) (fun _ _ => rfl) (fun _ _ _ => by simp only [State.getS_blank]) fun _ _ _ _ => rfl,
    .reg (compareBits ltNum) (fun _ _ => rfl) (fun _ _ _ => by simp only [State.getV_blank, State.getP_blank, compareBits]) fun h f _ hi => getLsbD_compareBits ltNum h f hi,
    .reg (compareBits fun a b => ltNum a b || eqNum a b) (fun _ _ => rfl) (fun _ _ _ => by simp only [State.getV_blank, State.getP_blank, compareBits]) fun h f _ hi => getLsbD_compareBits _ h f hi,
    .reg (compareBits eqNum) (fun _ _ => rfl) (fun _ _ _ => by simp only [State.getV_blank, State.getP_blank, compareBits]) fun h f _ hi => getLsbD_compareBits eqNum h f hi,
    List.forall_mem_nil _⟩

/-- Settles O25: the integer lanes of `mapLanes32`, and the bits of each predicate instruction's result. -/
theorem integerLanesAndPredicates : Obligations.IntegerLanesAndPredicates := by
  refine ⟨fun mk opc val row s l f h => ?_, fun mk opc lat val row s l f h => ?_⟩
  · obtain ⟨e, range, late, same⟩ := intLaneRows_forms _ row
    dsimp only at e range late same
    obtain ⟨t, ht, only, moved, puts⟩ := shIntLane_puts (op := val) h range
    rw [late] at puts
    refine ⟨t, (e l s).trans ht, only, moved, _, puts, fun i hi => ?_⟩
    rw [lane32_mapLanes32 _ _ _ hi, same]
  · obtain ⟨t, x, ht, only, moved, puts, bits⟩ := predicateRows_forms _ row s l f h
    refine ⟨t, ht, only, moved, fun i hi => ?_, puts.predicates, puts.scalars, puts.vectors, puts.flags⟩
    rw [puts.result, ← show _ = val _ f i from bits i hi]
    by_cases d : f.d = 0
    · rw [if_pos d, if_pos d]
      exact (by decide : ∀ i, i < 32 → (0xFFFFFFFF : Word).getLsbD i = true) i hi
    · rw [if_neg d, if_neg d]

end Sys2Proof.Machine
end

section
/-!
Stagehands: why the conversions' statement fails (O26). The draws of stochastic rounding take the stream and the index from s29 to
s31 as they stand at issue (R146, R134); the statement takes them from the stagehand's state before the results due by then are
written.
-/
namespace Sys2Proof.Machine

-- One declaration after another: the whole text elaborated in parallel outgrows the memory of its check.
set_option Elab.async false

/-- A result of cycle 0, still in flight: s30 takes 2. -/
def Tests.indexInFlight : ShWrite :=
  { due := 0, s := [(30, 2)], v := [], p := [], flags := 0, clear := 0, load := false, store := false, words := [], ask := 0, age := 0 }

/-- Stagehand 0 in cycle 0, before VCVTI v0, v1 of FMT 0 under stochastic rounding, with 0.25 in lane 0 of v1 and a new index for the
draws due in the present cycle. -/
def Tests.lateIndex : State :=
  Tests.up.setHand 0 { Stagehand.idle with
    running := true, istore := [(0, 0x6A004020)], v := [(1, 0x3E80)], flight := [Tests.indexInFlight] }

theorem lateIndex_issues : Issues Tests.lateIndex 0 0x6A (shFields 0x6A004020) :=
  ⟨by decide, by decide, by decide, by decide, by decide, by decide, by decide, by decide⟩

/-- VCVTI of the state: lane 0 is rounded down by the draw at index 2. -/
theorem lateIndex_converts : ∃ t, exec (.vcvti 0) Tests.lateIndex = .next t ∧ lane32 ((t.handAt 0 4).getV 0) 0 = 0 :=
  ⟨_, rfl, by decide +kernel⟩

/-- The draw at index 0, which s30 holds before that result, rounds it up. -/
theorem lateIndex_stale :
    (toInt32 (Tests.lateIndex.shRnd 0 2 0) (bf16 (lane16 ((Tests.lateIndex.issuer 0).getV 1) 0))).1 = 1 := by decide +kernel

/-- Refutes O26: VCVTI rounds by the draw at the index its issue reads, not by the one before the results due by then. -/
theorem not_reductionsAndConversions : ¬ Obligations.ReductionsAndConversions := by
  intro h
  obtain ⟨-, -, -, vcvti, -⟩ := h Tests.lateIndex 0 (shFields 0x6A004020)
  obtain ⟨t, ht, -, -, x, g, puts, narrow, -⟩ := vcvti lateIndex_issues
  obtain ⟨u, hu, down⟩ := lateIndex_converts
  obtain rfl : u = t := Host.Outcome.next.inj (hu.symm.trans ht)
  have lane : lane32 x 0 = 1 := (narrow (by decide) 0 (by decide)).trans lateIndex_stale
  have result : lane32 x 0 = 0 := by
    rw [← puts.result]
    exact down
  rw [lane] at result
  exact absurd result (by decide)

end Sys2Proof.Machine
end

section
/-!
Stagehands: flags and curtains (O27), words that fault (O28), and the flits of RGET and RPUT (O29).
-/
namespace Sys2Proof.Machine

-- One declaration after another: the whole text elaborated in parallel outgrows the memory of its check.
set_option Elab.async false

/-! ### WAITF, SETF and CURT -/

theorem execWaitf_eq {s : State} {l : Fin 6144} {f : ShFields} (h : Issues s l 0x78 f) :
    execWaitf l s = .next (s.setHand l (if s.flagAt (handBay l) (s.hand l).part f.imm.toNat then (s.issuing l).nextPc
      else { s.issuing l with wait := .flag f.imm.toNat })) := by
  refine shIssue_done h ?_
  simp only [State.hand_setHand_same, State.setHand_setHand, State.flagAt_setHand, issuing_part]

theorem execSetf_eq {s : State} {l : Fin 6144} {f : ShFields} (h : Issues s l 0x79 f) (room : s.crtFull (handBay l) = false) :
    execSetf l s = .next ((s.setHand l (s.issuing l).nextPc).sendCrt (handBay l) (.flagSet (s.hand l).part f.imm.toNat)) := by
  refine shIssue_done h ?_
  have full : (s.setHand l (s.issuing l)).crtFull (handBay l) = false := room
  simp only [State.hand_setHand_same, State.setHand_setHand, issuing_part, full, Bool.false_eq_true, if_false]

theorem execCurt_eq {s : State} {l : Fin 6144} {f : ShFields} (h : Issues s l 0x7A f) (room : s.crtFull (handBay l) = false) :
    execCurt l s = .next ((s.setHand l { s.issuing l with wait := .curtain f.imm.toNat }).sendCrt (handBay l)
      (.arrive (s.hand l).part f.imm.toNat 0 (s.hand l).ctx 2 l)) := by
  refine shIssue_done h ?_
  have full : (s.setHand l (s.issuing l)).crtFull (handBay l) = false := room
  simp only [State.hand_setHand_same, State.setHand_setHand, issuing_part, issuing_ctx, full, Bool.false_eq_true, if_false]

theorem State.sendCrt_setHand_rest (s : State) (l : Nat) (g : Stagehand) (n : Nat) (e : CrtEvent) :
    { (s.setHand l g).sendCrt n e with stagehands := s.stagehands, crt := s.crt } = s := rfl

theorem State.sendCrt_setHand_crt (s : State) (l : Nat) (g : Stagehand) (n : Nat) (e : CrtEvent) :
    ((s.setHand l g).sendCrt n e).crt = (s.sendCrt n e).crt := rfl

/-- Settles O27: each of the three does its work with the stagehand as it issues. -/
theorem flagsAndCurtainsOfAStagehand : Obligations.FlagsAndCurtainsOfAStagehand := by
  intro s l f
  refine ⟨fun h => ⟨_, execWaitf_eq h, .setHand .., fun set => ?_, fun clear => ?_⟩,
    fun h room => ⟨_, execSetf_eq h room, ?_, fun k hk => ?_, State.sendCrt_setHand_crt .., State.sendCrt_setHand_rest ..⟩,
    fun h room => ⟨_, execCurt_eq h room, ?_, fun k hk => ?_, ?_, ?_, State.sendCrt_setHand_rest ..⟩⟩
  · rw [State.hand_setHand_same, if_pos set]
  · rw [State.hand_setHand_same, clear, if_neg Bool.false_ne_true]
  · rw [State.hand_sendCrt, State.hand_setHand_same]
  · rw [State.hand_sendCrt, State.hand_setHand_other _ _ _ _ hk]
  · rw [State.hand_sendCrt, State.hand_setHand_same]
  · rw [State.hand_sendCrt, State.hand_setHand_other _ _ _ _ hk]
  · rw [State.sendCrt_setHand_crt]
    rfl
  · rw [State.sendCrt_setHand_crt]
    rfl

/-! ### Words that fault -/

theorem mem_of_mem_sdel {α : Type} {m : Sparse α} {k : Nat} {x : Nat × α} (h : x ∈ sdel m k) : x ∈ m := by
  induction m with
  | nil => exact h
  | cons y ys ih =>
    obtain ⟨j, v⟩ := y
    simp only [sdel] at h
    split at h
    · exact List.mem_cons_of_mem _ (ih h)
    · rcases List.mem_cons.mp h with rfl | h
      · exact List.mem_cons_self
      · exact List.mem_cons_of_mem _ (ih h)

/-- Every value of a changed store is what the change makes of a listed one. -/
theorem mem_smap {α : Type} [DecidableEq α] {d : α} {g : Nat → α → α} {m : Sparse α} {x : Nat × α} (h : x ∈ smap d g m) :
    ∃ v, x.2 = g x.1 v := by
  induction m with
  | nil => cases h
  | cons y ys ih =>
    obtain ⟨k, v⟩ := y
    simp only [smap] at h
    split at h
    · exact ih (mem_of_mem_sdel h)
    · rcases List.mem_cons.mp h with rfl | h
      · exact ⟨v, rfl⟩
      · exact ih h

/-- The stagehands of a context have halted once they are stopped (R152). -/
theorem State.stopHands_halted (s : State) (p c : Nat) :
    ∀ kv ∈ (s.stopHands p c).stagehands, kv.2.part = p → kv.2.ctx = c → kv.2.running = false := by
  intro kv hkv part ctx
  obtain ⟨v, e⟩ := mem_smap (show kv ∈ smap Stagehand.idle _ s.stagehands from hkv)
  rw [e] at part ctx ⊢
  by_cases runs : v.runsFor p c = true
  · rw [if_pos runs]
    rfl
  · rw [if_neg runs] at part ctx ⊢
    simpa [Stagehand.runsFor, part, ctx] using runs

/-- Where a stagehand stands, and for whom it runs. -/
structure SamePlace (h g : Stagehand) : Prop where
  part : g.part = h.part
  ctx : g.ctx = h.ctx
  bookoff : g.bookoff = h.bookoff
  pc : g.pc = h.pc

theorem SamePlace.trans {a b c : Stagehand} (x : SamePlace a b) (y : SamePlace b c) : SamePlace a c :=
  ⟨y.part.trans x.part, y.ctx.trans x.ctx, y.bookoff.trans x.bookoff, y.pc.trans x.pc⟩

theorem RunsAs.place {h g : Stagehand} (r : RunsAs h g) : SamePlace h g := by
  obtain ⟨-, -, part, ctx, -, -, -, -, bookoff, -⟩ := r.run
  exact ⟨part, ctx, bookoff, r.pc⟩

theorem State.cutHands_place (s : State) (p c k : Nat) : SamePlace (s.hand k) ((s.cutHands p c).hand k) := by
  have e : (s.cutHands p c).hand k = _ := sget_smap Stagehand.idle _ (fun _ => rfl) s.stagehands k
  rw [e]
  dsimp only
  split <;> exact ⟨rfl, rfl, rfl, rfl⟩

theorem State.stopHands_place (s : State) (p c k : Nat) : SamePlace (s.hand k) ((s.stopHands p c).hand k) := by
  have e : (s.stopHands p c).hand k = _ := sget_smap Stagehand.idle _ (fun _ => rfl) s.stagehands k
  rw [e]
  split <;> exact ⟨rfl, rfl, rfl, rfl⟩

/-- The state in which the stagehands of a context have been stopped by a fault (R152). -/
def State.faultStopped (s : State) (p c : Nat) : State := ((s.unflagSets p c).cutHands p c).stopHands p c

theorem State.shFault_eq (s : State) (l r a : Nat) :
    s.shFault l r a = (s.faultStopped (s.hand l).part (s.hand l).ctx).handFault l r a := rfl

theorem State.faultStopped_place (s : State) (p c l : Nat) : SamePlace (s.hand l) ((s.faultStopped p c).hand l) :=
  ((s.unflagSets p c).cutHands_place p c l).trans (State.stopHands_place _ p c l)

theorem State.faultStopped_halted (s : State) (p c : Nat) :
    ∀ kv ∈ (s.faultStopped p c).stagehands, kv.2.part = p → kv.2.ctx = c → kv.2.running = false :=
  State.stopHands_halted _ p c

@[simp] theorem State.faultStopped_mem (s : State) (p c : Nat) : (s.faultStopped p c).mem = s.mem := rfl
@[simp] theorem State.faultStopped_regs (s : State) (p c : Nat) : (s.faultStopped p c).regs = s.regs := rfl
@[simp] theorem State.faultStopped_clock (s : State) (p c : Nat) : (s.faultStopped p c).clock = s.clock := rfl
@[simp] theorem State.faultStopped_cueCyc (s : State) (p c : Nat) : (s.faultStopped p c).cueCyc = s.cueCyc := rfl
@[simp] theorem State.faultStopped_cuePkts (s : State) (p c : Nat) : (s.faultStopped p c).cuePkts = s.cuePkts := rfl
theorem State.handFault_mem (s : State) (l r a : Nat) : (s.handFault l r a).mem = s.mem := rfl
theorem State.handFault_regs (s : State) (l r a : Nat) : (s.handFault l r a).regs = s.regs := rfl
theorem State.handFault_stagehands (s : State) (l r a : Nat) : (s.handFault l r a).stagehands = s.stagehands := rfl

/-- The fault packet that a stagehand sends, by where it stands. -/
theorem State.handFault_cuePkts {s t : State} {l : Nat} (place : SamePlace (s.hand l) (t.hand l)) (pkts : t.cuePkts = s.cuePkts)
    (cyc : t.cueCyc = s.cueCyc) (clock : t.clock = s.clock) (r a : Nat) :
    (t.handFault l r a).cuePkts = (s.sendCue (.fault r (s.hand l).part (s.hand l).ctx 2 (handBay l) l (s.hand l).bookoff s.clock.house a
      [(s.hand l).pc % 256, (s.hand l).pc / 256 % 256])).cuePkts := by
  simp only [State.handFault, State.sendFault, State.sendCue, place.part, place.ctx, place.bookoff, place.pc, pkts, cyc, clock]

/-- A stagehand that faults as it issues has reported it (R152). -/
theorem handFaults_shFault (s : State) (l r : Nat) : HandFaults s ((s.setHand l (s.issuing l)).shFault l r 0) l r := by
  have issuing : SamePlace (s.hand l) (s.issuing l) := (RunsAs.issuer s l).place.trans ⟨rfl, rfl, rfl, rfl⟩
  rw [State.shFault_eq, State.hand_setHand_same, issuing.part, issuing.ctx]
  refine ⟨by rw [State.handFault_stagehands]; exact State.faultStopped_halted _ _ _, State.handFault_cuePkts ?_ (by simp) (by simp) (by simp) r 0,
    by simp [State.handFault_mem], by simp [State.handFault_regs]⟩
  refine .trans ?_ (State.faultStopped_place _ _ _ l)
  rwa [State.hand_setHand_same]

/-- A command of a stagehand's instruction is an issue of its opcode. -/
theorem stagehandRows_issue : ∀ r ∈ stagehandRows, ∃ body : Fin 6144 → ShFields → State → ShRes, ∀ (l : Fin 6144) (s : State),
    exec (r.1 l) s = shIssue r.2 (body l) l s := by
  simp only [stagehandRows, scalarRows, branchRows, loadRows, storeRows, laneRows, intLaneRows, predicateRows, List.map_cons, List.map_nil,
    List.cons_append, List.nil_append, List.forall_mem_cons]
  repeat refine ⟨⟨_, fun _ _ => rfl⟩, ?_⟩
  exact List.forall_mem_nil _

/-- A ready stagehand whose word's outcome is a fault of its own reports it. -/
theorem shIssue_handFaults {s : State} {l opc r : Nat} {body : ShFields → State → ShRes} (running : (s.hand l).running = true)
    (waits : (s.hand l).wait = .none) (due : s.issueAt l ≤ (s.bay (handBay l)).clk.cyc)
    (out : shOutcome opc body l (s.issueAt l) s = some (.fault (s.setHand l (s.issuing l)) r 0)) :
    ∃ t, shIssue opc body l s = .next t ∧ HandFaults s t l r := by
  refine ⟨_, ?_, handFaults_shFault s l r⟩
  have d : ¬ (s.bay (handBay l)).clk.cyc < (s.hand l).issueCycle (s.bay (handBay l)).clk := Nat.not_lt.mpr due
  have ready : (s.hand l).ready = true := by simp [Stagehand.ready, running, waits]
  rw [State.issueAt] at out
  simp only [shIssue, if_neg d, ready, if_true, out]

/-- Settles O28: a pc outside the store, an unlisted opcode and a check of R136 each come to a fault. -/
theorem unlistedWordFaultsItsContext : Obligations.UnlistedWordFaultsItsContext := by
  intro mk opc row s l running waits due
  obtain ⟨body, e⟩ := stagehandRows_issue _ row
  dsimp only at e
  simp only [e]
  refine ⟨fun outside => ?_, fun inside unlisted => ?_, fun r inside same free check => ?_⟩
  all_goals refine shIssue_handFaults running waits due ?_
  · exact if_pos outside
  · have ne : (s.issuer l).word.opc ≠ opc := by
      intro same
      have listed : ∀ r ∈ stagehandRows, shListed r.2 = true := by decide
      rw [same, listed _ row] at unlisted
      cases unlisted
    have p : ¬ 1023 < ((s.hand l).landed (s.issueAt l)).pc := Nat.not_lt.mpr inside
    have w : ((s.hand l).landed (s.issueAt l)).word.opc ≠ opc := ne
    have u : shListed ((s.hand l).landed (s.issueAt l)).word.opc = false := unlisted
    simp only [shOutcome, if_neg p, if_pos w, u]
    rfl
  · have p : ¬ 1023 < ((s.hand l).landed (s.issueAt l)).pc := Nat.not_lt.mpr inside
    have w : ((s.hand l).landed (s.issueAt l)).word.opc = opc := same
    have z : ((s.hand l).landed (s.issueAt l)).stalls ((s.hand l).landed (s.issueAt l)).word (s.issueAt l) = false := free
    have c : shCheck ((s.hand l).landed (s.issueAt l)) ((s.hand l).landed (s.issueAt l)).word = some r := check
    simp only [shOutcome, if_neg p, w, ne_eq, not_true_eq_false, if_false, z, Bool.false_eq_true, c]
    rfl

/-! ### RGET and RPUT -/

theorem issuing_store (s : State) (l : Nat) : (s.issuing l).istore = (s.hand l).istore := (RunsAs.issuer s l).run.1

theorem issuing_pc (s : State) (l : Nat) : (s.issuing l).pc = (s.hand l).pc := (RunsAs.issuer s l).pc

theorem issuing_puts (s : State) (l : Nat) : (s.issuing l).putsOut = (s.hand l).putsOut := by
  obtain ⟨-, -, -, -, -, puts, -⟩ := (RunsAs.issuer s l).run
  exact puts

theorem issuing_gets (s : State) (l : Nat) : (s.issuing l).getsOut = (s.hand l).getsOut := by
  obtain ⟨-, -, -, -, -, -, gets, -⟩ := (RunsAs.issuer s l).run
  exact gets

theorem State.gridAddrBad_issuing (s : State) (l off : Nat) : (s.setHand l (s.issuing l)).gridAddrBad l off = s.gridAddrBad l off := by
  simp only [State.gridAddrBad, State.hand_setHand_same, issuing_part, issuing_ctx, State.bayActive_setHand, State.partOfBay_setHand,
    State.ctx_setHand]

/-- The stagehand after an RGET or RPUT has sent its flit. -/
def State.sender (s : State) (l : Nat) (f : ShFields) : Stagehand :=
  Stagehand.nextPc (if f.opc = 0x3F then { s.issuing l with putsOut := (s.hand l).putsOut + 1 }
    else { s.issuing l with getsOut := (s.hand l).getsOut ++ [f.d] })

/-- The flit that an RGET or RPUT sends. -/
def State.sentFlit (s : State) (l : Nat) (f : ShFields) : Flit := gridFlit (s.issuer l) l f ((s.issuer l).getS f.a).toNat

/-- An RGET or RPUT whose checks pass and whose slot is the present one. -/
theorem shGrid_eq {s : State} {l opc : Nat} {f : ShFields} (h : Issues s l opc f) (addr : s.gridAddrBad l ((s.issuer l).getS f.a).toNat = none)
    (slot : s.slotOf (handBay l) = fld (sget 0 (s.hand l).istore (s.hand l).pc) 3 0) (free : s.slotFree l 0 = true) :
    shGrid opc l s = .next (if s.canStart (s.sentFlit l f) then (s.startFlit (s.sentFlit l f) 0).setHand l (s.sender l f)
      else s.setHand l { s.issuing l with wait := .slot (s.slotCount (handBay l) + 16) }) := by
  have same : (s.issuing l).getS f.a = (s.issuer l).getS f.a := rfl
  have bad := (s.gridAddrBad_issuing l ((s.issuer l).getS f.a).toNat).trans addr
  have now : (s.setHand l (s.issuing l)).slotOf (handBay l) = fld (sget 0 (s.issuing l).istore (s.issuing l).pc) 3 0 := by
    rw [issuing_store, issuing_pc]
    exact slot
  have unused : (s.setHand l (s.issuing l)).slotFree l 0 = true := free
  have can : (s.setHand l (s.issuing l)).canStart (gridFlit (s.issuing l) l f ((s.issuer l).getS f.a).toNat) =
      s.canStart (s.sentFlit l f) := rfl
  have start : (s.setHand l (s.issuing l)).startFlit (gridFlit (s.issuing l) l f ((s.issuer l).getS f.a).toNat) 0 =
      (s.startFlit (s.sentFlit l f) 0).setHand l (s.issuing l) := rfl
  have moved : Stagehand.nextPc (if opc = 0x3F then { s.issuing l with putsOut := (s.issuing l).putsOut + 1 }
      else { s.issuing l with getsOut := (s.issuing l).getsOut ++ [f.d] }) = s.sender l f := by
    rw [State.sender, h.opcode, issuing_puts, issuing_gets]
  refine shIssue_done h ?_
  simp only [State.hand_setHand_same, same, bad, now, unused, can, decide_true, Bool.and_self, if_true]
  by_cases room : s.canStart (s.sentFlit l f) = true
  · simp only [if_pos room, start, State.setHand_setHand, moved]
  · simp only [if_neg room, State.setHand_setHand]
    rfl

theorem sent_startFlit {s : State} {l : Nat} {f : ShFields} : Sent s ((s.startFlit (s.sentFlit l f) 0).setHand l (s.sender l f)) l f :=
  ⟨rfl, rfl, rfl, fun _ hk => State.hand_setHand_other _ _ _ _ hk, State.hand_setHand_same ..⟩

/-- With its checks passed, its slot the present one and its queues free, an RGET or RPUT sends its flit. -/
theorem shGrid_sends {s : State} {l opc : Nat} {f : ShFields} (h : Issues s l opc f) (c : CanSend s l f) :
    shGrid opc l s = .next ((s.startFlit (s.sentFlit l f) 0).setHand l (s.sender l f)) := by
  have room : s.canStart (s.sentFlit l f) = true := c.queues
  rw [shGrid_eq h c.addr c.slot c.free, if_pos room]

/-! A stagehand's results in flight do not depend on what it waits for. -/

theorem Stagehand.setS_wait (h : Stagehand) (w : ShWait) (d : Nat) (v : Word) :
    ({ h with wait := w } : Stagehand).setS d v = { h.setS d v with wait := w } := by
  unfold Stagehand.setS
  split <;> rfl

theorem Stagehand.setP_wait (h : Stagehand) (w : ShWait) (d : Nat) (v : Word) :
    ({ h with wait := w } : Stagehand).setP d v = { h.setP d v with wait := w } := by
  unfold Stagehand.setP
  split <;> rfl

theorem foldl_wait {α : Type} {g : Stagehand → α → Stagehand} (w : ShWait)
    (step : ∀ h x, g { h with wait := w } x = { g h x with wait := w }) (l : List α) (h : Stagehand) :
    l.foldl g { h with wait := w } = { l.foldl g h with wait := w } := by
  induction l generalizing h with
  | nil => rfl
  | cons x xs ih => rw [List.foldl_cons, step, ih, List.foldl_cons]

theorem Stagehand.write_wait (h : Stagehand) (w : ShWait) (x : ShWrite) :
    ({ h with wait := w } : Stagehand).write x = { h.write x with wait := w } := by
  simp only [Stagehand.write]
  rw [foldl_wait (g := fun h (r : Nat × Word) => h.setS r.1 r.2) w (fun h r => h.setS_wait w r.1 r.2),
    foldl_wait (g := fun h (r : Nat × BitVec 512) => h.setV r.1 r.2) w (fun _ _ => rfl),
    foldl_wait (g := fun h (r : Nat × Word) => h.setP r.1 r.2) w (fun h r => h.setP_wait w r.1 r.2)]

theorem Stagehand.landed_wait (h : Stagehand) (w : ShWait) (k : Nat) :
    ({ h with wait := w } : Stagehand).landed k = { h.landed k with wait := w } := by
  simp only [Stagehand.landed]
  rw [foldl_wait w (fun h x => h.write_wait w x)]

theorem Stagehand.issueCycle_wait (h : Stagehand) (w : ShWait) (c : BayClk) : ({ h with wait := w } : Stagehand).issueCycle c = h.issueCycle c := by
  simp only [Stagehand.issueCycle, Stagehand.landed_wait]
  rfl

/-- Stagehand l without what it waits for. -/
def State.woken (s : State) (l : Nat) : State := s.setHand l { s.hand l with wait := .none }

theorem issueAt_woken (s : State) (l : Nat) : (s.woken l).issueAt l = s.issueAt l := by
  simp only [State.issueAt, State.woken, State.hand_setHand_same, State.bay_setHand]
  exact Stagehand.issueCycle_wait ..

theorem issuer_woken (s : State) (l : Nat) : (s.woken l).issuer l = { s.issuer l with wait := .none } := by
  simp only [State.issuer, State.handAt, issueAt_woken]
  simp only [State.woken, State.hand_setHand_same, Stagehand.landed_wait]

theorem issuing_woken (s : State) (l : Nat) : (s.woken l).issuing l = { s.issuing l with wait := .none } := by
  simp only [State.issuing, issuer_woken, issueAt_woken]

theorem sentFlit_woken (s : State) (l : Nat) (f : ShFields) : (s.woken l).sentFlit l f = s.sentFlit l f := by
  simp only [State.sentFlit, issuer_woken]
  rfl

/-- The stagehand after its flit has been sent at last. -/
def State.resender (s : State) (l : Nat) (f : ShFields) : Stagehand :=
  Stagehand.nextPc (if f.opc = 0x3F then { s.issuing l with wait := .none, putsOut := (s.hand l).putsOut + 1 }
    else { s.issuing l with wait := .none, getsOut := (s.hand l).getsOut ++ [f.d] })

theorem sender_woken (s : State) (l : Nat) (f : ShFields) : (s.woken l).sender l f = s.resender l f := by
  simp only [State.sender, State.resender, issuing_woken]
  simp only [State.woken, State.hand_setHand_same]

theorem startFlit_woken (s : State) (l : Nat) (f : Flit) (g : Stagehand) :
    ((s.woken l).startFlit f 0).setHand l g = (s.startFlit f 0).setHand l g := by
  have e : (s.woken l).startFlit f 0 = (s.startFlit f 0).setHand l { s.hand l with wait := .none } := rfl
  rw [e, State.setHand_setHand]

/-- INJECTION_RETRY in its slot is the instruction, with the stagehand no longer waiting (R178). -/
theorem execInjectionRetry_eq {s : State} {l : Fin 6144} {again : Nat} (wait : (s.hand l).wait = .slot again)
    (due : again ≤ s.slotCount (handBay l)) (slot : s.slotOf (handBay l) = again % 16) (free : s.slotFree l 0 = true)
    (cycle : s.issueAt l ≤ (s.bay (handBay l)).clk.cyc) :
    execInjectionRetry l s = shGrid (s.hand l).word.opc l (s.woken l) := by
  have c : (s.hand l).issueCycle (s.bay (handBay l)).clk ≤ (s.bay (handBay l)).clk.cyc := cycle
  simp [execInjectionRetry, wait, due, slot, free, c, State.woken]

/-- Settles O29: `shGrid` sends the flit or waits for its slot; the retry is `shGrid` again. -/
theorem rgetAndRputSendOneFlit : Obligations.RgetAndRputSendOneFlit := by
  intro s l f
  refine ⟨fun c opc row h => ?_, fun opc again _ wait due slot h can => ?_⟩
  · have form : exec c s = shGrid opc l s := by
      simp only [List.mem_cons, Prod.mk.injEq, List.not_mem_nil, or_false] at row
      rcases row with ⟨rfl, rfl⟩ | ⟨rfl, rfl⟩ <;> rfl
    refine ⟨fun can => ⟨_, form.trans (shGrid_sends h can), sent_startFlit⟩, fun addr slot free full => ?_⟩
    refine ⟨_, form.trans (shGrid_eq h addr slot free), ?_⟩
    rw [if_neg (by rw [State.sentFlit, full]; exact Bool.false_ne_true)]
    exact ⟨.setHand .., State.hand_setHand_same ..⟩
  · have cycle : s.issueAt l ≤ (s.bay (handBay l)).clk.cyc := by
      rw [← issueAt_woken]
      exact h.due
    have word : (s.hand l).word.opc = opc := by
      have w : ((s.woken l).issuer l).word = f := h.word
      have same : (s.hand l).word = ((s.woken l).issuer l).word := by
        rw [issuer_woken]
        show _ = shFields (sget 0 (s.issuing l).istore (s.issuing l).pc)
        rw [issuing_store, issuing_pc]
        rfl
      rw [same, w, h.opcode]
    have sends : shGrid opc l (s.woken l) = .next ((s.startFlit (s.sentFlit l f) 0).setHand l (s.resender l f)) := by
      rw [shGrid_sends (s := s.woken l) h can, sentFlit_woken, sender_woken, startFlit_woken]
    exact ⟨(s.startFlit (s.sentFlit l f) 0).setHand l (s.resender l f), (execInjectionRetry_eq wait due slot can.free cycle).trans (word ▸ sends), rfl, rfl, rfl,
      fun _ hk => State.hand_setHand_other _ _ _ _ hk, State.hand_setHand_same ..⟩

end Sys2Proof.Machine
end

section
/-!
Starts, completions and ramps of a bay: a head that starts, STN_AGEN's slot, completions, ramps, the stream engine's starts
(O8, O9, O12, O14).
-/
namespace Sys2Proof.Machine

-- One declaration after another: the whole text elaborated in parallel outgrows the memory of its check.
set_option Elab.async false

/-! ### The queue of a command that starts -/

theorem HeadReady.starts {s : State} {b q op : Nat} {c : QCmd} {rest : List QCmd} (h : HeadReady s b q op c rest)
    {ready : QCmd → State → Bool} (r : ready c s = true) : Starts op b q ready s c rest :=
  ⟨h.queue, h.opcode, h.active, h.running, h.waited, h.ranges, r, h.first⟩

/-- A command that looks at its flag keeps its words. -/
theorem map_words_look (p : QCmd → Bool) (l : List QCmd) :
    (match l with | [] => [] | c :: cs => if p c then { c with waitSeen := true } :: cs else c :: cs).map QCmd.words =
      l.map QCmd.words := by
  cases l with
  | nil => rfl
  | cons c cs =>
    dsimp only
    split <;> rfl

/-- The heads of a bay's queues looked at: its queues with their flags seen. -/
def State.lookedQueues (s : State) (b : Nat) : Sparse (List QCmd) :=
  smap [] (fun _ l => match l with
    | [] => []
    | c :: cs => if c.head.wait && s.flagAt b c.part c.head.waitFlag then { c with waitSeen := true } :: cs else c :: cs)
    (s.bay b).queues

theorem State.testHeads_eq (s : State) (b : Nat) : s.testHeads b = s.setBay b { s.bay b with queues := s.lookedQueues b } := rfl

theorem State.queue_looked (s : State) (b q : Nat) :
    (sget [] (s.lookedQueues b) q).map QCmd.words = ((s.bay b).queue q).map QCmd.words := by
  unfold State.lookedQueues
  rw [sget_smap]
  · exact map_words_look _ _
  · intro k
    rfl

theorem State.setBay_setBay (s : State) (b : Nat) (x y : Bay) : (s.setBay b x).setBay b y = s.setBay b y := by
  simp [State.setBay]

/-- Setting a bay changes that bay only. -/
theorem OnlyBay.setBay (s : State) (b : Nat) (x : Bay) : OnlyBay s (s.setBay b x) b :=
  ⟨rfl, fun k hk => State.bay_setBay_other s b x k hk⟩

theorem OnlyBay.trans {s t u : State} {b : Nat} (x : OnlyBay s t b) (y : OnlyBay t u b) : OnlyBay s u b :=
  ⟨(congrArg (fun v : State => { v with bays := s.bays }) y.rest).trans x.rest, fun k hk => (y.others k hk).trans (x.others k hk)⟩

/-- A bay once the head c of its queue q has started (R97), before its queues' heads look at their flags. -/
def Bay.begun (y : Bay) (q : Nat) (rest : List QCmd) (st : Started) (ctx : Nat) : Bay :=
  { y.setQueue q rest with started := y.started ++ [st], nextId := y.nextId + 1, ctx := if q < 4 then ctx else y.ctx }

/-- What a command counts as once it has started. -/
def Bay.startOf (y : Bay) (q : Nat) (c : QCmd) (latency left : Nat) (slots : List AgSlot) (set : List Nat) : Started :=
  { id := y.nextId, queue := q, words := c.words, part := c.part, ctx := c.ctx, bookoff := c.bookoff,
    startCyc := y.clk.cyc, earliest := y.clk.cyc + latency, left := left, done := 0, slots := slots, set := set,
    noFlag := false, nextTag := 0, readyCyc := y.readySince c }

/-- The bay of a command that has started. -/
def State.begunBay (s : State) (b q : Nat) (c : QCmd) (rest : List QCmd) (latency left : Nat) (slots : List AgSlot)
    (set : List Nat) : Bay :=
  let y := (s.bay b).begun q rest ((s.bay b).startOf q c latency left slots set) c.ctx
  { y with queues := (s.setBay b y).lookedQueues b }

theorem State.beginCmd_eq (s : State) (b q : Nat) (c : QCmd) (rest : List QCmd) (latency left : Nat) (slots : List AgSlot)
    (set : List Nat) : s.beginCmd b q c rest latency left slots set =
      (s.setBay b (s.begunBay b q c rest latency left slots set), (s.bay b).startOf q c latency left slots set) := by
  have e : s.beginCmd b q c rest latency left slots set =
      ((s.setBay b ((s.bay b).begun q rest ((s.bay b).startOf q c latency left slots set) c.ctx)).testHeads b,
        (s.bay b).startOf q c latency left slots set) := rfl
  rw [e, State.testHeads_eq, State.bay_setBay_same, State.setBay_setBay]
  rfl

/-- Two bays with the same waiting words and started commands. -/
structure SameStarts (y z : Bay) : Prop where
  queues : ∀ q, (z.queue q).map QCmd.words = (y.queue q).map QCmd.words
  next : z.nextId = y.nextId
  started : z.started.map Started.key = y.started.map Started.key

theorem SameStarts.refl (y : Bay) : SameStarts y y := ⟨fun _ => rfl, rfl, rfl⟩

theorem SameStarts.trans {x y z : Bay} (a : SameStarts x y) (b : SameStarts y z) : SameStarts x z :=
  ⟨fun q => (b.queues q).trans (a.queues q), b.next.trans a.next, b.started.trans a.started⟩

/-- The head of queue q has started where the bay's starts are those of the bay it began in. -/
theorem begun_of_same {s t : State} {b q : Nat} {c : QCmd} {rest : List QCmd} {latency left : Nat} {slots : List AgSlot}
    {set : List Nat} (h : SameStarts (s.begunBay b q c rest latency left slots set) (t.bay b)) : Begun s t b q c rest := by
  refine ⟨(h.queues q).trans ?_, h.next, h.started.trans ?_⟩
  · have e := State.queue_looked (s.setBay b ((s.bay b).begun q rest ((s.bay b).startOf q c latency left slots set) c.ctx)) b q
    rw [State.bay_setBay_same] at e
    refine e.trans (congrArg _ ?_)
    exact Bay.queue_setQueue_same ..
  · exact List.map_append

theorem begun_begin {s : State} {b q : Nat} {c : QCmd} {rest : List QCmd} {latency left : Nat} {slots : List AgSlot}
    {set : List Nat} {y : Bay} (h : SameStarts (s.begunBay b q c rest latency left slots set) y) :
    Begun s (s.setBay b y) b q c rest := begun_of_same (by rwa [State.bay_setBay_same])

/-! ### STN_AGEN -/

/-- The bay that STN_AGEN leaves. -/
def State.agenBay (s : State) (b q : Nat) (c : QCmd) (rest : List QCmd) : Bay :=
  { s.begunBay b q c rest 1 0 [] [] with
    slots := sset AgSlot.init (s.bay b).slots (fld (cword c.words 1) 31 28)
      (((s.bay b).slot (fld (cword c.words 1) 31 28)).writeHalf (bit (cword c.words 1) 27) (fld (cword c.words 1) 23 0)
        (agenCounts c.words) (agenStrides c.words)) }

theorem execStnAgen_starts {s : State} {b : Fin 48} {q : Fin 4} {c : QCmd} {rest : List QCmd} (h : HeadReady s b q 0x02 c rest)
    (cond : (s.bay b).conditionOk c.words = true) : execStnAgen b q s = .next (s.setBay b (s.agenBay b q c rest)) := by
  have e := startHead_starts (go := fun c rest s => ((s.beginCmd b q c rest 1 0 [] []).1).writeSlot b (fld (cword c.words 1) 31 28)
    (bit (cword c.words 1) 27) (fld (cword c.words 1) 23 0) c.words)
    (h.starts (ready := fun c s => (s.bay b).conditionOk c.words) cond)
  rw [State.beginCmd_eq, State.writeSlot, State.bay_setBay_same, State.setBay_setBay] at e
  exact e

/-- STN_AGEN has no condition of its own (Table 3.17). -/
theorem conditionOk_agen {y : Bay} {q : Fin 4} {ws : List Word} (o : bayOp q ws = 0x02) : y.conditionOk ws = true := by
  have op : (cmdHead (cword ws 0)).opcode = 0x02 := by
    have lt : ¬ 5 ≤ q.val := by omega
    simpa [bayOp, lt] using o
  simp [Bay.conditionOk, Bay.readyOk, Bay.resourcesFree, op]

/-- Settles O9: one slot's half is written, and every other part of the bay is as the start leaves it. -/
theorem agenWritesHalfASlot : Obligations.AgenWritesHalfASlot := by
  intro s b q c rest h
  refine ⟨_, execStnAgen_starts h (conditionOk_agen h.opcode), .setBay .., fun k => ?_, ?_, ?_, ?_, ?_⟩
  · rw [State.bay_setBay_same]
    by_cases e : k = fld (cword c.words 1) 31 28
    · rw [if_pos e, e]
      exact sget_sset_same _ _ _ _
    · rw [if_neg e]
      exact sget_sset_other _ _ _ e
  all_goals
    rw [State.bay_setBay_same]
    rfl

/-! ### Completions -/

/-- The bay once its command c has completed. -/
def Bay.completed (y : Bay) (c : Started) (id : Nat) : Bay :=
  { y.tilesLoaded c with
    started := y.started.filter (fun x => decide (x.id ≠ id)),
    freeing := y.freeing.filter (fun x => decide (y.clk.cyc ≤ x.2.2)) ++ [(c.queue, c.words, y.clk.cyc)] }

/-- A fold reaches what one of its steps reaches and none of them loses. -/
theorem foldl_reaches {α β : Type} {P : β → Prop} {f : β → α → β} {x : α} (keeps : ∀ y x, P y → P (f y x)) (reach : ∀ y, P (f y x))
    {l : List α} (h : x ∈ l) (y : β) : P (l.foldl f y) := by
  have rest : ∀ (l : List α) (y : β), P y → P (l.foldl f y) := fun l => by
    induction l with
    | nil => exact fun _ hy => hy
    | cons z zs ih => exact fun y hy => ih _ (keeps y z hy)
  induction l generalizing y with
  | nil => cases h
  | cons z zs ih =>
    rcases List.mem_cons.mp h with rfl | h
    · exact rest zs _ (reach y)
    · exact ih h _

/-- From y to z nothing changes but tile buffers, and what is loaded stays so. -/
structure TilesLoad (y z : Bay) : Prop where
  rest : { z with tiles := y.tiles } = y
  loaded : ∀ a f, (y.tile a f).loaded = true → (z.tile a f).loaded = true

theorem TilesLoad.foldl {α : Type} {f : Bay → α → Bay} (h : ∀ y x, TilesLoad y (f y x)) (l : List α) (y : Bay) :
    TilesLoad y (l.foldl f y) := by
  induction l generalizing y with
  | nil => exact ⟨rfl, fun _ _ e => e⟩
  | cons x xs ih =>
    have a := h y x
    have b := ih (f y x)
    exact ⟨(congrArg (fun z : Bay => { z with tiles := y.tiles }) b.rest).trans a.rest, fun i j e => b.loaded i j (a.loaded i j e)⟩

/-- Tile buffer f of array a counts as loaded. -/
def Bay.loadTile (y : Bay) (a f : Nat) : Bay := y.setTile a f { y.tile a f with loaded := true }

theorem Bay.loadTile_same (y : Bay) (a f : Nat) : ((y.loadTile a f).tile a f).loaded = true := by
  rw [Bay.loadTile, Bay.tile_setTile_same]

theorem Bay.loadTile_loads (y : Bay) (a f : Nat) : TilesLoad y (y.loadTile a f) := by
  refine ⟨rfl, fun i j h => ?_⟩
  by_cases e : 2 * i + j = 2 * a + f
  · exact (congrArg Tile.loaded ((congrArg (sget Tile.empty (y.loadTile a f).tiles) e).trans rfl)).trans (y.loadTile_same a f)
  · rw [Bay.tile] at h ⊢
    rwa [Bay.loadTile, Bay.setTile, sget_sset_other _ _ _ e]

theorem Bay.tilesLoaded_eq (y : Bay) (c : Started) : y.tilesLoaded c = if (c.isStation && decide (c.op = 0x03) && !c.noFlag) = true then
    (arraysOf c.head.arrays).foldl (fun y a => (tloadBuffers (cword c.words 3)).foldl (fun y f => y.loadTile a f) y) y else y := rfl

theorem Bay.tilesLoaded_loads (y : Bay) (c : Started) : TilesLoad y (y.tilesLoaded c) := by
  rw [Bay.tilesLoaded_eq]
  split
  · exact .foldl (fun y a => .foldl (fun y f => y.loadTile_loads a f) _ y) _ y
  · exact ⟨rfl, fun _ _ e => e⟩

/-- The tile buffers of a completed STN_TLOAD are loaded. -/
theorem Bay.tilesLoaded_tile (y : Bay) {c : Started} (q : c.queue < 4) (o : c.op = 0x03) (n : c.noFlag = false) {a f : Nat}
    (ha : a ∈ arraysOf c.head.arrays) (hf : f ∈ tloadBuffers (cword c.words 3)) : ((y.tilesLoaded c).tile a f).loaded = true := by
  rw [Bay.tilesLoaded_eq, if_pos (by simp [Started.isStation, q, o, n])]
  refine foldl_reaches (P := fun z : Bay => (z.tile a f).loaded = true) (fun y x h => ?_) (fun y => ?_) ha y
  · exact (TilesLoad.foldl (fun y f => y.loadTile_loads x f) _ y).loaded a f h
  · exact foldl_reaches (P := fun z : Bay => (z.tile a f).loaded = true) (fun y x h => (y.loadTile_loads a x).loaded a f h)
      (fun y => y.loadTile_same a f) hf y

/-- A command of no reset's context that has not faulted completes without anything that follows it. -/
theorem State.commandDone_quiet {s : State} {p c : Nat} (resets : s.resets = []) (live : (s.ctx p c).st ≠ 6) : s.commandDone p c = s := by
  simp [State.commandDone, State.l0Of, resets, live]

/-- The set of a flag, where a command names one and did not fault. -/
def State.completionSets (s : State) (b : Nat) (c : Started) : State :=
  if (c.head.set && !c.noFlag) = true then s.sendCrt b (.flagSet c.part c.head.setFlag) else s

theorem State.completionSets_crt (s : State) (b : Nat) (c : Started) : (s.completionSets b c).crt =
    { s.crt with waiting := if c.head.set = true ∧ c.noFlag = false then
        s.crt.waiting ++ [{ ev := .flagSet c.part c.head.setFlag, node := b, time := s.clock.house, cp := none }] else s.crt.waiting } := by
  unfold State.completionSets
  by_cases h : c.head.set = true ∧ c.noFlag = false
  · rw [if_pos (by simp [h.1, h.2]), if_pos h]
    rfl
  · rw [if_neg (by simpa using h), if_neg h]

theorem State.completionSets_rest (s : State) (b : Nat) (c : Started) : { s.completionSets b c with crt := s.crt } = s := by
  unfold State.completionSets
  split <;> rfl

theorem State.completionSets_bay (s : State) (b : Nat) (c : Started) (k : Nat) : (s.completionSets b c).bay k = s.bay k := by
  unfold State.completionSets
  split <;> rfl

theorem execCommandCompletion_eq {s : State} {b : Fin 48} {id : Nat} {c : Started}
    (found : (s.bay b).started.find? (fun x => decide (x.id = id)) = some c) (done : s.completes b c = true)
    (running : (s.bay b).clk.stopped = false) (resets : s.resets = []) (live : (s.ctx c.part c.ctx).st ≠ 6) :
    execCommandCompletion b id s = .next ((s.setBay b ((s.bay b).completed c id)).completionSets b c) := by
  have quiet : ((s.setBay b ((s.bay b).completed c id)).completionSets b c).commandDone c.part c.ctx =
      (s.setBay b ((s.bay b).completed c id)).completionSets b c := by
    have r := State.completionSets_rest (s.setBay b ((s.bay b).completed c id)) b c
    have r1 := congrArg State.resets r
    have r2 := congrArg (fun t : State => (t.ctx c.part c.ctx).st) r
    exact State.commandDone_quiet (r1.trans resets) (fun e => live (r2.symm.trans e))
  simp only [execCommandCompletion, found, done, running, Bool.not_false, Bool.and_self, if_true]
  exact congrArg Host.Outcome.next quiet

/-- Settles O12: the completed bay, and the flag's event in the crossing. -/
theorem completionFreesAndSetsItsFlag : Obligations.CompletionFreesAndSetsItsFlag := by
  intro s b id c found done running resets live
  have bay : ∀ k, ((s.setBay b ((s.bay b).completed c id)).completionSets b c).bay k = (s.setBay b ((s.bay b).completed c id)).bay k :=
    State.completionSets_bay _ _ _
  have here := (bay b).trans (State.bay_setBay_same s b _)
  have same := (s.bay b).tilesLoaded_loads c
  refine ⟨_, execCommandCompletion_eq found done running resets live, ?_, ?_, ?_, fun k hk => ?_, State.completionSets_crt .., ?_,
    fun q o n a ha f hf => ?_⟩
  · rw [here]
    rfl
  · rw [here]
    exact List.mem_append_right _ (List.mem_singleton_self _)
  · rw [here]
    exact (congrArg (fun z : Bay => { z with started := (s.bay b).started, freeing := (s.bay b).freeing }) same.rest)
  · rw [bay, State.bay_setBay_other s b _ k hk]
  · exact congrArg (fun t : State => { t with bays := s.bays }) (State.completionSets_rest (s.setBay b ((s.bay b).completed c id)) b c)
  · rw [here]
    exact (s.bay b).tilesLoaded_tile q o n ha hf

/-! ### Ramps -/

/-- Settles O14: a ramp's next step, and where it falls from. -/
theorem rampTakesItsSteps : Obligations.RampTakesItsSteps := by
  intro s arr b a y r
  refine ⟨fun on lasted top => ?_, fun on rising last rows => ?_⟩
  · have go : (decide (r.step = 0) || decide (y.clk.cyc < r.since + rampStepCycles r.code) || (r.rising && decide (r.step = 8))) = false := by
      have h1 : ¬ y.clk.cyc < r.since + rampStepCycles r.code := Nat.not_lt.mpr lasted
      have h2 : (r.rising && decide (r.step = 8)) = false := by simpa using top
      simp [on, h1, h2]
    have next : r.next y.clk.cyc (!(y.inProgress a).isEmpty) = if r.rising = true then { r with step := r.step + 1, since := y.clk.cyc }
        else if r.step ≠ 1 then { r with step := r.step - 1, since := y.clk.cyc }
        else if (y.inProgress a).isEmpty = true then { Ramp.down with acc := r.acc } else r := by
      unfold Ramp.next
      by_cases up : r.rising = true
      · simp [up]
      · by_cases one : r.step = 1
        · cases h : (y.inProgress a).isEmpty <;> simp [up, one]
        · simp [up, one]
    rw [← next]
    exact if_neg (by rw [go]; exact Bool.false_ne_true)
  · have falls : y.rampFalls a = true := by
      rw [Bay.rampFalls, last, Bool.not_false, Bool.true_and, List.all_eq_true]
      exact fun c hc => decide_eq_true (rows c hc)
    have go : (decide (r.step ≠ 0) && r.rising && y.rampFalls a) = true := by simp [on, rising, falls]
    exact if_pos go

end Sys2Proof.Machine
end

section
/-!
What a command that starts leaves of the rest (O6, O7, O8): one relation, kept by every operation of the station, the row
engine, the dispatcher and the stream engine, and the starts of their commands.
-/
namespace Sys2Proof.Machine

-- One declaration after another: the whole text elaborated in parallel outgrows the memory of its check.
set_option Elab.async false

/-! ### The frame of a station command's work -/

/-- From s to t a station's command has worked: nothing changes but bays, the data space inside the scratchpad window with its bit
errors, registers, the tally of corrected errors and the cue network's packets; no bay's waiting words and started commands
change; where m holds, no byte does. -/
structure StationStep (m : Prop) (s t : State) : Prop where
  rest : { t with bays := s.bays, mem := s.mem, memErr := s.memErr, regs := s.regs, cuePkts := s.cuePkts, ymr := s.ymr } = s
  ymr : { t.ymr with ceHist := s.ymr.ceHist } = s.ymr
  outside : ∀ a, a < spBase → t.byte a = s.byte a
  mem : m → t.mem = s.mem
  starts : ∀ b, SameStarts (s.bay b) (t.bay b)

theorem StationStep.refl (m : Prop) (s : State) : StationStep m s s := ⟨rfl, rfl, fun _ _ => rfl, fun _ => rfl, fun _ => .refl _⟩

/-- v with the parts of s that a station's command works on. -/
def State.stationFrame (s v : State) : State :=
  { v with bays := s.bays, mem := s.mem, memErr := s.memErr, regs := s.regs, cuePkts := s.cuePkts, ymr := s.ymr }

theorem StationStep.trans {m : Prop} {s t u : State} (x : StationStep m s t) (y : StationStep m t u) : StationStep m s u where
  rest := (congrArg s.stationFrame y.rest).trans x.rest
  ymr := (congrArg (fun v : Yemir => { v with ceHist := s.ymr.ceHist }) y.ymr).trans x.ymr
  outside a h := (y.outside a h).trans (x.outside a h)
  mem h := (y.mem h).trans (x.mem h)
  starts b := (x.starts b).trans (y.starts b)

/-- The state of a result. -/
theorem StationStep.of_pair {α : Type} {m : Prop} {s t : State} {x : State × α} {v : α} (h : x = (t, v)) (k : StationStep m s x.1) :
    StationStep m s t := by
  rw [h] at k
  exact k

theorem StationStep.ite {m : Prop} {s t u : State} {c : Prop} [Decidable c] (x : StationStep m s t) (y : StationStep m s u) :
    StationStep m s (if c then t else u) := by
  split
  · exact x
  · exact y

/-- The state of a result that a condition decides. -/
theorem StationStep.iteFst {α : Type} {m : Prop} {s : State} {x y : State × α} {c : Prop} [Decidable c] (kx : StationStep m s x.1)
    (ky : StationStep m s y.1) : StationStep m s (if c then x else y).1 := by
  split
  · exact kx
  · exact ky

section
variable {m : Prop} {s t : State}

theorem StationStep.setReg (k : StationStep m s t) (a : Nat) (v : Word) : StationStep m s (t.setReg a v) :=
  k.trans ⟨rfl, rfl, fun _ _ => rfl, fun _ => rfl, fun _ => .refl _⟩

theorem StationStep.sendFault (k : StationStep m s t) (r p c cls b i : Nat) (o : Word) (a : Nat) (d : List Nat) :
    StationStep m s (t.sendFault r p c cls b i o a d) :=
  k.trans ⟨rfl, rfl, fun _ _ => rfl, fun _ => rfl, fun _ => .refl _⟩

/-- A bay takes a value with the same commands. -/
theorem StationStep.setBay (k : StationStep m s t) {b : Nat} {y : Bay} (h : SameStarts (t.bay b) y) : StationStep m s (t.setBay b y) := by
  refine k.trans ⟨rfl, rfl, fun _ _ => rfl, fun _ => rfl, fun j => ?_⟩
  by_cases e : j = b
  · rw [e, State.bay_setBay_same]
    exact h
  · rw [State.bay_setBay_other t b y j e]
    exact .refl _

/-- A step down the address map, past a block that is not the one asked for. -/
theorem locate_past {c : Prop} [Decidable c] {o y : Option (Block × Nat)} {x : Block × Nat}
    (h : (if c then o else y) = some x) (ne : o ≠ some x) : ¬ c ∧ y = some x := by
  split at h
  · exact absurd h ne
  · exact ⟨‹_›, h⟩

theorem block_ne {z x : Block} {n off : Nat} (h : z ≠ x) : some (z, n) ≠ some (x, off) :=
  fun e => h (Prod.mk.inj (Option.some.inj e)).1

/-- Above the chain ports no block is one of a port. -/
theorem locate_port {a off : Nat} {x : Block} (h : locate a = some (x, off)) (p : x = .eth ∨ ∃ e, x = .chn e) : a % 0x4000 = off := by
  have no : ∀ z : Block, (z ≠ .eth ∧ ∀ e, z ≠ .chn e) → z ≠ x := by
    rintro z ⟨h1, h2⟩ rfl
    rcases p with e | ⟨e, he⟩
    · exact h1 e
    · exact h2 e he
  have gap : (none : Option (Block × Nat)) ≠ some (x, off) := nofun
  unfold locate at h
  replace h := (locate_past h (block_ne (no _ ⟨nofun, nofun⟩))).2
  replace h := (locate_past h (block_ne (no _ ⟨nofun, nofun⟩))).2
  replace h := (locate_past h (block_ne (no _ ⟨nofun, nofun⟩))).2
  replace h := (locate_past h (block_ne (no _ ⟨nofun, nofun⟩))).2
  replace h := (locate_past h gap).2
  replace h := (locate_past h (block_ne (no _ ⟨nofun, nofun⟩))).2
  obtain ⟨h6, h⟩ := locate_past h gap
  by_cases c1 : a < 0x604000
  · rw [if_pos c1] at h
    have := (Prod.mk.inj (Option.some.inj h)).2
    omega
  rw [if_neg c1] at h
  by_cases c2 : a < 0x608000
  · rw [if_pos c2] at h
    have := (Prod.mk.inj (Option.some.inj h)).2
    omega
  rw [if_neg c2] at h
  by_cases c3 : a < 0x60C000
  · rw [if_pos c3] at h
    have := (Prod.mk.inj (Option.some.inj h)).2
    omega
  rw [if_neg c3] at h
  replace h := (locate_past h (block_ne (no _ ⟨nofun, nofun⟩))).2
  replace h := (locate_past h gap).2
  replace h := (locate_past h (block_ne (no _ ⟨nofun, nofun⟩))).2
  replace h := (locate_past h gap).2
  replace h := (locate_past h (block_ne (no _ ⟨nofun, nofun⟩))).2
  replace h := (locate_past h gap).2
  replace h := (locate_past h (block_ne (no _ ⟨nofun, nofun⟩))).2
  replace h := (locate_past h gap).2
  replace h := (locate_past h (block_ne (no _ ⟨nofun, nofun⟩))).2
  replace h := (locate_past h gap).2
  replace h := (locate_past h (block_ne (no _ ⟨nofun, nofun⟩))).2
  replace h := (locate_past h (block_ne (no _ ⟨nofun, nofun⟩))).2
  exact absurd h gap

theorem isLrCounter_low {a : Nat} (h : 0x35 ≤ a % 0x4000) : isLrCounter a = false := by
  unfold isLrCounter
  split
  · rename_i e o l
    have := locate_port l (.inr ⟨e, rfl⟩)
    exact decide_eq_false (by omega)
  · rename_i o l
    have := locate_port l (.inl rfl)
    exact decide_eq_false (by omega)
  · rfl

/-- A bay's registers count no resends. -/
theorem isLrCounter_bay (b : Nat) {off : Nat} (h : off = 0x2000 ∨ off = 0x2004) : isLrCounter (aBay b off) = false := by
  refine isLrCounter_low ?_
  unfold aBay
  omega

theorem StationStep.countSat (k : StationStep m s t) {a : Nat} (n : Nat) (h : isLrCounter a = false) : StationStep m s (t.countSat a n) := by
  unfold State.countSat
  rw [h]
  dsimp only
  split
  · exact k.trans ⟨rfl, rfl, fun _ _ => rfl, fun _ => rfl, fun _ => .refl _⟩
  · exact k.setReg _ _

/-! ### Scratchpad accesses -/

theorem StationStep.checkWord (k : StationStep m s t) (w : Nat) : StationStep m s (t.checkWord w).1 := by
  unfold State.checkWord
  generalize spBayOff (8 * w) = q
  obtain ⟨b, off⟩ := q
  dsimp only
  split
  · exact k
  · split
    · have low := isLrCounter_bay b (off := 0x2000) (.inl rfl)
      dsimp only
      refine StationStep.countSat ?_ 1 low
      refine StationStep.setBay k ?_
      exact ⟨fun _ => rfl, rfl, rfl⟩
    · have low := isLrCounter_bay b (off := 0x2004) (.inr rfl)
      exact (k.countSat 1 low).setReg _ _

theorem StationStep.checkWords (k : StationStep m s t) (ws : List Nat) : StationStep m s (t.checkWords ws).1 := by
  induction ws generalizing t with
  | nil => exact k
  | cons w ws ih =>
    have e : (t.checkWords (w :: ws)).1 = ((t.checkWord w).1.checkWords ws).1 := rfl
    have k' := k.checkWord w
    rw [e]
    generalize (t.checkWord w).1 = u at k' ⊢
    exact ih k'

theorem StationStep.spRead (k : StationStep m s t) (b off n : Nat) : StationStep m s (t.spRead b off n).1 := k.checkWords _

theorem StationStep.freshWords (k : StationStep m s t) (ws : List Nat) : StationStep m s (t.freshWords ws) := by
  induction ws generalizing t with
  | nil => exact k
  | cons w ws ih =>
    unfold State.freshWords
    dsimp only
    split
    · exact ih k
    · have k1 : StationStep m s (t.setBay (spBayOff (8 * w)).1 _) :=
        k.setBay (y := { t.bay (spBayOff (8 * w)).1 with
          writeBack := (t.bay (spBayOff (8 * w)).1).writeBack.filter (fun x => decide (x / 4 ≠ w / 4)) }) ⟨fun _ => rfl, rfl, rfl⟩
      exact ih (k1.trans ⟨rfl, rfl, fun _ _ => rfl, fun _ => rfl, fun _ => .refl _⟩)

/-- Bytes of the scratchpad window. -/
theorem StationStep.putBytes (k : StationStep False s t) {a : Nat} (h : spBase ≤ a) (v : List Byte) : StationStep False s (t.putBytes a v) := by
  have rest := State.putBytes_frame t a v
  refine k.trans ⟨?_, ?_, fun x hx => State.byte_putBytes_outside t a v x (.inl (by omega)), False.elim, fun b => ?_⟩
  · have e := congrArg t.stationFrame rest
    exact e
  · have e := congrArg (fun u : State => { u.ymr with ceHist := t.ymr.ceHist }) rest
    exact e
  · have e := congrArg (fun u : State => u.bay b) rest
    exact e ▸ SameStarts.refl _

theorem spBase_le_spAddr (b off : Nat) : spBase ≤ spAddr b off := by
  unfold spAddr
  omega

theorem StationStep.spWrite (k : StationStep False s t) (b off : Nat) (v : List Byte) : StationStep False s (t.spWrite b off v).1 := by
  unfold State.spWrite
  dsimp only
  split
  · exact (((k.checkWords _).freshWords _).putBytes (spBase_le_spAddr ..) _).putBytes (spBase_le_spAddr ..) _
  · exact k.checkWords _

theorem StationStep.slotRead (k : StationStep m s t) (p c b : Nat) (slot : AgSlot) (n len align : Nat) :
    StationStep m s (t.slotRead p c b slot n len align).1 := by
  unfold State.slotRead
  split
  · exact k
  · split
    · exact .of_pair ‹_› (k.spRead ..)
    · exact .of_pair ‹_› (k.spRead ..)

theorem StationStep.slotReads (k : StationStep m s t) (p c b : Nat) (slot : AgSlot) (first len align n : Nat) :
    StationStep m s (t.slotReads p c b slot first len align n).1 := by
  induction n generalizing t first with
  | zero => exact k
  | succ n ih =>
    unfold State.slotReads
    split
    · exact .of_pair ‹_› (k.slotRead ..)
    · rename_i h
      have k1 := StationStep.of_pair h (k.slotRead ..)
      split
      · exact .of_pair ‹_› (ih k1 _)
      · exact .of_pair ‹_› (ih k1 _)

theorem StationStep.slotWrite (k : StationStep False s t) (p c b : Nat) (slot : AgSlot) (n align : Nat) (v : List Byte) :
    StationStep False s (t.slotWrite p c b slot n align v).1 := by
  unfold State.slotWrite
  split
  · exact k
  · split
    · exact .of_pair ‹_› (k.spWrite ..)
    · exact .of_pair ‹_› (k.spWrite ..)

/-! ### Changes of a bay that leave its commands -/

theorem StationStep.stnFlags (k : StationStep m s t) (b : Nat) (f : StickyFlags) : StationStep m s (t.stnFlags b f) :=
  k.setBay ⟨fun _ => rfl, rfl, rfl⟩

/-- A command changed in what does not identify it. -/
theorem StationStep.modStarted (k : StationStep m s t) (b id : Nat) {f : Started → Started} (h : ∀ c, (f c).key = c.key) :
    StationStep m s (t.modStarted b id f) := by
  refine k.setBay ⟨fun _ => rfl, rfl, ?_⟩
  simp only [List.map_map]
  refine List.map_congr_left fun c _ => ?_
  simp only [Function.comp_apply]
  split
  · exact h c
  · rfl

theorem StationStep.cmdFault (k : StationStep m s t) (b : Nat) (c : Started) (r a : Nat) : StationStep m s (t.cmdFault b c r a) :=
  (k.modStarted b c.id (f := fun x => { x with left := 0, noFlag := true, earliest := (t.bay b).clk.cyc }) fun _ => rfl).sendFault ..

theorem sameStarts_pauseDrains (y : Bay) (feeders : List Nat) (L : Nat) : SameStarts y (y.pauseDrains feeders L) := by
  refine ⟨fun _ => rfl, rfl, ?_⟩
  simp only [Bay.pauseDrains, List.map_map]
  refine List.map_congr_left fun c _ => ?_
  simp only [Function.comp_apply]
  split <;> rfl

theorem SameStarts.foldl {α : Type} {f : Bay → α → Bay} (h : ∀ y x, SameStarts y (f y x)) (l : List α) (y : Bay) :
    SameStarts y (l.foldl f y) := by
  induction l generalizing y with
  | nil => exact .refl y
  | cons x xs ih => exact (h y x).trans (ih _)

theorem StationStep.foldl {α : Type} {f : State → α → State} (h : ∀ {t} x, StationStep m s t → StationStep m s (f t x)) (l : List α)
    (k : StationStep m s t) : StationStep m s (l.foldl f t) := by
  induction l generalizing t with
  | nil => exact k
  | cons x xs ih => exact ih (h x k)

theorem StationStep.rampUp (k : StationStep m s t) (b a : Nat) : StationStep m s (t.rampUp b a) := k.setBay ⟨fun _ => rfl, rfl, rfl⟩

theorem StationStep.fillBank (k : StationStep m s t) (b a bank : Nat) : StationStep m s (t.fillBank b a bank) := by
  unfold State.fillBank
  refine k.setBay ?_
  split
  · exact ⟨fun _ => rfl, rfl, rfl⟩
  · exact ⟨fun _ => rfl, rfl, rfl⟩

end

/-! ### The data movement of the station commands -/

section
variable {m : Prop} {s t : State} {b : Nat} {c : Started}

theorem StationStep.loadTiles (k : StationStep m s t) (d sc : AgSlot) (arrs : List Nat) (i : Nat) :
    StationStep m s (t.loadTiles b c d sc arrs i).1 := by
  induction arrs generalizing t i with
  | nil => exact k
  | cons a rest ih =>
    unfold State.loadTiles
    dsimp only
    split
    · exact k
    · split
      · exact .of_pair ‹_› (k.slotReads ..)
      · rename_i h1
        have k1 := StationStep.of_pair h1 (k.slotReads ..)
        split
        · exact .of_pair ‹_› (k1.slotReads ..)
        · rename_i h2
          have k2 := StationStep.of_pair h2 (k1.slotReads ..)
          refine ih (StationStep.stnFlags (k2.setBay ?_) _ _) _
          exact .foldl (f := fun y (p : Nat × Tile) => y.setTile a p.1 p.2) (fun _ _ => ⟨fun _ => rfl, rfl, rfl⟩) _ _

theorem StationStep.drainOut (k : StationStep False s t) (g : Nat) (d sc : AgSlot) (i n : Nat) :
    StationStep False s (t.drainOut b c g d sc i n).1 := by
  induction n generalizing t i with
  | zero => exact k
  | succ n ih =>
    unfold State.drainOut
    dsimp only
    split
    · exact k
    · split
      · exact .of_pair ‹_› (k.slotWrite ..)
      · rename_i h1
        have k1 := StationStep.of_pair h1 (k.slotWrite ..)
        split
        · exact .of_pair ‹_› (.iteFst (k1.slotWrite ..) k1)
        · exact ih ((StationStep.of_pair ‹_› (.iteFst (k1.slotWrite ..) k1)).stnFlags _ _) _

theorem StationStep.spillOut (k : StationStep False s t) (slot : AgSlot) (rows : List (Nat × Nat × Nat)) (i : Nat) :
    StationStep False s (t.spillOut b c slot rows i).1 := by
  induction rows generalizing t i with
  | nil => exact k
  | cons x rest ih =>
    obtain ⟨a, bank, r⟩ := x
    unfold State.spillOut
    dsimp only
    split
    · exact .of_pair ‹_› (k.slotWrite ..)
    · exact ih (.of_pair ‹_› (k.slotWrite ..)) _

theorem SameStarts.ite {y z w : Bay} {p : Prop} [Decidable p] (hz : SameStarts y z) (hw : SameStarts y w) :
    SameStarts y (if p then z else w) := by
  split
  · exact hz
  · exact hw

theorem sameStarts_setAccRow (y : Bay) (a bank row : Nat) (vs : List (BitVec 28)) : SameStarts y (y.setAccRow a bank row vs) :=
  .foldl (f := fun y (p : BitVec 28 × Nat) => y.setAcc a bank row p.2 p.1) (fun _ _ => ⟨fun _ => rfl, rfl, rfl⟩) _ _

theorem sameStarts_ledger (y : Bay) (l : Sparse Word) : SameStarts y { y with ledger := l } := ⟨fun _ => rfl, rfl, rfl⟩

theorem StationStep.fillIn (k : StationStep m s t) (slot : AgSlot) (rows : List (Nat × Nat × Nat)) (i : Nat) :
    StationStep m s (t.fillIn b c slot rows i).1 := by
  induction rows generalizing t i with
  | nil => exact k
  | cons x rest ih =>
    obtain ⟨a, bank, r⟩ := x
    unfold State.fillIn
    dsimp only
    split
    · exact .of_pair ‹_› (k.slotRead ..)
    · rename_i h
      have k1 := StationStep.of_pair h (k.slotRead ..)
      exact ih (k1.setBay (.ite (sameStarts_ledger ..) (sameStarts_setAccRow ..))) _

/-! ### The row engine -/

theorem StationStep.reDoRow (k : StationStep False s t) (gam bet : Option (List Num)) (i : Nat) (x : List Num) :
    StationStep False s (t.reDoRow b c gam bet i x).1 := by
  unfold State.reDoRow
  dsimp only
  split
  · exact .of_pair ‹_› (.iteFst (k.slotRead ..) k)
  · rename_i h1
    have k1 := StationStep.of_pair h1 (.iteFst (k.slotRead ..) k)
    split
    · exact .of_pair ‹_› (.iteFst (k1.slotWrite ..) k1)
    · rename_i h2
      have k2 := StationStep.of_pair h2 (.iteFst (k1.slotWrite ..) k1)
      refine StationStep.stnFlags (k2.setBay ?_) _ _
      split
      · exact ⟨fun _ => rfl, rfl, rfl⟩
      · exact .refl _

theorem StationStep.reRun (k : StationStep False s t) (gam bet : Option (List Num)) (i n : Nat) :
    StationStep False s (t.reRun b c gam bet i n).1 := by
  induction n generalizing t i with
  | zero => exact k
  | succ n ih =>
    unfold State.reRun
    dsimp only
    split
    · exact .of_pair ‹_› (k.slotRead ..)
    · rename_i h1
      have k1 := StationStep.of_pair h1 (k.slotRead ..)
      split
      · exact .of_pair ‹_› (k1.reDoRow ..)
      · exact ih (.of_pair ‹_› (k1.reDoRow ..)) _

theorem StationStep.reParams (k : StationStep m s t) : StationStep m s (t.reParams b c).1 := by
  unfold State.reParams
  dsimp only
  split
  · exact k
  · split
    · exact .of_pair ‹_› (k.slotRead ..)
    · rename_i h1
      have k1 := StationStep.of_pair h1 (k.slotRead ..)
      split
      · split
        · exact .of_pair ‹_› (k1.slotRead ..)
        · exact .of_pair ‹_› (k1.slotRead ..)
      · exact k1

theorem StationStep.reDrained (k : StationStep False s t) (cyc n : Nat) : StationStep False s (t.reDrained b cyc n) := by
  induction n generalizing t with
  | zero => exact k
  | succ n ih =>
    unfold State.reDrained
    dsimp only
    split
    · exact k
    · split
      · exact k
      · rename_i c _ _
        have k1 := k.setBay (b := b) (y := { t.bay b with reIn := (t.bay b).reIn.drop (reLen c.words) }) ⟨fun _ => rfl, rfl, rfl⟩
        split
        · exact (StationStep.of_pair ‹_› (k1.reDoRow ..)).cmdFault ..
        · exact ih ((StationStep.of_pair ‹_› (k1.reDoRow ..)).modStarted _ _ fun _ => rfl)

theorem StationStep.drainToRe (k : StationStep False s t) (g i cyc d n : Nat) : StationStep False s (t.drainToRe b c g i cyc d n) := by
  induction n generalizing t i cyc with
  | zero => exact k
  | succ n ih =>
    unfold State.drainToRe
    dsimp only
    refine ih (StationStep.reDrained (StationStep.stnFlags (k.setBay ?_) _ _) _ _) _ _
    exact ⟨fun _ => rfl, rfl, rfl⟩

end

end Sys2Proof.Machine
end

section
/-!
The starts of the station's, the row engine's, the dispatcher's and the stream engine's commands (O6, O7, O8, O10).
-/
namespace Sys2Proof.Machine

-- One declaration after another: the whole text elaborated in parallel outgrows the memory of its check.
set_option Elab.async false

/-! ### Station commands -/

/-- The opcodes whose commands write the scratchpad. -/
def stationWrites (op : Nat) : Prop := op = 0x07 ∨ op = 0x08 ∨ (0x10 ≤ op ∧ op ≤ 0x16)

/-- The head c of queue q of bay b has started, and what has followed is a station command's work. -/
def BegunWork (m : Prop) (s : State) (b q : Nat) (c : QCmd) (rest : List QCmd) (t : State) : Prop :=
  ∃ latency left slots set, StationStep m (s.setBay b (s.begunBay b q c rest latency left slots set)) t

section
variable {m : Prop} {s t u : State} {b q : Nat} {c : QCmd} {rest : List QCmd}

theorem BegunWork.begin (latency left : Nat) (slots : List AgSlot) (set : List Nat) :
    BegunWork m s b q c rest (s.beginCmd b q c rest latency left slots set).1 := by
  rw [State.beginCmd_eq]
  exact ⟨_, _, _, _, .refl _ _⟩

theorem BegunWork.step (w : BegunWork m s b q c rest t) (k : StationStep m t u) : BegunWork m s b q c rest u := by
  obtain ⟨latency, left, slots, set, k0⟩ := w
  exact ⟨latency, left, slots, set, k0.trans k⟩

/-- What is true of the start's state is true after the work on it. -/
theorem BegunWork.of_pair {α : Type} {x : State × α} {v : α} (h : x = (t, v)) (k : BegunWork m s b q c rest x.1) :
    BegunWork m s b q c rest t := by
  rw [h] at k
  exact k

theorem BegunWork.begun (w : BegunWork m s b q c rest t) : Begun s t b q c rest := by
  obtain ⟨latency, left, slots, set, k⟩ := w
  have same := k.starts b
  rw [State.bay_setBay_same] at same
  exact begun_of_same same

theorem stationFrame_setBay (s : State) (b : Nat) (y : Bay) : s.stationFrame (s.setBay b y) = s := rfl

theorem BegunWork.work (w : BegunWork m s b q c rest t) {op : Nat} (hm : m ∨ stationWrites op) : StationWork s t op := by
  obtain ⟨latency, left, slots, set, k⟩ := w
  have rest := (congrArg s.stationFrame k.rest).trans (stationFrame_setBay ..)
  refine ⟨rest, k.ymr, k.outside, fun h7 h8 hre => ?_⟩
  rcases hm with hm | h | h | h
  · exact k.mem hm
  · exact absurd h h7
  · exact absurd h h8
  · exact absurd h hre

end

/-- A station command that stands ready starts, and what it does is the work of its start. -/
theorem stnStart_begun {s : State} {b q op : Nat} {c : QCmd} {rest : List QCmd} {go : QCmd → List QCmd → State → State} {m : Prop}
    (h : HeadReady s b q op c rest) (cond : (s.bay b).conditionOk c.words = true) (hm : m ∨ stationWrites op)
    (w : BegunWork m s b q c rest (go c rest s)) : ∃ t, stnStart op b q go s = .next t ∧ Begun s t b q c rest ∧ StationWork s t op :=
  ⟨_, startHead_starts (h.starts (ready := fun c s => (s.bay b).conditionOk c.words) cond), w.begun, w.work hm⟩

/-- What O6 says of a command. -/
def StationStarts (run : Fin 48 → Fin 4 → State → Out) (op : Nat) : Prop :=
  ∀ (s : State) (b : Fin 48) (q : Fin 4) (c : QCmd) (rest : List QCmd), HeadReady s b q op c rest →
    (s.bay b).conditionOk c.words = true → ∃ t, run b q s = .next t ∧ Begun s t b q c rest ∧ StationWork s t op

theorem execStnNop_begins : StationStarts execStnNop 0x01 := by
  intro s b q c rest h cond
  unfold execStnNop
  exact stnStart_begun h cond (.inl trivial) (.begin ..)

theorem execStnInject_begins : StationStarts execStnInject 0x04 := by
  intro s b q c rest h cond
  unfold execStnInject
  exact stnStart_begun h cond (.inl trivial) (.begin ..)

theorem execStnAgen_begins : StationStarts execStnAgen 0x02 := by
  intro s b q c rest h cond
  unfold execStnAgen
  refine stnStart_begun h cond (.inl trivial) (.step (.begin ..) (StationStep.setBay (.refl _ _) ?_))
  exact ⟨fun _ => rfl, rfl, rfl⟩

theorem sameStarts_setTiles (bufs : List Nat) (arrs : List Nat) (y : Bay) :
    SameStarts y (arrs.foldl (fun (y : Bay) a => bufs.foldl (fun y bf => y.setTile a bf Tile.empty) y) y) :=
  .foldl (f := fun y a => bufs.foldl (fun y bf => y.setTile a bf Tile.empty) y)
    (fun y a => .foldl (f := fun y bf => y.setTile a bf Tile.empty) (fun _ _ => ⟨fun _ => rfl, rfl, rfl⟩) _ y) _ _

theorem execStnTload_begins : StationStarts execStnTload 0x03 := by
  intro s b q c rest h cond
  unfold execStnTload
  refine stnStart_begun h cond (.inl trivial) ?_
  dsimp only
  generalize begun : s.beginCmd _ _ _ _ _ _ _ _ = x
  obtain ⟨u, st⟩ := x
  refine (BegunWork.of_pair begun (.begin ..)).step ?_
  have tiles := fun feeders L bufs arrs => StationStep.setBay (.refl True u)
    ((sameStarts_pauseDrains (u.bay b) feeders L).trans (sameStarts_setTiles bufs arrs _))
  dsimp only
  split
  · exact .of_pair ‹_› (StationStep.loadTiles (tiles _ _ _ _) ..)
  · exact StationStep.cmdFault (.of_pair ‹_› (StationStep.loadTiles (tiles _ _ _ _) ..)) ..

theorem execStnMma_begins : StationStarts execStnMma 0x05 := by
  intro s b q c rest h cond
  unfold execStnMma
  refine stnStart_begun h cond (.inl trivial) ?_
  dsimp only
  generalize begun : s.beginCmd _ _ _ _ _ _ _ _ = x
  obtain ⟨u, st⟩ := x
  refine (BegunWork.of_pair begun (.begin ..)).step ?_
  dsimp only
  split
  · exact StationStep.foldl (fun a k => (k.rampUp _ a).fillBank ..) _ (.refl _ _)
  · exact StationStep.cmdFault (.refl _ _) ..

theorem execStnCarry_begins : StationStarts execStnCarry 0x06 := by
  intro s b q c rest h cond
  unfold execStnCarry
  refine stnStart_begun h cond (.inl trivial) ?_
  dsimp only
  generalize begun : s.beginCmd _ _ _ _ _ _ _ _ = x
  obtain ⟨u, st⟩ := x
  refine (BegunWork.of_pair begun (.begin ..)).step ?_
  dsimp only
  split
  · exact StationStep.foldl (fun a k => (k.rampUp _ a).fillBank ..) _ (.refl _ _)
  · exact StationStep.cmdFault (.refl _ _) ..

theorem execStnDrain_begins : StationStarts execStnDrain 0x07 := by
  intro s b q c rest h cond
  unfold execStnDrain
  refine stnStart_begun (m := False) h cond (.inr (.inl rfl)) ?_
  dsimp only
  generalize begun : s.beginCmd _ _ _ _ _ _ _ _ = x
  obtain ⟨u, st⟩ := x
  refine (BegunWork.of_pair begun (.begin ..)).step ?_
  dsimp only
  split
  · exact StationStep.drainToRe (.refl _ _) ..
  · split
    · exact .of_pair ‹_› (StationStep.drainOut (.refl _ _) ..)
    · exact StationStep.cmdFault (.of_pair ‹_› (StationStep.drainOut (.refl _ _) ..)) ..

theorem execStnSpill_begins : StationStarts execStnSpill 0x08 := by
  intro s b q c rest h cond
  unfold execStnSpill
  refine stnStart_begun (m := False) h cond (.inr (.inr (.inl rfl))) ?_
  dsimp only
  generalize begun : s.beginCmd _ _ _ _ _ _ _ _ = x
  obtain ⟨u, st⟩ := x
  refine (BegunWork.of_pair begun (.begin ..)).step ?_
  have paused := fun feeders L => StationStep.setBay (.refl False u) (sameStarts_pauseDrains (u.bay b) feeders L)
  dsimp only
  split
  · exact .of_pair ‹_› (StationStep.spillOut (paused _ _) ..)
  · exact StationStep.cmdFault (.of_pair ‹_› (StationStep.spillOut (paused _ _) ..)) ..

theorem execStnFill_begins : StationStarts execStnFill 0x09 := by
  intro s b q c rest h cond
  unfold execStnFill
  refine stnStart_begun h cond (.inl trivial) ?_
  dsimp only
  generalize begun : s.beginCmd _ _ _ _ _ _ _ _ = x
  obtain ⟨u, st⟩ := x
  refine (BegunWork.of_pair begun (.begin ..)).step ?_
  have paused := fun feeders L => StationStep.setBay (.refl True u) (sameStarts_pauseDrains (u.bay b) feeders L)
  dsimp only
  split
  · exact .of_pair ‹_› (StationStep.fillIn (paused _ _) ..)
  · exact StationStep.cmdFault (.of_pair ‹_› (StationStep.fillIn (paused _ _) ..)) ..

theorem reStart_begins {op : Nat} (o : 0x10 ≤ op ∧ op ≤ 0x16) : StationStarts (fun b q s => reStart op b q s) op := by
  intro s b q c rest h cond
  unfold reStart
  refine stnStart_begun (m := False) h cond (.inr (.inr (.inr o))) ?_
  dsimp only
  generalize (if reLen c.words = 0 then 0 else reRows c.words) = rows
  generalize begun : s.beginCmd _ _ _ _ _ _ _ _ = x
  obtain ⟨u, st⟩ := x
  refine (BegunWork.of_pair begun (.begin ..)).step ?_
  dsimp only
  split
  · exact .refl _ _
  · split
    · exact StationStep.cmdFault (.of_pair ‹_› (StationStep.reParams (.refl _ _))) ..
    · rename_i h1
      have k1 := StationStep.of_pair h1 (StationStep.reParams (.refl False _))
      have k2 := fun g bt => k1.setBay (b := b) (y := { State.bay _ b with reGamma := g, reBeta := bt }) ⟨fun _ => rfl, rfl, rfl⟩
      split
      · exact k2 _ _
      · split
        · exact StationStep.cmdFault (.of_pair ‹_› (StationStep.reRun (k2 _ _) ..)) ..
        · exact .of_pair ‹_› (StationStep.reRun (k2 _ _) ..)

/-- Settles O6: each command's start, and its data movement as a station command's work. -/
theorem stationCommandStarts : Obligations.StationCommandStarts := by
  have rows : ∀ r ∈ stationStarts, StationStarts (fun b q s => exec (r.1 b q) s) r.2 := by
    simp only [stationStarts, List.forall_mem_cons]
    exact ⟨execStnNop_begins, execStnAgen_begins, execStnTload_begins, execStnInject_begins, execStnMma_begins,
      execStnCarry_begins, execStnDrain_begins, execStnSpill_begins, execStnFill_begins, reStart_begins (by decide),
      reStart_begins (by decide), reStart_begins (by decide), reStart_begins (by decide), reStart_begins (by decide),
      reStart_begins (by decide), reStart_begins (by decide), List.forall_mem_nil _⟩
  exact fun mk op row => rows _ row

/-! ### Stream commands -/

/-- A stream command that starts leaves its own bay changed, with the command behind those started before. -/
theorem seStart_begun {s : State} {b op : Nat} {q : Fin 4} {c : QCmd} {rest : List QCmd} (h : HeadReady s b (5 + q) op c rest)
    (tags : seReady b q c s = true) :
    ∃ t, seStart op b q s = .next t ∧ Begun s t b (5 + q) c rest ∧ OnlyBay s t b ∧
      ∃ x ∈ (t.bay b).started, x.id = (s.bay b).nextId ∧ x.left = ((s.bay b).slot (16 + seAslot c.words)).total := by
  refine ⟨_, (startHead_starts (h.starts tags)).trans (congrArg Host.Outcome.next (congrArg Prod.fst (State.beginCmd_eq ..))),
    begun_begin (.refl _), .setBay .., (s.bay b).startOf (5 + q) c 1 ((s.bay b).slot (16 + seAslot c.words)).total
      ((s.bay b).copySlots [16 + seAslot c.words, 16 + seSslot c.words, 16 + seMslot c.words]) [], ?_, rfl, rfl⟩
  rw [State.bay_setBay_same]
  exact List.mem_append_right _ (List.mem_singleton_self _)

theorem execSeAgen_eq {s : State} {b : Fin 48} {q : Fin 4} {c : QCmd} {rest : List QCmd} (h : HeadReady s b (5 + q) 0x40 c rest) :
    execSeAgen b q s = .next (s.setBay b ((s.begunBay b (5 + q) c rest 1 0 [] []).seAgen c.words)) := by
  unfold execSeAgen
  refine (startHead_starts (h.starts rfl)).trans ?_
  simp only [State.beginCmd_eq, State.bay_setBay_same, State.setBay_setBay]

/-- Settles O8: the four transfer commands by one lemma, SE_AGEN by the slot it writes. -/
theorem streamCommandStarts : Obligations.StreamCommandStarts := by
  intro s b q c rest
  refine ⟨fun mk op row h tags => ?_, fun h => ⟨_, execSeAgen_eq h, begun_begin ⟨fun _ => rfl, rfl, rfl⟩, .setBay .., fun k => ?_⟩⟩
  · have forms : ∀ r ∈ streamStarts, ∀ b q s, exec (r.1 b q) s = seStart r.2 b q s := by
      simp only [streamStarts, List.forall_mem_cons]
      exact ⟨fun _ _ _ => rfl, fun _ _ _ => rfl, fun _ _ _ => rfl, fun _ _ _ => rfl, List.forall_mem_nil _⟩
    obtain ⟨t, ht, begun, only, x, mem, id, left⟩ := seStart_begun h tags
    exact ⟨t, (forms _ row b q s).trans ht, begun, only, x, mem, id, left⟩
  · rw [State.bay_setBay_same]
    by_cases e : k = 16 + fld (cword c.words 1) 31 28
    · rw [if_pos e, e]
      exact sget_sset_same _ _ _ _
    · rw [if_neg e]
      exact sget_sset_other _ _ _ e

/-! ### Dispatcher commands -/

/-- From s to t no byte changes, and no bay's waiting words and started commands. -/
structure KeepsStarts (s t : State) : Prop where
  mem : t.mem = s.mem
  starts : ∀ b, SameStarts (s.bay b) (t.bay b)

theorem KeepsStarts.refl (s : State) : KeepsStarts s s := ⟨rfl, fun _ => .refl _⟩

theorem KeepsStarts.trans {s t u : State} (x : KeepsStarts s t) (y : KeepsStarts t u) : KeepsStarts s u :=
  ⟨y.mem.trans x.mem, fun b => (x.starts b).trans (y.starts b)⟩

theorem StationStep.keepsStarts {s t : State} (k : StationStep True s t) : KeepsStarts s t := ⟨k.mem trivial, k.starts⟩

theorem KeepsStarts.of_pair {α : Type} {s t : State} {x : State × α} {v : α} (h : x = (t, v)) (k : KeepsStarts s x.1) :
    KeepsStarts s t := by
  rw [h] at k
  exact k

theorem KeepsStarts.setHand (s : State) (l : Nat) (h : Stagehand) : KeepsStarts s (s.setHand l h) := ⟨rfl, fun _ => .refl _⟩

theorem KeepsStarts.foldl {α : Type} {f : State → α → State} (h : ∀ s x, KeepsStarts s (f s x)) (l : List α) (s : State) :
    KeepsStarts s (l.foldl f s) := by
  induction l generalizing s with
  | nil => exact .refl s
  | cons x xs ih => exact (h s x).trans (ih _)

theorem shLoadLines_keeps (s : State) (b base dest : Nat) (set : List Nat) (fuel left : Nat) :
    KeepsStarts s (s.shLoadLines b base dest set fuel left).1 := by
  induction fuel generalizing s base dest left with
  | zero => exact .refl s
  | succ fuel ih =>
    unfold State.shLoadLines
    dsimp only
    split
    · exact .refl s
    · split
      · rename_i e
        exact (StationStep.of_pair e (StationStep.spRead (.refl True s) ..)).keepsStarts
      · rename_i e
        have read := (StationStep.of_pair e (StationStep.spRead (.refl True s) ..)).keepsStarts
        exact (read.trans (.foldl (fun s l => .setHand ..) set _)).trans (ih ..)

/-- A command that has started, and what keeps the starts after it. -/
theorem begun_keeps {s t : State} {b q : Nat} {c : QCmd} {rest : List QCmd} {latency left : Nat} {slots : List AgSlot}
    {set : List Nat} (k : KeepsStarts (s.beginCmd b q c rest latency left slots set).1 t) : Begun s t b q c rest ∧ t.mem = s.mem := by
  rw [State.beginCmd_eq] at k
  have same := k.starts b
  rw [State.bay_setBay_same] at same
  exact ⟨begun_of_same same, k.mem⟩

theorem hand_beginCmd (s : State) (b q : Nat) (c : QCmd) (rest : List QCmd) (latency left : Nat) (slots : List AgSlot) (set : List Nat)
    (l : Nat) : (s.beginCmd b q c rest latency left slots set).1.hand l = s.hand l := by
  rw [State.beginCmd_eq]
  rfl

theorem execShLoad_begins {s : State} {b : Fin 48} {c : QCmd} {rest : List QCmd} (h : HeadReady s b 4 0x20 c rest)
    (halted : s.allHalted (dispSet b c.words) = true) :
    ∃ t, execShLoad b s = .next t ∧ Begun s t b 4 c rest ∧ t.mem = s.mem := by
  refine ⟨_, startHead_starts (h.starts (ready := fun c s => s.allHalted (dispSet b c.words)) halted), ?_⟩
  refine begun_keeps (latency := if (dispSet b c.words).isEmpty then 0 else 8 + (fld (cword c.words 5) 10 0 + 15) / 16) (left := 0)
    (slots := []) (set := dispSet b c.words) ?_
  dsimp only
  split
  · exact .refl _
  · split
    · rename_i e
      exact .of_pair e (shLoadLines_keeps ..)
    · rename_i e
      exact (KeepsStarts.of_pair e (shLoadLines_keeps ..)).trans (StationStep.cmdFault (.refl True _) ..).keepsStarts

theorem KeepsStarts.stopHand (s : State) (l : Nat) : KeepsStarts s (s.stopHand l) := by
  unfold State.stopHand
  split
  · exact ⟨rfl, fun _ => .refl _⟩
  · exact .refl s

theorem hand_stopHand_same (s : State) (l : Nat) : ((s.stopHand l).hand l).running = false := by
  unfold State.stopHand
  split
  · exact congrArg Stagehand.running (State.hand_setHand_same s l _)
  · exact eq_false_of_ne_true ‹_›

theorem hand_stopHand_other (s : State) {l k : Nat} (h : k ≠ l) : (s.stopHand l).hand k = s.hand k := by
  unfold State.stopHand
  split
  · exact State.hand_setHand_other s l _ k h
  · rfl

/-- A fold over stagehands that each change only themselves leaves the others. -/
theorem hand_foldl_other {f : State → Nat → State} (h : ∀ (s : State) l k, k ≠ l → (f s l).hand k = s.hand k) {set : List Nat} {k : Nat}
    (nk : k ∉ set) (s : State) : (set.foldl f s).hand k = s.hand k := by
  induction set generalizing s with
  | nil => rfl
  | cons x xs ih =>
    obtain ⟨hx, hxs⟩ := not_or.mp (mt List.mem_cons.mpr nk)
    exact (ih hxs _).trans (h s x k hx)

theorem hand_foldl_mem {f : State → Nat → State} {g : Nat → Stagehand → Stagehand} (h : ∀ (s : State) l k, k ≠ l → (f s l).hand k = s.hand k)
    (here : ∀ (s : State) l, (f s l).hand l = g l (s.hand l)) {set : List Nat} (nodup : set.Nodup) {k : Nat} (mk : k ∈ set) (s : State) :
    (set.foldl f s).hand k = g k (s.hand k) := by
  induction set generalizing s with
  | nil => cases mk
  | cons x xs ih =>
    obtain ⟨hx, hxs⟩ := List.nodup_cons.mp nodup
    rcases List.mem_cons.mp mk with rfl | mk
    · exact (hand_foldl_other h hx _).trans (here s k)
    · have ne : k ≠ x := fun e => hx (e ▸ mk)
      exact (ih hxs mk _).trans (congrArg (g k) (h s x k ne))

theorem handOf_injective (b : Nat) {i j : Nat} (h : handOf b i = handOf b j) : i = j := by
  unfold handOf at h
  omega

theorem nodup_dispSet (b : Nat) (ws : List Word) : (dispSet b ws).Nodup :=
  List.Pairwise.map _ (fun _ _ ne e => ne (handOf_injective b e)) (List.nodup_range.filter _)

theorem execShStop_begins {s : State} {b : Fin 48} {c : QCmd} {rest : List QCmd} (h : HeadReady s b 4 0x22 c rest) :
    ∃ t, execShStop b s = .next t ∧ Begun s t b 4 c rest ∧ t.mem = s.mem ∧
      (∀ l ∈ dispSet b c.words, (t.hand l).running = false) ∧ ∀ l, l ∉ dispSet b c.words → t.hand l = s.hand l := by
  have keeps := fun u => KeepsStarts.foldl KeepsStarts.stopHand (dispSet b c.words) u
  obtain ⟨begun, mem⟩ := begun_keeps (keeps (s.beginCmd b 4 c rest 0 0 [] (dispSet b c.words)).1)
  refine ⟨_, startHead_starts (h.starts (ready := fun _ _ => true) rfl), begun, mem, fun l hl => ?_, fun l hl => ?_⟩
  · refine foldl_reaches (P := fun t : State => (t.hand l).running = false) (fun t x ht => ?_) (fun t => hand_stopHand_same t l) hl _
    by_cases e : l = x
    · exact e ▸ hand_stopHand_same t x
    · rwa [hand_stopHand_other t e]
  · exact (hand_foldl_other (fun s l k hk => hand_stopHand_other s hk) hl _).trans (hand_beginCmd ..)

/-- The command that SH_START counts as, and its stagehands as it starts them. -/
def State.shStart (s : State) (b : Nat) (c : QCmd) : Started := (s.bay b).startOf 4 c 0 0 [] (dispSet b c.words)

def shBegin (c : QCmd) (st : Started) (l : Nat) (h : Stagehand) : Stagehand :=
  h.begin l (fld (cword c.words 3) 9 0) (cword c.words 5) st

/-- The state that SH_START leaves. -/
def State.shStarted (s : State) (b : Nat) (c : QCmd) (rest : List QCmd) : State :=
  (dispSet b c.words).foldl (fun s' l => s'.setHand l (shBegin c (s.shStart b c) l (s'.hand l)))
    (s.beginCmd b 4 c rest 0 0 [] (dispSet b c.words)).1

theorem execShStart_eq {s : State} {b : Fin 48} {c : QCmd} {rest : List QCmd} (h : HeadReady s b 4 0x21 c rest)
    (halted : s.allHalted (dispSet b c.words) = true) (frame : (s.bay b).clk.frameStart = true) :
    execShStart b s = .next (s.shStarted b c rest) := by
  unfold execShStart State.shStarted
  refine (startHead_starts (h.starts (ready := fun c s => s.allHalted (dispSet b c.words) && (s.bay b).clk.frameStart)
    (by rw [halted, frame]; rfl))).trans ?_
  simp only [State.beginCmd_eq]
  rfl

theorem shStarted_keeps (s : State) (b : Nat) (c : QCmd) (rest : List QCmd) :
    Begun s (s.shStarted b c rest) b 4 c rest ∧ (s.shStarted b c rest).mem = s.mem :=
  begun_keeps (KeepsStarts.foldl (f := fun s' l => s'.setHand l (shBegin c (s.shStart b c) l (s'.hand l)))
    (fun _ _ => .setHand ..) _ _)

theorem shStarted_hand_mem (s : State) (b : Nat) (c : QCmd) (rest : List QCmd) {l : Nat} (hl : l ∈ dispSet b c.words) :
    (s.shStarted b c rest).hand l = shBegin c (s.shStart b c) l (s.hand l) := by
  refine (hand_foldl_mem (f := fun s' l => s'.setHand l (shBegin c (s.shStart b c) l (s'.hand l))) (g := shBegin c (s.shStart b c))
    (fun s' l k hk => State.hand_setHand_other s' l _ k hk) (fun s' l => State.hand_setHand_same s' l _) (nodup_dispSet b c.words) hl
    _).trans ?_
  rw [hand_beginCmd]

theorem shStarted_hand_other (s : State) (b : Nat) (c : QCmd) (rest : List QCmd) {l : Nat} (hl : l ∉ dispSet b c.words) :
    (s.shStarted b c rest).hand l = s.hand l :=
  (hand_foldl_other (f := fun s' l => s'.setHand l (shBegin c (s.shStart b c) l (s'.hand l)))
    (fun s' l k hk => State.hand_setHand_other s' l _ k hk) hl _).trans (hand_beginCmd ..)

/-- Settles O7: the dispatcher's three commands. -/
theorem dispatcherCommandStarts : Obligations.DispatcherCommandStarts :=
  fun s b c rest => ⟨execShLoad_begins, fun h halted frame => ⟨_, execShStart_eq h halted frame, shStarted_keeps s b c rest⟩,
    execShStop_begins⟩

theorem getS_begin (h : Stagehand) (l entry : Nat) (arg : Word) (c : Started) (r : Nat) :
    (h.begin l entry arg c).getS r = if r = 3 then arg else if r = 2 then BitVec.ofNat 32 (handLocal l)
      else if r = 1 then BitVec.ofNat 32 l else h.settle.getS r := by
  have e : (h.begin l entry arg c).getS r =
      (((h.settle.setS 1 (BitVec.ofNat 32 l)).setS 2 (BitVec.ofNat 32 (handLocal l))).setS 3 arg).getS r := rfl
  rw [e, Stagehand.getS_setS, Stagehand.getS_setS, Stagehand.getS_setS]
  simp only [ne_eq, Nat.reduceEqDiff, not_false_eq_true, and_true]

theorem getV_begin (h : Stagehand) (l entry : Nat) (arg : Word) (c : Started) (r : Nat) :
    (h.begin l entry arg c).getV r = h.settle.getV r := by
  simp only [Stagehand.begin, Stagehand.getV, Stagehand.setS_v]

theorem getP_begin (h : Stagehand) (l entry : Nat) (arg : Word) (c : Started) (r : Nat) :
    (h.begin l entry arg c).getP r = h.settle.getP r := by
  simp only [Stagehand.begin, Stagehand.getP, Stagehand.setS_p]

/-- Settles O10: each stagehand of the set as SH_START starts it. -/
theorem startSetsStagehandRegisters : Obligations.StartSetsStagehandRegisters := by
  intro s b c rest h halted frame
  refine ⟨_, execShStart_eq h halted frame, (shStarted_keeps s b c rest).2, fun l hl => ?_, fun l hl => shStarted_hand_other s b c rest hl⟩
  rw [shStarted_hand_mem s b c rest hl, shBegin]
  refine ⟨rfl, rfl, ?_, ?_, ?_, fun r h1 h2 h3 => ?_, fun r => getV_begin .., fun r => getP_begin ..⟩
  · exact getS_begin ..
  · exact getS_begin ..
  · exact getS_begin ..
  · rw [getS_begin, if_neg h3, if_neg h2, if_neg h1]

end Sys2Proof.Machine
end

section
/-!
Registers: where an address lies, what an access to a bay's register leaves as it was, fields of words; the writes of the
station's registers (O13) and of the registers of bays, clocks and ports (O33).
-/
namespace Sys2Proof.Machine

-- One declaration after another: the whole text elaborated in parallel outgrows the memory of its check.
set_option Elab.async false

/-! ### Where a register lies -/

theorem locate_bay {b off : Nat} (hb : b < 48) (h : off < 0x10000) : locate (aBay b off) = some (.bay b, off) := by
  unfold locate aBay
  rw [if_neg (by omega), if_neg (by omega), if_pos (by omega)]
  have block : (0x100000 + b * 0x10000 + off - 0x100000) / 0x10000 = b := by omega
  have place : (0x100000 + b * 0x10000 + off) % 0x10000 = off := by omega
  rw [block, place]

theorem State.reg_setReg_other (s : State) {a x : Nat} (v : Word) (h : x ≠ a) : (s.setReg a v).reg x = s.reg x := by
  unfold State.setReg State.reg sset
  dsimp only
  split
  · exact sget_sdel_other _ _ h
  · rw [sget_sins_other _ _ _ h, sget_sdel_other _ _ h]

theorem State.reg_orReg_other (s : State) {a x : Nat} (m : Word) (h : x ≠ a) : (s.orReg a m).reg x = s.reg x :=
  State.reg_setReg_other _ _ h

/-- A register written changes nothing but the registers. -/
theorem State.setReg_frame (s : State) (a : Nat) (v : Word) (r : Sparse Word) :
    ({ s.setReg a v with regs := r } : State) = { s with regs := r } := rfl

@[simp] theorem State.bay_orReg (s : State) (a : Nat) (m : Word) (b : Nat) : (s.orReg a m).bay b = s.bay b := rfl

/-- A counter that feeds no tally of the risk score goes up, and nothing else changes. -/
theorem State.countSat_plain (s : State) {a : Nat} (n : Nat) (ce : isCeCounter a = false) (lr : isLrCounter a = false) :
    s.countSat a n = s.setReg a (satInc (s.reg a) n) := by
  simp only [State.countSat, ce, lr, Bool.false_eq_true, if_false]

/-- Of a bay's registers three counters of corrected errors feed CE of the risk score, none LR (R393). -/
theorem isCeCounter_of_bay {a b off : Nat} (h : locate a = some (.bay b, off)) (o : off ≠ 0x0014 ∧ off ≠ 0x2000 ∧ off ≠ 0x2050) :
    isCeCounter a = false := by
  unfold isCeCounter
  rw [h]
  exact decide_eq_false (by omega)

theorem isLrCounter_of_bay {a b off : Nat} (h : locate a = some (.bay b, off)) : isLrCounter a = false := by
  unfold isLrCounter
  rw [h]

/-- The count of wakes feeds no tally. -/
theorem State.countSat_wakes (s : State) {b : Nat} (hb : b < 48) (n : Nat) :
    s.countSat (aBay b 0x4010) n = s.setReg (aBay b 0x4010) (satInc (s.reg (aBay b 0x4010)) n) := by
  have place := locate_bay hb (off := 0x4010) (by omega)
  generalize aBay b 0x4010 = a at place ⊢
  exact s.countSat_plain n (isCeCounter_of_bay place (by omega)) (isLrCounter_of_bay place)

/-! ### An access to a bay's registers -/

/-- From s to t only registers of a list and the clock and the row counter of bay b have changed. -/
structure BayWork (s t : State) (b : Nat) (w : List Nat) : Prop where
  rest : { t with regs := s.regs, bays := s.bays } = s
  others : ∀ k, k ≠ b → t.bay k = s.bay k
  same : { t.bay b with clk := (s.bay b).clk, tapCount := (s.bay b).tapCount } = s.bay b
  regs : ∀ a, a ∉ w → t.reg a = s.reg a

section
variable {s t u : State} {b : Nat} {w : List Nat}

theorem BayWork.refl (s : State) (b : Nat) (w : List Nat) : BayWork s s b w := ⟨rfl, fun _ _ => rfl, rfl, fun _ _ => rfl⟩

theorem BayWork.setReg (k : BayWork s t b w) {a : Nat} (v : Word) (h : a ∈ w) : BayWork s (t.setReg a v) b w := by
  refine ⟨k.rest, k.others, k.same, fun x hx => ?_⟩
  have away : x ≠ a := fun e => hx (by rw [e]; exact h)
  rw [t.reg_setReg_other v away, k.regs x hx]

theorem BayWork.setClk (k : BayWork s t b w) (f : BayClk → BayClk) : BayWork s (t.setClk b f) b w := by
  refine ⟨k.rest, fun x hx => ?_, ?_, k.regs⟩
  · rw [State.setClk, State.bay_setBay_other _ _ _ _ hx, k.others x hx]
  · rw [State.setClk, State.bay_setBay_same]
    exact k.same

end

theorem State.bay_setClk (s : State) (b : Nat) (f : BayClk → BayClk) : (s.setClk b f).bay b = { s.bay b with clk := f (s.bay b).clk } :=
  State.bay_setBay_same ..

/-- The registers that a wake of bay b may change: the count of its wakes, and the crossings' overrun flag. -/
def wakeRegs (b : Nat) : List Nat := [aBay b 0x4010, aClk 0x1C]

/-- A wake starts the bay's clock, and changes beside it only the registers named. -/
theorem State.wakeBay_work (s : State) {b : Nat} (hb : b < 48) :
    BayWork s (s.wakeBay b) b (wakeRegs b) ∧ ((s.wakeBay b).bay b).clk.stopped = false ∧
      ((s.wakeBay b).bay b).tapCount = (s.bay b).tapCount := by
  have overrun : aClk 0x1C ∈ wakeRegs b := List.mem_cons_of_mem _ List.mem_cons_self
  have wakes : aBay b 0x4010 ∈ wakeRegs b := List.mem_cons_self
  have flagged : ∃ u, u = (if (s.bay b).clk.wakeEv then s.orReg (aClk 0x1C) 1 else s) ∧ BayWork s u b (wakeRegs b) ∧ u.bay b = s.bay b := by
    refine ⟨_, rfl, ?_⟩
    split
    · exact ⟨(BayWork.refl s b _).setReg _ overrun, State.bay_orReg ..⟩
    · exact ⟨.refl .., rfl⟩
  obtain ⟨u, hu, k, hb'⟩ := flagged
  unfold State.wakeBay
  dsimp only
  rw [← hu, State.countSat_wakes _ hb]
  generalize aBay b 0x4010 = a at wakes ⊢
  split
  · rename_i h
    refine ⟨k.setClk _, ?_, ?_⟩ <;> rw [State.bay_setClk, hb']
    exact by simpa using h
  · split
    · refine ⟨(k.setClk _).setClk _, ?_, ?_⟩ <;> rw [State.bay_setClk, State.bay_setClk, hb']
    · refine ⟨((k.setClk _).setClk _).setReg _ wakes, ?_, ?_⟩ <;> rw [State.bay_setReg, State.bay_setClk, State.bay_setClk, hb']

theorem BayWork.mono {s t : State} {b : Nat} {w v : List Nat} (k : BayWork s t b w) (h : ∀ a ∈ w, a ∈ v) : BayWork s t b v :=
  ⟨k.rest, k.others, k.same, fun a ha => k.regs a (fun hw => ha (h a hw))⟩

section
variable {s : State} {b : Nat} (hb : b < 48)
include hb

theorem State.wakeIfStopped_work (s : State) (w : List Nat) : BayWork s (s.wakeIfStopped b) b (w ++ wakeRegs b) := by
  unfold State.wakeIfStopped
  split
  · exact (s.wakeBay_work hb).1.mono (fun a ha => List.mem_append_right w ha)
  · exact .refl ..

theorem State.wakeIfStopped_tapCount (s : State) : ((s.wakeIfStopped b).bay b).tapCount = (s.bay b).tapCount := by
  unfold State.wakeIfStopped
  split
  · exact (s.wakeBay_work hb).2.2
  · rfl

theorem State.reg_wakeIfStopped (s : State) {a : Nat} (h : a ∉ wakeRegs b) : (s.wakeIfStopped b).reg a = s.reg a :=
  (s.wakeIfStopped_work hb []).regs a h

theorem State.running_wakeIfStopped (s : State) : ((s.wakeIfStopped b).bay b).running = (s.bay b).running := by
  rw [← (s.wakeIfStopped_work hb []).same]
  rfl

/-- An access that changes, once the bay is awake, only registers of a list and not the bay's clock. -/
theorem BayWork.access {t : State} {w : List Nat} (k : BayWork s t b (w ++ wakeRegs b))
    (clk : (t.bay b).clk = ((s.wakeIfStopped b).bay b).clk) : BayAccess s t b w := by
  refine ⟨k.rest, k.others, k.same, ?_, fun h => ?_, fun a h1 h2 h3 => k.regs a (by simp [wakeRegs, h1, h2, h3])⟩
  · rw [clk, State.wakeIfStopped]
    split
    · exact (s.wakeBay_work hb).2.1
    · rename_i h
      simpa using h
  · rw [clk, State.wakeIfStopped, h, if_neg Bool.false_ne_true]

end

theorem whenOn_on {s t : State} (on : s.on) : whenOn s t = .next t := if_pos on

theorem whenOnBay_on {s : State} (b : Nat) (f : State → State) (on : s.on) : whenOnBay b s f = .next (f (s.wakeIfStopped b)) := if_pos on

/-- Two registers of a bay at different offsets. -/
theorem aBay_ne (b : Nat) {x y : Nat} (h : x ≠ y) : aBay b x ≠ aBay b y := by unfold aBay; omega

/-- A register of a bay is none of the clock block's. -/
theorem aBay_ne_aClk (b x : Nat) {y : Nat} (h : y < 0x10000) : aBay b x ≠ aClk y := by unfold aBay aClk; omega

theorem aBay_notMem_wakeRegs (b : Nat) {x : Nat} (h : x ≠ 0x4010) : aBay b x ∉ wakeRegs b := by
  simp [wakeRegs, aBay_ne b h, aBay_ne_aClk]

/-! ### The station's registers -/

/-- One register of a bay written: the access and what it leaves. -/
theorem access_setReg {s : State} {b a : Nat} (hb : b < 48) (w : List Nat) (v : Word) (h : a ∈ w) :
    BayAccess s ((s.wakeIfStopped b).setReg a v) b w ∧
      (((s.wakeIfStopped b).setReg a v).bay b).tapCount = (s.bay b).tapCount :=
  ⟨((s.wakeIfStopped_work hb w).setReg v (List.mem_append_left _ h)).access hb rfl, s.wakeIfStopped_tapCount hb⟩

theorem linkcfg_access (s : State) (b : Fin 48) (v : Word) (on : s.on) :
    ∃ t, Machine.exec (.stnLinkcfgWrite b v) s = .next t ∧ BayAccess s t b [aBay b 0x0004, aBay b 0x000C] ∧
      (t.bay b).tapCount = (s.bay b).tapCount ∧
      (linkcfgOk (stationOfBay b) v = true → (s.bay b).running = false →
        t.reg (aBay b 0x0004) = v &&& 0xFF03 ∧ t.reg (aBay b 0x000C) = s.reg (aBay b 0x000C)) ∧
      ((linkcfgOk (stationOfBay b) v = false ∨ (s.bay b).running = true) →
        t.reg (aBay b 0x0004) = s.reg (aBay b 0x0004) ∧ t.reg (aBay b 0x000C) = s.reg (aBay b 0x000C) ||| 1) := by
  have run : exec (.stnLinkcfgWrite b v) s = .next ((s.wakeIfStopped b).writeLinkcfg b v) :=
    whenOnBay_on b (fun u => u.writeLinkcfg b v) on
  have kept : ∀ x, x ≠ 0x4010 → (s.wakeIfStopped b).reg (aBay b x) = s.reg (aBay b x) :=
    fun x hx => s.reg_wakeIfStopped b.isLt (aBay_notMem_wakeRegs b hx)
  have apart : aBay b 0x0004 ≠ aBay b 0x000C := aBay_ne b (by omega)
  refine ⟨_, run, ?_⟩
  unfold State.writeLinkcfg
  rw [s.running_wakeIfStopped b.isLt]
  split
  · rename_i h
    obtain ⟨ok, quiet⟩ := by simpa using h
    obtain ⟨acc, tap⟩ := access_setReg (s := s) (a := aBay b 0x0004) b.isLt [aBay b 0x0004, aBay b 0x000C] (v &&& 0xFF03) (by simp)
    refine ⟨acc, tap, fun _ _ => ⟨State.reg_setReg_same .., ?_⟩, fun bad => ?_⟩
    · rw [State.reg_setReg_other _ _ apart.symm, kept _ (by omega)]
    · simp [ok, quiet] at bad
  · rename_i h
    obtain ⟨acc, tap⟩ := access_setReg (s := s) (a := aBay b 0x000C) b.isLt [aBay b 0x0004, aBay b 0x000C]
      ((s.wakeIfStopped b).reg (aBay b 0x000C) ||| 1) (by simp)
    refine ⟨acc, tap, fun ok quiet => absurd (by simp [ok, quiet]) h, fun _ => ⟨?_, ?_⟩⟩
    · rw [State.reg_orReg_other _ _ apart, kept _ (by omega)]
    · rw [State.orReg_reg, kept _ (by omega)]

theorem rampcfg_access (s : State) (b : Fin 48) (v : Word) (on : s.on) :
    ∃ t, Machine.exec (.stnRampcfgWrite b v) s = .next t ∧ BayAccess s t b [aBay b 0x0008, aBay b 0x000C] ∧
      (t.bay b).tapCount = (s.bay b).tapCount ∧
      (fld v 1 0 ≠ 3 → t.reg (aBay b 0x0008) = v &&& 3 ∧ t.reg (aBay b 0x000C) = s.reg (aBay b 0x000C)) ∧
      (fld v 1 0 = 3 → t.reg (aBay b 0x0008) = s.reg (aBay b 0x0008) ∧ t.reg (aBay b 0x000C) = s.reg (aBay b 0x000C) ||| 1) := by
  have run : exec (.stnRampcfgWrite b v) s = .next ((s.wakeIfStopped b).writeRampcfg b v) :=
    whenOnBay_on b (fun u => u.writeRampcfg b v) on
  have kept : ∀ x, x ≠ 0x4010 → (s.wakeIfStopped b).reg (aBay b x) = s.reg (aBay b x) :=
    fun x hx => s.reg_wakeIfStopped b.isLt (aBay_notMem_wakeRegs b hx)
  have apart : aBay b 0x0008 ≠ aBay b 0x000C := aBay_ne b (by omega)
  refine ⟨_, run, ?_⟩
  unfold State.writeRampcfg
  split
  · rename_i h
    obtain ⟨acc, tap⟩ := access_setReg (s := s) (a := aBay b 0x000C) b.isLt [aBay b 0x0008, aBay b 0x000C]
      ((s.wakeIfStopped b).reg (aBay b 0x000C) ||| 1) (by simp)
    refine ⟨acc, tap, fun ok => absurd h ok, fun _ => ⟨?_, ?_⟩⟩
    · rw [State.reg_orReg_other _ _ apart, kept _ (by omega)]
    · rw [State.orReg_reg, kept _ (by omega)]
  · rename_i h
    obtain ⟨acc, tap⟩ := access_setReg (s := s) (a := aBay b 0x0008) b.isLt [aBay b 0x0008, aBay b 0x000C] (v &&& 3) (by simp)
    refine ⟨acc, tap, fun _ => ⟨State.reg_setReg_same .., ?_⟩, fun bad => absurd bad h⟩
    rw [State.reg_setReg_other _ _ apart.symm, kept _ (by omega)]

theorem BayWork.clearTaps {s t : State} {b : Nat} {w : List Nat} (k : BayWork s t b w) :
    BayWork s (t.setBay b { t.bay b with tapCount := 0 }) b w := by
  refine ⟨k.rest, fun x hx => ?_, ?_, k.regs⟩
  · rw [State.bay_setBay_other _ _ _ _ hx, k.others x hx]
  · rw [State.bay_setBay_same]
    exact k.same

/-- Registers written 0 one after the other are all 0. -/
theorem State.reg_clear (b : Nat) (l : List Nat) (s : State) {off : Nat} (h : off ∈ l ∨ s.reg (aBay b off) = 0) :
    (l.foldl (fun s off => s.setReg (aBay b off) 0) s).reg (aBay b off) = 0 := by
  induction l generalizing s with
  | nil => simpa using h
  | cons x l ih =>
    refine ih _ ?_
    by_cases e : off = x
    · exact .inr (by rw [e, State.reg_setReg_same])
    · rw [State.reg_setReg_other _ _ (aBay_ne b e)]
      rcases h with h | h
      · exact .inl (by simpa [e] using h)
      · exact .inr h

theorem BayWork.clear {s : State} {b : Nat} {w : List Nat} (l : List Nat) {t : State} (k : BayWork s t b w) (h : ∀ off ∈ l, aBay b off ∈ w) :
    BayWork s (l.foldl (fun s off => s.setReg (aBay b off) 0) t) b w := by
  induction l generalizing t with
  | nil => exact k
  | cons x l ih => exact ih (k.setReg 0 (h x (by simp))) (fun off ho => h off (by simp [ho]))

theorem State.bays_clear (b : Nat) (l : List Nat) (s : State) : (l.foldl (fun s off => s.setReg (aBay b off) 0) s).bays = s.bays := by
  induction l generalizing s with
  | nil => rfl
  | cons x l ih => exact (ih _).trans (State.setReg_bays ..)

theorem clear_access (s : State) (b : Fin 48) (on : s.on) :
    ∃ t, Machine.exec (.stnCntctlClear b) s = .next t ∧
      BayAccess s t b [aBay b 0x0020, aBay b 0x0024, aBay b 0x0028, aBay b 0x002C] ∧ (t.bay b).tapCount = 0 ∧
      ∀ off ∈ [0x0020, 0x0024, 0x0028, 0x002C], t.reg (aBay b off) = 0 := by
  have run : exec (.stnCntctlClear b) s = .next ((s.wakeIfStopped b).clearCounters b) :=
    whenOnBay_on b (fun u => u.clearCounters b) on
  refine ⟨_, run, ?_⟩
  unfold State.clearCounters
  generalize hl : [0x0020, 0x0024, 0x0028, 0x002C] = l
  have listed : ∀ off ∈ l, aBay b off ∈ [aBay b 0x0020, aBay b 0x0024, aBay b 0x0028, aBay b 0x002C] ++ wakeRegs b := by
    intro off h
    subst hl
    simp only [List.mem_cons, List.not_mem_nil, or_false] at h
    rcases h with rfl | rfl | rfl | rfl <;> simp
  have k := ((s.wakeIfStopped_work b.isLt [aBay b 0x0020, aBay b 0x0024, aBay b 0x0028, aBay b 0x002C]).clear l listed).clearTaps
  have clk := congrArg (fun bays => ((sget Bay.reset bays b : Bay)).clk) (State.bays_clear b l (s.wakeIfStopped b))
  refine ⟨k.access b.isLt ?_, ?_, fun off h => ?_⟩
  · rw [State.bay_setBay_same]
    exact clk
  · rw [State.bay_setBay_same]
  · rw [State.reg_setBay]
    exact State.reg_clear b l _ (.inl h)

/-- Settles O13: an access wakes the bay and then writes one register of its station, the one asked for or the error bit. -/
theorem stationRegisterWrites : Obligations.StationRegisterWrites := by
  intro s b v on
  refine ⟨linkcfg_access s b v on, rampcfg_access s b v on, clear_access s b on, fun freeze => ?_⟩
  obtain ⟨acc, tap⟩ := access_setReg (s := s) (a := aBay b 0x0034) b.isLt [aBay b 0x0034] (if freeze then 1 else 0) (by simp)
  exact ⟨_, whenOnBay_on b (fun u => u.setReg (aBay b 0x0034) (if freeze then 1 else 0)) on, acc, tap, State.reg_setReg_same ..⟩

end Sys2Proof.Machine
end

section
/-!
The writes of the registers of bays, clocks and ports (O33), and of the owner, the caps, the fault block, cue processors and
memory wings (O34).
-/
namespace Sys2Proof.Machine

-- One declaration after another: the whole text elaborated in parallel outgrows the memory of its check.
set_option Elab.async false

/-! ### Fields of words -/

/-- The bits of a word from lo up to hi, as a quotient and a remainder. -/
theorem fld_eq (w : Word) (hi lo : Nat) : fld w hi lo = w.toNat / 2 ^ lo % 2 ^ (hi + 1 - lo) := by
  rw [fld, Nat.shiftRight_eq_div_pow]

theorem toNat_setFld (w : Word) (v : Nat) {hi lo : Nat} (h : lo ≤ hi) (h32 : hi < 32) :
    (setFld w hi lo v).toNat =
      w.toNat / 2 ^ (hi + 1) * 2 ^ (hi + 1) + v % 2 ^ (hi + 1 - lo) * 2 ^ lo + w.toNat % 2 ^ lo := by
  obtain ⟨n, rfl⟩ : ∃ n, hi = lo + n := ⟨hi - lo, by omega⟩
  have width : lo + n + 1 - lo = n + 1 := by omega
  have split1 := Nat.div_add_mod w.toNat (2 ^ lo)
  have split2 := Nat.div_add_mod (w.toNat / 2 ^ lo) (2 ^ (n + 1))
  have pow : 2 ^ (lo + n + 1) = 2 ^ (n + 1) * 2 ^ lo := by rw [← Nat.pow_add]; congr 1; omega
  have quot : w.toNat / 2 ^ (lo + n + 1) = w.toNat / 2 ^ lo / 2 ^ (n + 1) := by
    rw [Nat.div_div_eq_div_mul, ← Nat.pow_add]
    congr 1
  have fit : w.toNat / 2 ^ (lo + n + 1) * 2 ^ (lo + n + 1) + 2 ^ (lo + n + 1) ≤ 2 ^ 32 := by
    obtain ⟨k, hk⟩ : 2 ^ (lo + n + 1) ∣ 2 ^ 32 := Nat.pow_dvd_pow 2 (by omega)
    have lt : w.toNat / 2 ^ (lo + n + 1) < k := Nat.div_lt_of_lt_mul (by rw [← hk]; exact w.isLt)
    calc _ = (w.toNat / 2 ^ (lo + n + 1) + 1) * 2 ^ (lo + n + 1) := (Nat.succ_mul ..).symm
      _ ≤ k * 2 ^ (lo + n + 1) := Nat.mul_le_mul_right _ lt
      _ = 2 ^ 32 := by rw [hk, Nat.mul_comm]
  have low : w.toNat % 2 ^ lo < 2 ^ lo := Nat.mod_lt _ (Nat.two_pow_pos _)
  have mid : v % 2 ^ (n + 1) * 2 ^ lo + 2 ^ lo ≤ 2 ^ (lo + n + 1) := by
    have := Nat.mod_lt v (Nat.two_pow_pos (n + 1))
    calc _ = (v % 2 ^ (n + 1) + 1) * 2 ^ lo := (Nat.succ_mul ..).symm
      _ ≤ 2 ^ (n + 1) * 2 ^ lo := Nat.mul_le_mul_right _ this
      _ = _ := pow.symm
  have cut : w.toNat - fld w (lo + n) lo * 2 ^ lo = w.toNat / 2 ^ (lo + n + 1) * 2 ^ (lo + n + 1) + w.toNat % 2 ^ lo := by
    rw [fld_eq, width, quot, pow]
    have : w.toNat = (w.toNat / 2 ^ lo / 2 ^ (n + 1)) * (2 ^ (n + 1) * 2 ^ lo) + w.toNat / 2 ^ lo % 2 ^ (n + 1) * 2 ^ lo + w.toNat % 2 ^ lo := by
      calc w.toNat = 2 ^ lo * (w.toNat / 2 ^ lo) + w.toNat % 2 ^ lo := split1.symm
        _ = 2 ^ lo * (2 ^ (n + 1) * (w.toNat / 2 ^ lo / 2 ^ (n + 1)) + w.toNat / 2 ^ lo % 2 ^ (n + 1)) + w.toNat % 2 ^ lo := by rw [split2]
        _ = _ := by grind
    omega
  rw [setFld, BitVec.toNat_ofNat, cut, width]
  exact (Nat.mod_eq_of_lt (by omega)).trans (by omega)

/-- A field written reads as the value cut to its width. -/
theorem fld_setFld_same (w : Word) (v : Nat) {hi lo : Nat} (h : lo ≤ hi) (h32 : hi < 32) :
    fld (setFld w hi lo v) hi lo = v % 2 ^ (hi + 1 - lo) := by
  obtain ⟨n, rfl⟩ : ∃ n, hi = lo + n := ⟨hi - lo, by omega⟩
  have width : lo + n + 1 - lo = n + 1 := by omega
  have pow : 2 ^ (lo + n + 1) = 2 ^ (n + 1) * 2 ^ lo := by rw [← Nat.pow_add]; congr 1; omega
  rw [fld_eq, toNat_setFld w v h h32, width, pow]
  have low : w.toNat % 2 ^ lo < 2 ^ lo := Nat.mod_lt _ (Nat.two_pow_pos _)
  have sum : w.toNat / (2 ^ (n + 1) * 2 ^ lo) * (2 ^ (n + 1) * 2 ^ lo) + v % 2 ^ (n + 1) * 2 ^ lo + w.toNat % 2 ^ lo =
      w.toNat % 2 ^ lo + 2 ^ lo * (v % 2 ^ (n + 1) + 2 ^ (n + 1) * (w.toNat / (2 ^ (n + 1) * 2 ^ lo))) := by grind
  rw [sum, Nat.add_mul_div_left _ _ (Nat.two_pow_pos _), Nat.div_eq_of_lt low, Nat.zero_add, Nat.add_mul_mod_self_left, Nat.mod_mod]

/-- A field above the one written keeps its value. -/
theorem fld_setFld_above (w : Word) (v : Nat) {hi lo hi' lo' : Nat} (h : lo ≤ hi) (h32 : hi < 32) (a : hi < lo') :
    fld (setFld w hi lo v) hi' lo' = fld w hi' lo' := by
  obtain ⟨n, rfl⟩ : ∃ n, hi = lo + n := ⟨hi - lo, by omega⟩
  obtain ⟨d, rfl⟩ : ∃ d, lo' = lo + n + 1 + d := ⟨lo' - (lo + n + 1), by omega⟩
  have width : lo + n + 1 - lo = n + 1 := by omega
  have low : w.toNat % 2 ^ lo < 2 ^ lo := Nat.mod_lt _ (Nat.two_pow_pos _)
  have mid : v % 2 ^ (n + 1) * 2 ^ lo + 2 ^ lo ≤ 2 ^ (lo + n + 1) := by
    have := Nat.mod_lt v (Nat.two_pow_pos (n + 1))
    calc _ = (v % 2 ^ (n + 1) + 1) * 2 ^ lo := (Nat.succ_mul ..).symm
      _ ≤ 2 ^ (n + 1) * 2 ^ lo := Nat.mul_le_mul_right _ this
      _ = _ := by rw [← Nat.pow_add]; congr 1; omega
  have top : (setFld w (lo + n) lo v).toNat / 2 ^ (lo + n + 1) = w.toNat / 2 ^ (lo + n + 1) := by
    rw [toNat_setFld w v h h32, width, Nat.add_assoc, Nat.mul_comm, Nat.mul_add_div (Nat.two_pow_pos _), Nat.div_eq_of_lt (Nat.lt_of_lt_of_le (Nat.add_lt_add_left low _) mid), Nat.add_zero]
  rw [fld_eq, fld_eq, Nat.pow_add _ (lo + n + 1) d, ← Nat.div_div_eq_div_mul, top, Nat.div_div_eq_div_mul]

/-- A field below the one written keeps its value. -/
theorem fld_setFld_below (w : Word) (v : Nat) {hi lo hi' lo' : Nat} (h : lo ≤ hi) (h32 : hi < 32) (a : hi' < lo) (h' : lo' ≤ hi') :
    fld (setFld w hi lo v) hi' lo' = fld w hi' lo' := by
  obtain ⟨n, rfl⟩ : ∃ n, hi = lo + n := ⟨hi - lo, by omega⟩
  have low : (setFld w (lo + n) lo v).toNat % 2 ^ lo = w.toNat % 2 ^ lo := by
    have pow : 2 ^ (lo + n + 1) = 2 ^ (n + 1) * 2 ^ lo := by rw [← Nat.pow_add]; congr 1; omega
    rw [toNat_setFld w v h h32, pow, ← Nat.mul_assoc, ← Nat.add_mul, Nat.mul_comm, Nat.mul_add_mod, Nat.mod_mod]
  have cut : ∀ x : Nat, x / 2 ^ lo' % 2 ^ (hi' + 1 - lo') = x % 2 ^ lo / 2 ^ lo' % 2 ^ (hi' + 1 - lo') := by
    intro x
    obtain ⟨e, he⟩ : 2 ^ (hi' + 1) ∣ 2 ^ lo := Nat.pow_dvd_pow 2 (by omega)
    have pow : 2 ^ (hi' + 1) = 2 ^ lo' * 2 ^ (hi' + 1 - lo') := by rw [← Nat.pow_add]; congr 1; omega
    rw [← Nat.mod_mul_right_div_self, ← Nat.mod_mul_right_div_self, ← pow, he, Nat.mod_mul_right_mod]
  rw [fld_eq, fld_eq, cut, cut w.toNat, low]

theorem fld_mod (w : Word) {hi lo : Nat} : fld w hi lo % 2 ^ (hi + 1 - lo) = fld w hi lo :=
  Nat.mod_mod ..

/-! ### The registers of bays, clocks and ports -/

/-- A stagehand with the sticky flags of a mask cleared. -/
def Stagehand.clears (h : Stagehand) (m : BitVec 5) : Stagehand := { h with flags := h.flags &&& ~~~m }

/-- BAY_SHFLAGS at a bay, on one stagehand of the die. -/
def clearsOf (b : Nat) (m : BitVec 5) (l : Nat) (h : Stagehand) : Stagehand := if handBay l = b then h.clears m else h

theorem clearsOf_idle (b : Nat) (m : BitVec 5) (l : Nat) : clearsOf b m l Stagehand.idle = Stagehand.idle := by
  have none : Stagehand.idle.flags &&& ~~~m = 0 := BitVec.zero_and
  rw [clearsOf, Stagehand.clears, none]
  exact ite_self _

theorem hand_writeShFlags (s : State) (b : Nat) (v : Word) (l : Nat) :
    (s.writeShFlags b v).hand l = clearsOf b (v.setWidth 5) l (s.hand l) :=
  sget_smap Stagehand.idle (clearsOf b (v.setWidth 5)) (clearsOf_idle b _) s.stagehands l

theorem or_and_eq_zero {f g m : BitVec 5} (hf : f &&& m = 0) (hg : g &&& m = 0) : (f ||| g) &&& m = 0 := by
  have hf' := fun i : Nat => congrArg (BitVec.getLsbD · i) hf
  have hg' := fun i : Nat => congrArg (BitVec.getLsbD · i) hg
  simp only [BitVec.getLsbD_and] at hf' hg'
  refine BitVec.eq_of_getLsbD_eq fun i _ => ?_
  rw [BitVec.getLsbD_and, BitVec.getLsbD_or, Bool.and_or_distrib_right, hf', hg', Bool.or_self]

/-- After the write no stagehand of the bay has a flag that was written 1. -/
theorem shFlags_writeShFlags (s : State) (b : Nat) (v : Word) : (s.writeShFlags b v).shFlags b &&& v.setWidth 5 = 0 := by
  have each : ∀ kv ∈ (s.writeShFlags b v).stagehands, handBay kv.1 = b → kv.2.flags &&& v.setWidth 5 = 0 := by
    intro kv hkv hb
    obtain ⟨h, e⟩ := mem_smap (g := clearsOf b (v.setWidth 5)) hkv
    rw [e, clearsOf, if_pos hb, Stagehand.clears, BitVec.and_assoc, BitVec.and_comm (~~~_), BitVec.and_not_self]
    exact BitVec.and_zero
  have fold : ∀ (l : List (Nat × Stagehand)) (f : BitVec 5), (∀ kv ∈ l, handBay kv.1 = b → kv.2.flags &&& v.setWidth 5 = 0) →
      f &&& v.setWidth 5 = 0 → l.foldl (fun f kv => if handBay kv.1 = b then f ||| kv.2.flags else f) f &&& v.setWidth 5 = 0 := by
    intro l
    induction l with
    | nil => exact fun f _ hf => hf
    | cons kv l ih =>
      intro f h hf
      refine ih _ (fun kv hkv => h kv (List.mem_cons_of_mem _ hkv)) ?_
      dsimp only
      split
      · rename_i hb
        exact or_and_eq_zero hf (h kv (by simp) hb)
      · exact hf
  exact fold _ _ each BitVec.zero_and

theorem shflags_access (s : State) (b : Fin 48) (v : Word) (on : s.on) :
    ∃ t, Machine.exec (.bayShflagsWrite b v) s = .next t ∧
      BayAccess { s with stagehands := t.stagehands } t b [] ∧ (t.bay b).tapCount = (s.bay b).tapCount ∧
      t.shFlags b &&& v.setWidth 5 = 0 ∧
      ∀ l, t.hand l = (if handBay l = b then { s.hand l with flags := (s.hand l).flags &&& ~~~(v.setWidth 5) } else s.hand l) := by
  have run : exec (.bayShflagsWrite b v) s = .next ((s.wakeIfStopped b).writeShFlags b v) :=
    whenOnBay_on b (fun u => u.writeShFlags b v) on
  have k : BayAccess s (s.wakeIfStopped b) b [] := BayWork.access b.isLt (s.wakeIfStopped_work b.isLt []) rfl
  have hands : (s.wakeIfStopped b).stagehands = s.stagehands := by
    have e := congrArg State.stagehands k.rest
    exact e
  have tap := s.wakeIfStopped_tapCount b.isLt
  generalize s.wakeIfStopped b = u at run k hands tap
  refine ⟨_, run, ⟨?_, k.others, k.same, k.awake, k.running, k.regs⟩, tap, shFlags_writeShFlags .., fun l => ?_⟩
  · exact congrArg (fun z : State => { z with stagehands := (u.writeShFlags b v).stagehands }) k.rest
  · rw [hand_writeShFlags, State.hand, hands]
    rfl

theorem xslot_access (s : State) (b : Fin 48) (we : Bool) (v : Word) (on : s.on) :
    ∃ t, Machine.exec (.bayXslotWrite b we v) s = .next t ∧
      BayAccess s t b [aBay b (if we then 0x2044 else 0x2040), aBay b 0x204C] ∧ (t.bay b).tapCount = (s.bay b).tapCount ∧
      (xslotOk b we v = true → (s.bay b).running = false →
        t.reg (aBay b (if we then 0x2044 else 0x2040)) = v ∧ t.reg (aBay b 0x204C) = s.reg (aBay b 0x204C)) ∧
      (xslotOk b we v = false ∨ (s.bay b).running = true →
        t.reg (aBay b (if we then 0x2044 else 0x2040)) = s.reg (aBay b (if we then 0x2044 else 0x2040)) ∧
        t.reg (aBay b 0x204C) = s.reg (aBay b 0x204C) ||| 1) := by
  have run : exec (.bayXslotWrite b we v) s = .next ((s.wakeIfStopped b).writeXslot b we v) :=
    whenOnBay_on b (fun u => u.writeXslot b we v) on
  have kept : ∀ x, x ≠ 0x4010 → (s.wakeIfStopped b).reg (aBay b x) = s.reg (aBay b x) :=
    fun x hx => s.reg_wakeIfStopped b.isLt (aBay_notMem_wakeRegs b hx)
  have plan : (if we then 0x2044 else 0x2040) < 0x204C := by cases we <;> decide
  refine ⟨_, run, ?_⟩
  unfold State.writeXslot
  rw [s.running_wakeIfStopped b.isLt]
  generalize (if we then 0x2044 else 0x2040) = x at plan ⊢
  have apart : aBay b x ≠ aBay b 0x204C := aBay_ne b (by omega)
  split
  · rename_i h
    obtain ⟨ok, quiet⟩ := by simpa using h
    obtain ⟨acc, tap⟩ := access_setReg (s := s) (a := aBay b x) b.isLt [aBay b x, aBay b 0x204C] v (by simp)
    refine ⟨acc, tap, fun _ _ => ⟨State.reg_setReg_same .., ?_⟩, fun bad => ?_⟩
    · rw [State.reg_setReg_other _ _ apart.symm, kept _ (by omega)]
    · simp [ok, quiet] at bad
  · rename_i h
    obtain ⟨acc, tap⟩ := access_setReg (s := s) (a := aBay b 0x204C) b.isLt [aBay b x, aBay b 0x204C]
      ((s.wakeIfStopped b).reg (aBay b 0x204C) ||| 1) (by simp)
    refine ⟨acc, tap, fun ok quiet => absurd (by simp [ok, quiet]) h, fun _ => ⟨?_, ?_⟩⟩
    · rw [State.reg_orReg_other _ _ apart, kept _ (by omega)]
    · rw [State.orReg_reg, kept _ (by omega)]

theorem aClk_notMem_wakeRegs (b : Nat) {y : Nat} (h : y ≠ 0x1C) (h' : y < 0x10000) : aClk y ∉ wakeRegs b := by
  have other : aClk y ≠ aClk 0x1C := by unfold aClk; omega
  intro listed
  rcases List.mem_cons.mp listed with e | e
  · exact aBay_ne_aClk b 0x4010 h' e.symm
  · exact other (List.mem_singleton.mp e)

theorem clkcfg_access (s : State) (b : Fin 48) (v : Word) (on : s.on) :
    ∃ t, Machine.exec (.bayClkcfgWrite b v) s = .next t ∧
      BayAccess s t b [aBay b 0x4000, aClk 0] ∧ (t.bay b).tapCount = (s.bay b).tapCount ∧
      t.reg (aBay b 0x4000) = (if 0x5A < fld v 6 0 then s.reg (aBay b 0x4000) ||| 0x80000000
        else (v &&& 0x37F) ||| (s.reg (aBay b 0x4000) &&& 0x80000000 &&& ~~~v)) ∧
      t.reg (aClk 0) = if 0x5A < fld v 6 0 then s.reg (aClk 0) ||| 0x80 else s.reg (aClk 0) := by
  have run : exec (.bayClkcfgWrite b v) s = .next ((s.wakeIfStopped b).writeClkcfg b v) :=
    whenOnBay_on b (fun u => u.writeClkcfg b v) on
  have listed1 : aBay b 0x4000 ∈ [aBay b 0x4000, aClk 0] ++ wakeRegs b := List.mem_cons_self
  have listed2 : aClk 0 ∈ [aBay b 0x4000, aClk 0] ++ wakeRegs b := List.mem_cons_of_mem _ List.mem_cons_self
  have apart : aBay b 0x4000 ≠ aClk 0 := aBay_ne_aClk b _ (by omega)
  have cfg : (s.wakeIfStopped b).reg (aBay b 0x4000) = s.reg (aBay b 0x4000) :=
    s.reg_wakeIfStopped b.isLt (aBay_notMem_wakeRegs b (by omega))
  have status : (s.wakeIfStopped b).reg (aClk 0) = s.reg (aClk 0) :=
    s.reg_wakeIfStopped b.isLt (aClk_notMem_wakeRegs b (by omega) (by omega))
  have k := s.wakeIfStopped_work b.isLt [aBay b 0x4000, aClk 0]
  have tap := s.wakeIfStopped_tapCount b.isLt
  refine ⟨_, run, ?_⟩
  unfold State.writeClkcfg State.clkcfg
  generalize aBay b 0x4000 = a at listed1 listed2 apart cfg k ⊢
  generalize aClk 0 = z at listed1 listed2 apart status k ⊢
  split
  · refine ⟨((k.setReg _ listed1).setReg _ listed2).access b.isLt ?_, ?_, ?_, ?_⟩
    · rw [State.bay_setReg, State.bay_setReg]
    · rw [State.bay_orReg, State.bay_orReg, tap]
    · rw [State.reg_orReg_other _ _ apart, State.orReg_reg, cfg]
    · rw [State.orReg_reg, State.reg_orReg_other _ _ apart.symm, status]
  · refine ⟨(k.setReg _ listed1).access b.isLt ?_, ?_, ?_, ?_⟩
    · rw [State.bay_setReg]
    · rw [State.bay_setReg, tap]
    · rw [State.reg_setReg_same, cfg]
    · rw [State.reg_setReg_other _ _ apart.symm, status]

theorem cap_write (s : State) (east : Bool) (v : Word) (on : s.on) :
    ∃ t, Machine.exec (.clkCapWrite east v) s = .next t ∧ { t with regs := s.regs } = s ∧
      (fld v 6 0 ≤ 0x5A → fld (t.reg (halfCap east)) 6 0 = fld v 6 0 ∧
        fld (t.reg (halfCap east)) 14 8 = fld (s.reg (halfCap east)) 14 8 ∧ ∀ a, a ≠ halfCap east → t.reg a = s.reg a) ∧
      (0x5A < fld v 6 0 → t.reg (aClk 0) = s.reg (aClk 0) ||| 0x80 ∧ ∀ a, a ≠ aClk 0 → t.reg a = s.reg a) := by
  refine ⟨_, whenOn_on on, ?_⟩
  unfold State.writeCap
  split
  · rename_i h
    exact ⟨rfl, fun h' => absurd h (Nat.not_lt.mpr h'), fun _ => ⟨State.orReg_reg .., fun a ha => State.reg_orReg_other _ _ ha⟩⟩
  · rename_i h
    refine ⟨rfl, fun _ => ⟨?_, ?_, fun a ha => State.reg_setReg_other _ _ ha⟩, fun h' => absurd h' h⟩
    · rw [State.reg_setReg_same, fld_setFld_same _ _ (by omega) (by omega)]
      exact fld_mod v
    · rw [State.reg_setReg_same, fld_setFld_above _ _ (by omega) (by omega) (by omega)]

/-- A field replaced unless the value is 0. -/
def putNonzero (w : Word) (hi lo n : Nat) : Word := if n = 0 then w else setFld w hi lo n

theorem fld_putNonzero_same (w v : Word) {hi lo : Nat} (h : lo ≤ hi) (h32 : hi < 32) :
    fld (putNonzero w hi lo (fld v hi lo)) hi lo = if fld v hi lo = 0 then fld w hi lo else fld v hi lo := by
  unfold putNonzero
  split
  · rfl
  · rw [fld_setFld_same _ _ h h32, fld_mod]

theorem fld_putNonzero_above (w : Word) (n : Nat) {hi lo hi' lo' : Nat} (h : lo ≤ hi) (h32 : hi < 32) (a : hi < lo') :
    fld (putNonzero w hi lo n) hi' lo' = fld w hi' lo' := by
  unfold putNonzero
  split
  · rfl
  · exact fld_setFld_above _ _ h h32 a

theorem fld_putNonzero_below (w : Word) (n : Nat) {hi lo hi' lo' : Nat} (h : lo ≤ hi) (h32 : hi < 32) (a : hi' < lo) (h' : lo' ≤ hi') :
    fld (putNonzero w hi lo n) hi' lo' = fld w hi' lo' := by
  unfold putNonzero
  split
  · rfl
  · exact fld_setFld_below _ _ h h32 a h'

theorem State.writeChnCfg_eq (s : State) (e : Bool) (v : Word) : s.writeChnCfg e v =
    s.setReg (aChn e 4) (putNonzero (putNonzero (s.reg (aChn e 4)) 7 4 (fld v 7 4)) 3 0 (fld v 3 0)) := rfl

theorem chnCfg_write (s : State) (p : Port) (v : Word) (on : s.on) :
    ∃ t, Machine.exec (.chnCfgWrite p v) s = .next t ∧ { t with regs := s.regs } = s ∧
      fld (t.reg (aChn (isE p) 4)) 7 4 = (if fld v 7 4 = 0 then fld (s.reg (aChn (isE p) 4)) 7 4 else fld v 7 4) ∧
      fld (t.reg (aChn (isE p) 4)) 3 0 = (if fld v 3 0 = 0 then fld (s.reg (aChn (isE p) 4)) 3 0 else fld v 3 0) ∧
      fld (t.reg (aChn (isE p) 4)) 31 8 = fld (s.reg (aChn (isE p) 4)) 31 8 ∧
      ∀ a, a ≠ aChn (isE p) 4 → t.reg a = s.reg a := by
  have run : exec (.chnCfgWrite p v) s = .next (s.writeChnCfg (isE p) v) := whenOn_on on
  rw [State.writeChnCfg_eq] at run
  refine ⟨_, run, ?_⟩
  generalize aChn (isE p) 4 = a
  rw [State.reg_setReg_same]
  refine ⟨rfl, ?_, ?_, ?_, fun x hx => State.reg_setReg_other _ _ hx⟩
  · rw [fld_putNonzero_above _ _ (by omega) (by omega) (by omega), fld_putNonzero_same _ _ (by omega) (by omega)]
  · rw [fld_putNonzero_same _ _ (by omega) (by omega)]
    rw [fld_putNonzero_below _ _ (by omega) (by omega) (by omega) (by omega)]
  · rw [fld_putNonzero_above _ _ (by omega) (by omega) (by omega), fld_putNonzero_above _ _ (by omega) (by omega) (by omega)]

/-- Settles O33: each write changes its own register, or the error bit of the block that rejects it. -/
theorem registerWritesOfTheDie : Obligations.RegisterWritesOfTheDie := by
  intro s on
  refine ⟨fun b v => shflags_access s b v on, fun b we v => xslot_access s b we v on, fun b v => clkcfg_access s b v on,
    fun east v => cap_write s east v on, fun v => ⟨fun bad => ?_, fun good => ?_⟩, fun p v => chnCfg_write s p v on⟩
  · have rejects : s.writeEthCfg v = s.orReg (aEth 0) 1 := if_pos (by simpa using bad)
    exact ⟨_, whenOn_on on, by rw [rejects]; rfl, by rw [rejects, State.orReg_reg],
      fun a ha => by rw [rejects, State.reg_orReg_other _ _ ha]⟩
  · have takes : s.writeEthCfg v = State.setReg (if bit s.ethCfg 14 && !bit v 14 then s.ptpEnd else s) (aEth 0x04) (v &&& 0xEFFF) :=
      if_neg (by simpa using good)
    refine ⟨_, whenOn_on on, ?_⟩
    rw [takes]
    by_cases h : bit s.ethCfg 14 = true ∧ bit v 14 = false
    · rw [if_pos (by simpa using h), if_pos h]
      exact ⟨State.reg_setReg_same .., fun a ha => State.reg_setReg_other _ _ ha, rfl⟩
    · rw [if_neg (by simpa using h), if_neg h]
      exact ⟨State.reg_setReg_same .., fun a ha => State.reg_setReg_other _ _ ha, rfl⟩

end Sys2Proof.Machine
end

section
/-!
What logging an event touches (R390 to R397), and the writes of the owner's, the fault block's, the cue processors' and the
memory wings' registers (O34).
-/
namespace Sys2Proof.Machine

-- One declaration after another: the whole text elaborated in parallel outgrows the memory of its check.
set_option Elab.async false

/-! ### Where a register lies, block by block -/

theorem locate_cp {n off : Nat} (hn : n < 4) (h : off < 0x10000) : locate (aCp n off) = some (.cp n, off) := by
  unfold locate aCp
  rw [if_neg (by omega), if_neg (by omega), if_neg (by omega), if_pos (by omega)]
  have block : (0x400000 + n * 0x10000 + off - 0x400000) / 0x10000 = n := by omega
  have place : (0x400000 + n * 0x10000 + off) % 0x10000 = off := by omega
  rw [block, place]

theorem locate_mem {n off : Nat} (hn : n < 20) (h : off < 0x8000) : locate (aMem n off) = some (.mem n, off) := by
  unfold locate aMem
  rw [if_neg (by omega), if_neg (by omega), if_neg (by omega), if_neg (by omega), if_neg (by omega), if_pos (by omega)]
  have block : (0x500000 + n * 0x8000 + off - 0x500000) / 0x8000 = n := by omega
  have place : (0x500000 + n * 0x8000 + off - 0x500000) % 0x8000 = off := by omega
  rw [block, place]

theorem locate_mbx {n off : Nat} (hn : n < 16) (h : off < 0x100) : locate (aMbx n off) = some (.mbx n, off) := by
  unfold locate aMbx
  iterate 16 rw [if_neg (by omega)]
  rw [if_pos (by omega)]
  have block : (0x800000 + n * 0x100 + off - 0x800000) / 0x100 = n := by omega
  have place : (0x800000 + n * 0x100 + off) % 0x100 = off := by omega
  rw [block, place]

theorem locate_flt {off : Nat} (h : 0x1000 ≤ off) (h' : off < 0x100000) : locate (aFlt off) = some (.flt, off) := by
  unfold locate aFlt
  iterate 21 rw [if_neg (by omega)]
  rw [if_pos (by omega)]
  have place : 0x900000 + off - 0x900000 = off := by omega
  rw [place]

/-! ### What logging touches -/

/-- Yemir z but for what an event logged may change, which is as in y. -/
def Yemir.logFrame (y z : Yemir) : Yemir :=
  { z with
    log := y.log, nextEvent := y.nextEvent, logSecond := y.logSecond, logCount := y.logCount, dropped := y.dropped
    riskE := y.riskE, score := y.score, disarmed := y.disarmed, alert := y.alert, ceHist := y.ceHist }

section
variable {s t u : State}

theorem LogWork.refl (s : State) : LogWork s s := ⟨rfl, rfl, rfl, rfl, fun _ _ => rfl⟩

theorem LogWork.trans (k : LogWork s t) (j : LogWork t u) : LogWork s u where
  rest := (congrArg (fun z : State => { z with ymr := s.ymr, mbx := s.mbx, pins := s.pins, inter := s.inter, regs := s.regs }) j.rest).trans k.rest
  ymr := (congrArg s.ymr.logFrame j.ymr).trans k.ymr
  pins := (congrArg (fun z : Pins => { z with ibi := s.pins.ibi }) j.pins).trans k.pins
  inter := (congrArg (fun z : Inter => { z with reqs := s.inter.reqs }) j.inter).trans k.inter
  counters := fun a h => (j.counters a h).trans (k.counters a h)

theorem LogWork.ite {c : Prop} [Decidable c] {v : State} (k : LogWork s t) (j : LogWork s v) : LogWork s (if c then t else v) := by
  split
  · exact k
  · exact j

/-- Yemir's log, score or alerts change. -/
theorem LogWork.setYmr (k : LogWork s t) (y : Yemir) (h : s.ymr.logFrame y = s.ymr.logFrame t.ymr) : LogWork s { t with ymr := y } :=
  ⟨k.rest, h.trans k.ymr, k.pins, k.inter, k.counters⟩

theorem LogWork.logWrite (k : LogWork s t) (code loc data : Nat) : LogWork s (t.logWrite code loc data) := by
  unfold State.logWrite
  exact .ite (k.setYmr _ rfl) (k.setYmr _ rfl)

theorem LogWork.setAlert (k : LogWork s t) (m : BitVec 6) : LogWork s (t.setAlert m) := by
  refine ⟨k.rest, k.ymr, ?_, k.inter, k.counters⟩
  unfold State.setAlert
  dsimp only
  split
  · exact k.pins
  · exact k.pins

theorem LogWork.askIntermission (k : LogWork s t) (r : IReq) : LogWork s (t.askIntermission r) := by
  unfold State.askIntermission
  exact .ite k ⟨k.rest, k.ymr, k.pins, k.inter, k.counters⟩

theorem State.countSat_drops (s : State) {n : Nat} (h : n < 16) (k : Nat) :
    s.countSat (aMbx n 0x0C) k = s.setReg (aMbx n 0x0C) (satInc (s.reg (aMbx n 0x0C)) k) := by
  have place := locate_mbx h (off := 0x0C) (by omega)
  exact s.countSat_plain k (by simp [isCeCounter, place]) (by simp [isLrCounter, place])

theorem LogWork.mbxPush (k : LogWork s t) {n : Nat} (h : n < 16) (e : List Word) : LogWork s (t.mbxPush n e).1 := by
  unfold State.mbxPush
  rw [State.countSat_drops _ h]
  dsimp only
  split
  · split
    · exact ⟨k.rest, k.ymr, k.pins, k.inter, k.counters⟩
    · split
      · exact ⟨k.rest, k.ymr, k.pins, k.inter, k.counters⟩
      · refine ⟨k.rest, k.ymr, k.pins, k.inter, fun a ha => ?_⟩
        rw [State.reg_setReg_other _ _ (ha n), k.counters a ha]
  · exact k

theorem LogWork.foldl {α : Type} {f : State → α → State} (l : List α) (k : LogWork s t)
    (h : ∀ t, LogWork s t → ∀ x ∈ l, LogWork s (f t x)) : LogWork s (l.foldl f t) := by
  induction l generalizing t with
  | nil => exact k
  | cons x l ih => exact ih (h t k x (by simp)) (fun t k y hy => h t k y (by simp [hy]))

theorem LogWork.notice (k : LogWork s t) (e : List Word) : LogWork s (t.notice e) := by
  refine k.foldl _ fun t k p hp => ?_
  have : p < 4 := List.mem_range.mp hp
  exact .ite (k.mbxPush (by omega) e) k

/-- Several intermissions asked for. -/
theorem LogWork.askAll (k : LogWork s t) (l : List (Nat × Nat)) : LogWork s (l.foldl (fun s c =>
    s.askIntermission { part := c.1, ctx := c.2, cause := 2, copyHost := false, hdrs := [], expires := none }) t) :=
  k.foldl l fun _ k _ _ => k.askIntermission _

theorem LogWork.riskAction (k : LogWork s t) (level : Nat) : LogWork s (t.riskAction level) := by
  unfold State.riskAction
  dsimp only
  split
  · split
    · exact LogWork.notice (LogWork.askAll (k.logWrite ..) _) _
    · exact k.logWrite ..
  · exact LogWork.setAlert (LogWork.notice (k.logWrite ..) _) 1

/-- Whether a threshold is armed changes. -/
theorem LogWork.setDisarmed (k : LogWork s t) (d : BitVec 3) : LogWork s { t with ymr := { t.ymr with disarmed := d } } :=
  k.setYmr _ rfl

theorem LogWork.riskStep (k : LogWork s t) (x : Nat × Nat × Nat) : LogWork s (t.riskStep x) := by
  unfold State.riskStep
  dsimp only
  split
  · exact k.setDisarmed _
  · split
    · exact (k.setDisarmed _).riskAction _
    · exact k

theorem LogWork.riskThresholds (k : LogWork s t) : LogWork s t.riskThresholds :=
  k.foldl riskLevels fun _ k x _ => k.riskStep x

/-- The score changes. -/
theorem LogWork.setScore (k : LogWork s t) (n : Nat) : LogWork s { t with ymr := { t.ymr with score := n } } := k.setYmr _ rfl

theorem LogWork.setRiskE (k : LogWork s t) (n : Nat) : LogWork s { t with ymr := { t.ymr with riskE := n } } := k.setYmr _ rfl

theorem LogWork.updateRisk (k : LogWork s t) : LogWork s t.updateRisk := (k.setScore _).riskThresholds

theorem LogWork.logPts (k : LogWork s t) (code loc data points : Nat) : LogWork s (t.logPts code loc data points) := by
  unfold State.logPts
  split
  · exact (((k.setRiskE _).setScore _).logWrite ..).riskThresholds
  · exact k

theorem LogWork.logEvent (k : LogWork s t) (code loc data : Nat) : LogWork s (t.logEvent code loc data) := k.logPts ..

end

/-! ### The owner's registers and the fault block's -/

theorem policy_write (s : State) (v : Word) (on : s.on) (up : s.ymrUp = true) (owner : s.ymr.owner.isSome = true) :
    ∃ t, Machine.exec (.ymrPolicyWrite v) s = .next t ∧
      LogWork { s with ymr := { s.ymr with
        policy := v &&& 0xFF03
        sessions := if fld s.ymr.policy 15 8 = fld v 15 8 then s.ymr.sessions
          else s.ymr.sessions.filter (fun x => decide (x.role = 0) || decide (x.tenantGen = BitVec.ofNat 8 (fld v 15 8))) } } t := by
  have die : s.ymr.dieOn = true := on
  refine ⟨s.writePolicy v, if_pos (by rw [up, die, owner]; rfl), ?_⟩
  unfold State.writePolicy
  dsimp only
  rw [ite_not]
  exact (LogWork.refl _).logEvent ..

theorem State.setReg_setReg_frame (s : State) (a z : Nat) (v w : Word) : { (s.setReg a v).setReg z w with regs := s.regs } = s ∧
    ((s.setReg a v).setReg z w).ymr = s.ymr ∧ ∀ x, x ≠ z → x ≠ a → ((s.setReg a v).setReg z w).reg x = s.reg x :=
  ⟨(State.setReg_frame ..).trans (State.setReg_frame ..), rfl, fun _ h1 h2 => (State.reg_setReg_other _ _ h1).trans (State.reg_setReg_other _ _ h2)⟩

theorem State.applyCaps_frame (s : State) : { s.applyCaps with regs := s.regs } = s ∧ s.applyCaps.ymr = s.ymr ∧
    ∀ a, a ≠ halfCap true → a ≠ halfCap false → s.applyCaps.reg a = s.reg a := by
  unfold State.applyCaps
  dsimp only
  generalize halfCap true = e
  generalize halfCap false = w
  split
  · exact State.setReg_setReg_frame ..
  · exact ⟨rfl, rfl, fun _ _ _ => rfl⟩

theorem trayCap_write (s : State) (v : Word) (on : s.power ≠ .off) :
    ∃ t, Machine.exec (.ymrCapWrite v) s = .next t ∧ { t with ymr := s.ymr, regs := s.regs } = s ∧
      t.ymr = { s.ymr with
        capE := if fld v 14 8 ≤ 0x5A then fld v 14 8 else s.ymr.capE
        capW := if fld v 6 0 ≤ 0x5A then fld v 6 0 else s.ymr.capW } ∧
      ∀ a, a ≠ halfCap true → a ≠ halfCap false → t.reg a = s.reg a := by
  obtain ⟨rest, ymr, regs⟩ := State.applyCaps_frame { s with ymr := { s.ymr with
    capE := if fld v 14 8 ≤ 0x5A then fld v 14 8 else s.ymr.capE
    capW := if fld v 6 0 ≤ 0x5A then fld v 6 0 else s.ymr.capW } }
  exact ⟨s.writeTrayCap v, if_neg on, congrArg (fun z : State => { z with ymr := s.ymr }) rest, ymr, regs⟩

theorem faultClear_write (s : State) (r : Fin 64) (on : s.on) :
    ∃ t, Machine.exec (.fltClear r) s = .next t ∧ { t with faults := s.faults } = s ∧
      t.faultRec (r / 16) (r % 16) = none ∧ ∀ p c, c < 16 → ctxKey p c ≠ r.val → t.faultRec p c = s.faultRec p c := by
  refine ⟨_, whenOn_on on, rfl, State.faultRec_setFaultRec_same .., fun p c _ h => State.faultRec_setFaultRec_other _ _ _ _ _ _ ?_⟩
  have key : ctxKey (r.val / 16) (r.val % 16) = r.val := by unfold ctxKey; omega
  rw [key]
  exact h

theorem State.wakeAt_other (s : State) {a off : Nat} {x : Block} (h : locate a = some (x, off)) (nb : ∀ b, x ≠ .bay b) : s.wakeAt a = s := by
  unfold State.wakeAt
  rw [h]
  cases x <;> first | rfl | exact absurd rfl (nb _)

theorem regRow_of_locate {a off : Nat} {x : Block} (h : locate a = some (x, off)) : regRow a = findRow (blockRows x) off := by
  unfold regRow
  rw [h]

/-- A write that a register takes plainly. -/
theorem State.writeMasked_row (s : State) {a : Nat} {r : RegRow} (v : Word) (h : regRow a = some r) :
    s.writeMasked a v = s.setReg a ((v &&& r.rw) ||| (s.reg a &&& ~~~r.rw &&& ~~~(v &&& r.w1c))) := by
  unfold State.writeMasked
  rw [h]

theorem State.writeReg_isolate (s : State) (v : Word) :
    s.writeReg (aFlt 0x2018) v = (List.range 4).foldl State.trySwitch (s.writeMasked (aFlt 0x2018) v) := by
  have place := locate_flt (off := 0x2018) (by omega) (by omega)
  unfold State.writeReg
  rw [s.wakeAt_other place nofun, place]
  rfl

theorem State.writeReg_reserve (s : State) (v : Word) : s.writeReg (aFlt 0x2020) v = s.writeResv v := by
  have place := locate_flt (off := 0x2020) (by omega) (by omega)
  unfold State.writeReg
  rw [s.wakeAt_other place nofun, place]
  rfl

theorem State.writeReg_mem (s : State) {a n off : Nat} (v : Word) (h : locate a = some (.mem n, off)) :
    s.writeReg a v = s.writeMasked a v := by
  unfold State.writeReg
  rw [s.wakeAt_other h nofun, h]

theorem isolate_write (s : State) (v : Word) (on : s.on) : Machine.exec (.fltIsolateWrite v) s = .next ((List.range 4).foldl State.trySwitch
    (s.setReg (aFlt 0x2018) ((v &&& 0x8000003F) ||| (s.reg (aFlt 0x2018) &&& ~~~0x8000003F)))) := by
  have run : exec (.fltIsolateWrite v) s = .next (s.writeReg (aFlt 0x2018) v) := whenOn_on on
  have row : regRow (aFlt 0x2018) = some ⟨0x2018, 1, 4, 0x0, 0x8000003F, 0x0, 0x0⟩ := by decide
  have noW1c (w : Word) : w &&& ~~~(v &&& 0) = w := by
    rw [show v &&& 0 = 0 from BitVec.and_zero, show ~~~(0 : Word) = BitVec.allOnes 32 from rfl, BitVec.and_allOnes]
  rw [run, State.writeReg_isolate, s.writeMasked_row v row, noW1c]

theorem reserve_write (s : State) (v : Word) (on : s.on) :
    ∃ t, Machine.exec (.fltResvWrite v) s = .next t ∧ { t with regs := s.regs } = s ∧
      (s.inter.snaps.any Snapshot.own = true ∨ s.installedDdr + ddrBase < (resvOf v).1 + (resvOf v).2 ∨
          (∃ kv ∈ s.ctxs, kv.2.st ≠ 0 ∧ rangesMeet (resvOf v).1 (resvOf v).2 kv.2.ddrBase kv.2.ddrSize = true) →
        t.reg (aFlt 0x2028) = s.reg (aFlt 0x2028) ||| 0x80000 ∧ ∀ a, a ≠ aFlt 0x2028 → t.reg a = s.reg a) ∧
      (s.inter.snaps.any Snapshot.own = false → (resvOf v).1 + (resvOf v).2 ≤ s.installedDdr + ddrBase →
          (∀ kv ∈ s.ctxs, kv.2.st ≠ 0 → rangesMeet (resvOf v).1 (resvOf v).2 kv.2.ddrBase kv.2.ddrSize = false) →
        t.reg (aFlt 0x2020) = v ∧ ∀ a, a ≠ aFlt 0x2020 → t.reg a = s.reg a) := by
  have run : exec (.fltResvWrite v) s = .next (s.writeReg (aFlt 0x2020) v) := whenOn_on on
  rw [State.writeReg_reserve] at run
  refine ⟨_, run, ?_⟩
  have bad : (s.inter.snaps.any Snapshot.own ||
      s.ctxs.any (fun kv => decide (kv.2.st ≠ 0) && rangesMeet (resvOf v).1 (resvOf v).2 kv.2.ddrBase kv.2.ddrSize) ||
      decide (ddrBase + s.installedDdr < (resvOf v).1 + (resvOf v).2)) = true ↔
      (s.inter.snaps.any Snapshot.own = true ∨ s.installedDdr + ddrBase < (resvOf v).1 + (resvOf v).2 ∨
        ∃ kv ∈ s.ctxs, kv.2.st ≠ 0 ∧ rangesMeet (resvOf v).1 (resvOf v).2 kv.2.ddrBase kv.2.ddrSize = true) := by
    rw [Nat.add_comm s.installedDdr]
    simp only [Bool.or_eq_true, List.any_eq_true, Bool.and_eq_true, decide_eq_true_eq]
    rw [or_assoc, or_comm (a := ∃ kv ∈ s.ctxs, _)]
  unfold State.writeResv
  dsimp only
  split
  · rename_i h
    refine ⟨rfl, fun _ => ⟨State.orReg_reg .., fun a ha => State.reg_orReg_other _ _ ha⟩, fun own fits apart => ?_⟩
    rcases bad.mp h with g | g | ⟨kv, hkv, live, meets⟩
    · exact absurd g (by simp only [own, Bool.false_eq_true, not_false_eq_true])
    · exact absurd g (Nat.not_lt.mpr fits)
    · exact absurd meets (by simp only [apart kv hkv live, Bool.false_eq_true, not_false_eq_true])
  · rename_i h
    exact ⟨rfl, fun g => absurd (bad.mpr g) h, fun _ _ _ => ⟨State.reg_setReg_same .., fun a ha => State.reg_setReg_other _ _ ha⟩⟩

/-- An offset that a row lists lies below the row's end. -/
theorem findRow_lt {l : List RegRow} {off m : Nat} {r : RegRow} (h : findRow l off = some r)
    (ends : ∀ x ∈ l, 0 < x.stride ∧ x.off + x.num * x.stride ≤ m) : off < m := by
  induction l with
  | nil => cases h
  | cons x l ih =>
    unfold findRow at h
    split at h
    · rename_i c
      obtain ⟨pos, last⟩ := ends x (by simp)
      have := (Nat.div_lt_iff_lt_mul pos).mp c.2.2
      omega
    · exact ih h (fun y hy => ends y (by simp [hy]))

theorem cpRow_lt {off : Nat} {r : RegRow} (h : findRow cpRows off = some r) : off < 0x10000 := findRow_lt h (by decide)

theorem cueRegister_write (s : State) (n : Fin 4) (off : Nat) (r : RegRow) (v : Word) (on : s.on) (aligned : off % 4 = 0)
    (row : findRow cpRows off = some r) :
    ∃ t, Machine.exec (.cpRegisterWrite n off v) s = .next t ∧ { t with regs := s.regs } = s ∧
      (0x1000 ≤ off → r.rw ≠ 0 → (s.ctx (s.partOfCp n) ((off - 0x1000) / 0x40)).st = 4 ∨
          (s.ctx (s.partOfCp n) ((off - 0x1000) / 0x40)).st = 5 ∨ cpWriteBad off v = true →
        t.reg (aCp n 0) = s.reg (aCp n 0) ||| 0x80000000 ∧ ∀ a, a ≠ aCp n 0 → t.reg a = s.reg a) ∧
      (off < 0x1000 ∨ r.rw = 0 ∨ ((s.ctx (s.partOfCp n) ((off - 0x1000) / 0x40)).st ≠ 4 ∧
          (s.ctx (s.partOfCp n) ((off - 0x1000) / 0x40)).st ≠ 5 ∧ cpWriteBad off v = false) →
        t.reg (aCp n off) = (v &&& r.rw) ||| (s.reg (aCp n off) &&& ~~~r.rw &&& ~~~(v &&& r.w1c)) ∧
        ∀ a, a ≠ aCp n off → t.reg a = s.reg a) := by
  have run : exec (.cpRegisterWrite n off v) s = .next (s.writeCp n off v) := (if_pos aligned).trans (whenOn_on on)
  have listed : regRow (aCp n off) = some r := (regRow_of_locate (locate_cp n.isLt (cpRow_lt row))).trans row
  refine ⟨_, run, ?_⟩
  unfold State.writeCp
  rw [row]
  generalize aCp n off = a at listed ⊢
  generalize aCp n 0 = z
  dsimp only
  generalize (s.ctx (s.partOfCp n) ((off - 0x1000) / 0x40)).st = st
  split
  · rename_i h
    simp only [Bool.and_eq_true, Bool.or_eq_true, decide_eq_true_eq] at h
    obtain ⟨⟨here, rw⟩, why⟩ := h
    refine ⟨State.setReg_frame .., fun _ _ _ => ⟨State.orReg_reg .., fun a ha => State.reg_orReg_other _ _ ha⟩, fun free => ?_⟩
    rcases free with g | g | ⟨g4, g5, gb⟩
    · exact absurd here (Nat.not_le.mpr g)
    · exact absurd g rw
    · rcases why with (g | g) | g
      · exact absurd g g4
      · exact absurd g g5
      · exact absurd g (by simp only [gb, Bool.false_eq_true, not_false_eq_true])
  · rename_i h
    rw [State.writeMasked_row _ _ listed]
    refine ⟨State.setReg_frame .., fun here rw why => absurd ?_ h, fun _ => ⟨State.reg_setReg_same .., fun a ha => State.reg_setReg_other _ _ ha⟩⟩
    rw [← or_assoc] at why
    simpa only [Bool.and_eq_true, Bool.or_eq_true, decide_eq_true_eq] using ⟨⟨here, rw⟩, why⟩

theorem wingRegister_write (s : State) (w : Fin 20) (off : Nat) (r : RegRow) (v : Word) (on : s.on) (h : off < 0x8000)
    (row : regRow (aMem w off) = some r) :
    ∃ t, Machine.exec (.registerWrite (aMem w off) v) s = .next t ∧ { t with regs := s.regs } = s ∧
      t.reg (aMem w off) = (v &&& r.rw) ||| (s.reg (aMem w off) &&& ~~~r.rw &&& ~~~(v &&& r.w1c)) ∧
      ∀ a, a ≠ aMem w off → t.reg a = s.reg a := by
  have listed : (regRow (aMem w off)).isSome = true := by rw [row]; rfl
  have run : exec (.registerWrite (aMem w off) v) s = .next (s.writeReg (aMem w off) v) := (if_pos listed).trans (whenOn_on on)
  rw [s.writeReg_mem v (locate_mem w.isLt h), s.writeMasked_row v row] at run
  refine ⟨_, run, ?_⟩
  generalize aMem w off = a
  exact ⟨State.setReg_frame .., State.reg_setReg_same .., fun x hx => State.reg_setReg_other _ _ hx⟩

/-- Settles O34: each write is one of its register, with what the block that holds it makes of the value. -/
theorem registerWritesOfOwnerAndFaultBlocks : Obligations.RegisterWritesOfOwnerAndFaultBlocks := by
  intro s on
  exact ⟨fun v up owner => policy_write s v on up owner, fun v power => trayCap_write s v power, fun r => faultClear_write s r on,
    fun v => isolate_write s v on, fun v => reserve_write s v on,
    fun n off r v aligned row => cueRegister_write s n off r v on aligned row,
    fun w off r v h row => wingRegister_write s w off r v on h row⟩

end Sys2Proof.Machine
end

section
/-!
A command packet at its node (O11): what a delivered packet does to its cue processor, and the queue it enters.
-/
namespace Sys2Proof.Machine

-- One declaration after another: the whole text elaborated in parallel outgrows the memory of its check.
set_option Elab.async false

/-! ### The cue processor whose packet has been delivered -/

/-- From s to t only cue processors and read positions of contexts change. -/
structure CpWork (s t : State) : Prop where
  rest : { t with cps := s.cps, ctxs := s.ctxs } = s
  ctx : ∀ p c, { t.ctx p c with rdptr := (s.ctx p c).rdptr } = s.ctx p c

theorem CpWork.refl (s : State) : CpWork s s := ⟨rfl, fun _ _ => rfl⟩

theorem CpWork.setCp {s t : State} (k : CpWork s t) (n : Nat) (y : CueProc) : CpWork s (t.setCp n y) := ⟨k.rest, k.ctx⟩

theorem CpWork.setRdptr {s t : State} (k : CpWork s t) (p c n v : Nat) : CpWork s (t.setRdptr p c n v) := by
  refine ⟨k.rest, fun q d => ?_⟩
  unfold State.setRdptr
  by_cases h : ctxKey q d = ctxKey p c
  · have here : ∀ u : State, u.ctx q d = u.ctx p c := fun u => congrArg (sget Context.free u.ctxs) h
    rw [here, here s, State.ctx_setCtx_same]
    exact k.ctx p c
  · rw [State.ctx_setCtx_other _ _ _ _ _ _ h]
    exact k.ctx q d

theorem CpWork.cpRetire {s t : State} (k : CpWork s t) (n : Nat) : CpWork s (t.cpRetire n) := by
  unfold State.cpRetire
  dsimp only
  split
  · split
    · exact (k.setCp n _).setRdptr ..
    · exact k.setCp n _
  · exact k

theorem CpWork.cpDelivered {s t : State} (k : CpWork s t) (n : Nat) : CpWork s (t.cpDelivered n) := by
  unfold State.cpDelivered
  dsimp only
  split
  · split
    · split
      · exact k.setCp n _
      · exact k.cpRetire n
    · exact k
  · exact k

/-- What has reached its node is nothing to the cue processor. -/
theorem cpDelivered_arrived (s : State) (l : List CuePkt) (n : Nat) :
    ({ s with cueArrived := l } : State).cpDelivered n = { s.cpDelivered n with cueArrived := l } := by
  have cp : ({ s with cueArrived := l } : State).cp n = s.cp n := rfl
  have retire : ({ s with cueArrived := l } : State).cpRetire n = { s.cpRetire n with cueArrived := l } := by
    unfold State.cpRetire
    rw [cp]
    dsimp only
    split
    · have cur (u : State) (v : CueProc) : ({ u with cueArrived := l } : State).setCp n v = { u.setCp n v with cueArrived := l } := rfl
      rw [cur]
      generalize s.setCp n _ = u
      have part : ({ u with cueArrived := l } : State).partOfCp n = u.partOfCp n := rfl
      have curCtx (p : Nat) : ({ u with cueArrived := l } : State).curCtx p = u.curCtx p := rfl
      rw [part, curCtx]
      split
      · rfl
      · rfl
    · rfl
  unfold State.cpDelivered
  rw [cp, retire]
  dsimp only
  split
  · split
    · split <;> rfl
    · rfl
  · rfl

theorem issueCheck_congr {s t : State} (k : CpWork s t) (cls bay index queue : Nat) (ws : List Word) (part ctx : Nat) :
    t.issueCheck cls bay index queue ws part ctx = s.issueCheck cls bay index queue ws part ctx := by
  have bays : t.bay = s.bay := by
    funext b
    rw [← k.rest]
    rfl
  have quota (off len : Nat) : (t.ctx part ctx).spOk off len = (s.ctx part ctx).spOk off len := by
    rw [← k.ctx part ctx]
    rfl
  have disp : t.dispCheck part ctx ws = s.dispCheck part ctx ws := by
    unfold State.dispCheck
    simp only [quota]
  have stream : t.streamCheck bay queue ws = s.streamCheck bay queue ws := by
    unfold State.streamCheck
    rw [bays]
  unfold State.issueCheck
  rw [disp, stream, bays]

/-! ### The queue a packet enters -/

/-- The command a packet makes. -/
def newCmd (ws : List Word) (part ctx : Nat) (bookoff : Word) : QCmd :=
  { words := ws, part := part, ctx := ctx, bookoff := bookoff, waitSeen := false }

/-- The bay as a station command released there leaves its ramps (R96). -/
def Bay.releasedTo (y : Bay) (cls : Nat) (ws : List Word) : Bay := if cls = 0 then y.turnRamps ws else y

theorem State.enterQueue_fault {s : State} {cls bay index queue part ctx r : Nat} {ws : List Word} (bookoff : Word)
    (h : s.issueCheck cls bay index queue ws part ctx = some r) : s.enterQueue cls bay index queue ws part ctx bookoff =
      s.sendFault r part ctx (classOf cls (cmdHead (cword ws 0)).opcode) (if cls = 3 then 0xFF else bay) (indexOf cls bay index) bookoff 0 [] := by
  unfold State.issueCheck at h
  unfold State.enterQueue
  rw [h]

theorem State.enterQueue_bay {s : State} {cls bay index queue part ctx : Nat} {ws : List Word} (bookoff : Word)
    (h : s.issueCheck cls bay index queue ws part ctx = none) (c3 : cls ≠ 3) : s.enterQueue cls bay index queue ws part ctx bookoff =
      (s.setBay bay (((s.bay bay).releasedTo cls ws).setQueue (bayQueue cls queue)
        (((s.bay bay).releasedTo cls ws).queue (bayQueue cls queue) ++ [newCmd ws part ctx bookoff]))).testHeads bay := by
  unfold State.issueCheck at h
  unfold State.enterQueue
  rw [h]
  exact if_neg c3

theorem State.enterQueue_link {s : State} {bay index queue part ctx : Nat} {ws : List Word} (bookoff : Word)
    (h : s.issueCheck 3 bay index queue ws part ctx = none) : s.enterQueue 3 bay index queue ws part ctx bookoff =
      (s.setLink part ((s.link part).setQueue (linkQueue index queue)
        ((s.link part).queue (linkQueue index queue) ++ [newCmd ws part ctx bookoff]))).testLinks part := by
  unfold State.issueCheck at h
  unfold State.enterQueue
  rw [h]
  rfl

theorem Bay.setRamps_frame (y : Bay) (f : Bay → Nat → Ramp) (l : List Nat) :
    { l.foldl (fun (y : Bay) a => y.setRamp a (f y a)) y with ramps := y.ramps } = y := by
  induction l generalizing y with
  | nil => rfl
  | cons a l ih => exact congrArg (fun z : Bay => { z with ramps := y.ramps }) (ih (y.setRamp a (f y a)))

theorem Bay.releasedTo_frame (y : Bay) (cls : Nat) (ws : List Word) : { y.releasedTo cls ws with ramps := y.ramps } = y := by
  unfold Bay.releasedTo Bay.turnRamps
  split
  · dsimp only
    split
    · exact y.setRamps_frame (fun y a => (y.ramp a).turn y.clk.cyc) _
    · rfl
  · rfl

theorem Bay.queue_releasedTo (y : Bay) (cls : Nat) (ws : List Word) (q : Nat) : (y.releasedTo cls ws).queue q = y.queue q := by
  have e := congrArg (fun z : Bay => z.queue q) (y.releasedTo_frame cls ws)
  exact e

/-- A command at a bay becomes the last of its queue; of the bay only its queues and ramps change. -/
theorem enterBay {s : State} {b q : Nat} {y : Bay} {c : QCmd} (hy : { y with ramps := (s.bay b).ramps } = s.bay b)
    {t : State} (ht : t = (s.setBay b (y.setQueue q (y.queue q ++ [c]))).testHeads b) :
    ((t.bay b).queue q).map QCmd.words = ((s.bay b).queue q).map QCmd.words ++ [c.words] ∧
      { t.bay b with queues := (s.bay b).queues, ramps := (s.bay b).ramps } = s.bay b ∧ OnlyBay s t b := by
  have queue : y.queue q = (s.bay b).queue q := by
    have e := congrArg (fun z : Bay => z.queue q) hy
    exact e
  have looked := State.queue_looked (s.setBay b (y.setQueue q (y.queue q ++ [c]))) b q
  rw [State.bay_setBay_same, Bay.queue_setQueue_same, queue, List.map_append] at looked
  rw [State.testHeads_eq, State.bay_setBay_same, State.setBay_setBay] at ht
  rw [queue] at ht
  subst ht
  rw [State.bay_setBay_same]
  exact ⟨looked, congrArg (fun z : Bay => { z with queues := (s.bay b).queues }) hy, .setBay ..⟩

/-- A command at the link engines becomes the last of its queue. -/
theorem enterLink (s : State) (p q : Nat) (c : QCmd) :
    ((((s.setLink p ((s.link p).setQueue q ((s.link p).queue q ++ [c]))).testLinks p).link p).queue q).map QCmd.words =
      ((s.link p).queue q).map QCmd.words ++ [c.words] := by
  unfold State.testLinks
  dsimp only
  rw [State.link_setLink_same, State.link_setLink_same, LinkEng.queue, sget_smap]
  · refine (map_words_look _ _).trans ?_
    rw [← LinkEng.queue, LinkEng.queue_setQueue_same]
    exact List.map_append
  · intro k
    rfl

/-- Settles O11: the issue check is the one its queue makes, and what has been delivered changes nothing it looks at. -/
theorem commandPacketEntersItsQueue : Obligations.CommandPacketEntersItsQueue := by
  intro s i cls bay index queue ws part ctx bookoff cp here three running quiet sound
  obtain ⟨u, hu⟩ : ∃ u, u = { s.cpDelivered cp with cueArrived := listDrop s.cueArrived i } := ⟨_, rfl⟩
  have run : exec (.commandArrival i) s = .next (u.enterQueue cls bay index queue ws part ctx bookoff) := by
    have dead : s.engineDead cls bay index part = false := by simp only [State.engineDead, quiet, List.any_nil]
    have fenced : s.engineFenced cls bay index part = false := by simp only [State.engineFenced, quiet, List.any_nil]
    have awake : (decide (cls < 3) && (s.bay bay).clk.stopped) = false := by
      by_cases h : cls < 3
      · rw [running h, Bool.and_false]
      · rw [decide_eq_false h, Bool.false_and]
    show execCommandArrival i s = _
    unfold execCommandArrival
    rw [here]
    dsimp only
    rw [awake, dead, fenced, cpDelivered_arrived, ← hu, if_neg sound]
    rfl
  have work : CpWork s (s.cpDelivered cp) := (CpWork.refl s).cpDelivered cp
  have rest : { u with cueArrived := s.cueArrived, cps := s.cps, ctxs := s.ctxs } = s := by
    have e := congrArg (fun z : State => { z with cueArrived := s.cueArrived }) work.rest
    rw [hu]
    exact e
  have check : u.issueCheck cls bay index queue ws part ctx = s.issueCheck cls bay index queue ws part ctx := by
    rw [hu]
    exact issueCheck_congr work ..
  have cps : u.cps = (s.cpDelivered cp).cps := by rw [hu]
  have ctxs : u.ctxs = (s.cpDelivered cp).ctxs := by rw [hu]
  have arrived : u.cueArrived = listDrop s.cueArrived i := by rw [hu]
  have bays : u.bays = s.bays := by
    have e := congrArg State.bays rest
    exact e
  have ubay (b : Nat) : u.bay b = s.bay b := congrArg (fun x => sget Bay.reset x b) bays
  have ulink (p : Nat) : u.link p = s.link p := by
    have e := congrArg (fun z : State => z.link p) rest
    exact e
  refine ⟨_, run, ?_⟩
  clear run
  cases c : s.issueCheck cls bay index queue ws part ctx with
  | some r =>
    rw [State.enterQueue_fault bookoff (check.trans c)]
    refine ⟨arrived, cps, ctxs, nofun, nofun, fun r' e => ?_⟩
    obtain rfl : r = r' := Option.some.inj e
    have pkts : u.cuePkts = s.cuePkts := by
      have e := congrArg (fun z : State => z.cuePkts) rest
      exact e
    have cyc : u.cueCyc = s.cueCyc := by
      have e := congrArg (fun z : State => z.cueCyc) rest
      exact e
    have now : u.clock.house = s.clock.house := by
      have e := congrArg (fun z : State => z.clock.house) rest
      exact e
    refine ⟨?_, congrArg (fun z : State => { z with cuePkts := s.cuePkts }) rest⟩
    unfold State.sendFault State.sendCue
    dsimp only
    rw [pkts, cyc, now]
  | none =>
    by_cases c3 : cls = 3
    · subst c3
      rw [State.enterQueue_link bookoff (check.trans c)]
      refine ⟨arrived, cps, ctxs, fun _ h => absurd h (by decide), fun _ _ => ⟨?_, ?_⟩, nofun⟩
      · rw [enterLink, ulink]
        rfl
      · exact congrArg (fun z : State => { z with links := s.links }) rest
    · rw [State.enterQueue_bay bookoff (check.trans c) c3]
      obtain ⟨words, frame, only⟩ := enterBay (s := u) (b := bay) (q := bayQueue cls queue) (c := newCmd ws part ctx bookoff)
        ((u.bay bay).releasedTo_frame cls ws) rfl
      generalize (u.setBay bay _).testHeads bay = t at words frame only ⊢
      rw [ubay] at words frame
      refine ⟨?_, ?_, ?_, fun _ _ => ⟨words, frame, fun k hk => (only.others k hk).trans (ubay k), ?_⟩, fun _ h => absurd h c3, nofun⟩
      · rw [← arrived, ← only.rest]
      · rw [← cps, ← only.rest]
      · rw [← ctxs, ← only.rest]
      · rw [← bays]
        exact (congrArg (fun z : State => { z with cueArrived := s.cueArrived, cps := s.cps, ctxs := s.ctxs }) only.rest).trans rest

end Sys2Proof.Machine
end

section
/-!
The ring: what a beat that leaves a station touches, on a hop and on a splice, and the beats that follow from a chain port's
buffer; a pass-through station forwards (O15).
-/
namespace Sys2Proof.Machine

-- One declaration after another: the whole text elaborated in parallel outgrows the memory of its check.
set_option Elab.async false

/-! ### What sending on a chain port touches -/

/-- Yemir z but for its log and its one-time indices, which are as in y. -/
def Yemir.signFrame (y z : Yemir) : Yemir := y.logFrame { z with xmssNext := y.xmssNext, xmssReserved := y.xmssReserved }

/-- From s to t messages have been put on chain ports: beside their lines, queues and keys only what a signature for new keys
touches changes, and no record or buffer of a splice. -/
structure LineWork (s t : State) : Prop where
  rest : { t with chain := s.chain, ymr := s.ymr, mbx := s.mbx, pins := s.pins, inter := s.inter, regs := s.regs, free := s.free } = s
  chain : { t.chain with w := s.chain.w, e := s.chain.e } = s.chain
  records : ∀ e d, (t.port e).record d = (s.port e).record d
  splices : ∀ e, (t.port e).splices = (s.port e).splices
  ymr : s.ymr.signFrame t.ymr = s.ymr
  pins : { t.pins with ibi := s.pins.ibi } = s.pins
  inter : { t.inter with reqs := s.inter.reqs } = s.inter
  counters : ∀ a, (∀ k, a ≠ aMbx k 0x0C) → t.reg a = s.reg a

section
variable {s t u : State}

theorem LineWork.refl (s : State) : LineWork s s := ⟨rfl, rfl, fun _ _ => rfl, fun _ => rfl, rfl, rfl, rfl, fun _ _ => rfl⟩

theorem port_setPort_same (s : State) (e : Bool) (x : ChainPort) : (s.setPort e x).port e = x := by
  cases e <;> rfl

theorem port_setPort_not (s : State) {e e' : Bool} (x : ChainPort) (h : e' ≠ e) : (s.setPort e x).port e' = s.port e' := by
  cases e <;> cases e' <;> first | rfl | exact absurd rfl h

theorem LineWork.trans (k : LineWork s t) (j : LineWork t u) : LineWork s u where
  rest := (congrArg (fun z : State => { z with
    chain := s.chain, ymr := s.ymr, mbx := s.mbx, pins := s.pins, inter := s.inter, regs := s.regs, free := s.free }) j.rest).trans k.rest
  chain := (congrArg (fun z : Chain => { z with w := s.chain.w, e := s.chain.e }) j.chain).trans k.chain
  records := fun e d => (j.records e d).trans (k.records e d)
  splices := fun e => (j.splices e).trans (k.splices e)
  ymr := (congrArg s.ymr.signFrame j.ymr).trans k.ymr
  pins := (congrArg (fun z : Pins => { z with ibi := s.pins.ibi }) j.pins).trans k.pins
  inter := (congrArg (fun z : Inter => { z with reqs := s.inter.reqs }) j.inter).trans k.inter
  counters := fun a h => (j.counters a h).trans (k.counters a h)

/-- A port changes but for its record and its splice buffer. -/
theorem LineWork.setPort (k : LineWork s t) (e : Bool) {x : ChainPort} (rec : ∀ d, x.record d = (t.port e).record d)
    (spl : x.splices = (t.port e).splices) : LineWork s (t.setPort e x) where
  rest := k.rest
  chain := by
    cases e
    · exact k.chain
    · exact k.chain
  records := fun e' d => by
    by_cases h : e' = e
    · rw [h, port_setPort_same, rec, k.records]
    · rw [port_setPort_not _ _ h, k.records]
  splices := fun e' => by
    by_cases h : e' = e
    · rw [h, port_setPort_same, spl, k.splices]
    · rw [port_setPort_not _ _ h, k.splices]
  ymr := k.ymr
  pins := k.pins
  inter := k.inter
  counters := k.counters

/-- Logging is part of it. -/
theorem LineWork.log (k : LineWork s t) (j : LogWork t u) : LineWork s u := by
  have chain : u.chain = t.chain := by
    have e := congrArg (fun z : State => z.chain) j.rest
    exact e
  have ports (e : Bool) : u.port e = t.port e := by
    unfold State.port
    rw [chain]
  refine k.trans ⟨?_, ?_, fun e d => by rw [ports], fun e => by rw [ports], ?_, j.pins, j.inter, j.counters⟩
  · have e := congrArg (fun z : State => { z with chain := t.chain, free := t.free }) j.rest
    exact e
  · rw [chain]
  · exact congrArg (fun z : Yemir => { z with xmssNext := t.ymr.xmssNext, xmssReserved := t.ymr.xmssReserved }) j.ymr

theorem LineWork.takeIndex (k : LineWork s t) : LineWork s t.takeIndex.1 := by
  unfold State.takeIndex
  dsimp only
  split
  · exact ⟨k.rest, k.chain, k.records, k.splices, k.ymr, k.pins, k.inter, k.counters⟩
  · split
    · have j : LineWork s { t with ymr := { t.ymr with xmssNext := t.ymr.xmssReserved + 1, xmssReserved := t.ymr.xmssReserved + 1024 } } :=
        ⟨k.rest, k.chain, k.records, k.splices, k.ymr, k.pins, k.inter, k.counters⟩
      dsimp only
      split
      · exact j
      · exact j.log ((LogWork.refl _).logEvent ..)
    · exact k

theorem LineWork.agreeKeys (k : LineWork s t) (e : Bool) : LineWork s (t.agreeKeys e) := by
  unfold State.agreeKeys
  have j := k.takeIndex
  generalize t.takeIndex.1 = u at j
  have drawn : LineWork s { u with free := u.free + 1 } :=
    ⟨j.rest, j.chain, j.records, j.splices, j.ymr, j.pins, j.inter, j.counters⟩
  exact drawn.setPort e (fun d => by cases d <;> rfl) rfl

theorem LineWork.sendCtl (k : LineWork s t) (e nak : Bool) (ack cvl credits : Nat) : LineWork s (t.sendCtl e nak ack cvl credits) :=
  k.setPort e (fun d => by cases d <;> rfl) rfl

theorem LineWork.creditBack (k : LineWork s t) (e : Bool) (vl fuel n : Nat) : LineWork s (t.creditBack e vl fuel n) := by
  induction fuel generalizing t n with
  | zero => exact k
  | succ fuel ih =>
    unfold State.creditBack
    split
    · exact k
    · exact ih (k.sendCtl ..) _

theorem ChainPort.setCredits_splice (x : ChainPort) (vl n : Nat) (d : Dir) :
    (x.setCredits vl n).record d = x.record d ∧ (x.setCredits vl n).splices = x.splices := by
  unfold ChainPort.setCredits
  split
  · cases d <;> exact ⟨rfl, rfl⟩
  · split <;> cases d <;> exact ⟨rfl, rfl⟩

theorem LineWork.pump (k : LineWork s t) (e : Bool) (fuel : Nat) : LineWork s (t.pump e fuel) := by
  induction fuel generalizing t with
  | zero => exact k
  | succ fuel ih =>
    unfold State.pump
    dsimp only
    split
    · exact k
    · split
      · exact k
      · split
        · exact k
        · rename_i f _
          have kept (d : Dir) : ((t.port e).setCredits f.vl ((t.port e).credits f.vl - 1)).record d = (t.port e).record d :=
            (ChainPort.setCredits_splice ..).1
          have spl : ((t.port e).setCredits f.vl ((t.port e).credits f.vl - 1)).splices = (t.port e).splices :=
            (ChainPort.setCredits_splice _ _ _ .cw).2
          refine ih ?_
          split
          · refine LineWork.creditBack ?_ ..
            refine k.setPort e (fun d => ?_) ?_
            · cases d
              · exact kept .cw
              · exact kept .ccw
            · exact spl
          · refine k.setPort e (fun d => ?_) ?_
            · cases d
              · exact kept .cw
              · exact kept .ccw
            · exact spl

theorem LineWork.chainPump (k : LineWork s t) (e : Bool) : LineWork s (t.chainPump e) := k.pump ..

theorem LineWork.sendMessage (k : LineWork s t) (e : Bool) (vl dest : Nat) (islocal : Bool) (bs : List Byte) :
    LineWork s (t.sendMessage e vl dest islocal bs) := by
  unfold State.sendMessage
  have j : LineWork s (if 2 ^ 64 ≤ sget 0 (t.port e).msgTx vl + 1 then t.agreeKeys e else t) := by
    split
    · exact k.agreeKeys e
    · exact k
  generalize (if 2 ^ 64 ≤ sget 0 (t.port e).msgTx vl + 1 then t.agreeKeys e else t) = u at j
  refine LineWork.chainPump ?_ e
  exact j.setPort e (fun d => by cases d <;> rfl) rfl

theorem LineWork.chainSend (k : LineWork s t) (e : Bool) (vl dest : Nat) (islocal : Bool) (bs : List Byte) :
    LineWork s (t.chainSend e vl dest islocal bs) := by
  unfold State.chainSend
  generalize messagesOf _ bs = l
  induction l generalizing t with
  | nil => exact k
  | cons b l ih => exact ih (k.sendMessage ..)

end

/-! ### Queues and registers of the ring -/

theorem revKey_inj {st st' inp inp' : Nat} {d d' : Dir} (h : inp < 4) (h' : inp' < 4) (e : revKey st d inp = revKey st' d' inp') :
    st = st' ∧ d = d' ∧ inp = inp' := by
  have two (d : Dir) : dirBit d < 2 := by cases d <;> decide
  have hd := two d
  have hd' := two d'
  unfold revKey at e
  have same : dirBit d = dirBit d' := by omega
  have dir : d = d' := by cases d <;> cases d' <;> first | rfl | cases same
  exact ⟨by omega, dir, by omega⟩

theorem revQ_setRevQ_same (s : State) (st : Nat) (d : Dir) (inp : Nat) (l : List Beat) : (s.setRevQ st d inp l).revQ st d inp = l :=
  sget_sset_same ..

theorem revQ_setRevQ_other (s : State) {st st' : Nat} {d d' : Dir} {inp inp' : Nat} (l : List Beat)
    (h : revKey st' d' inp' ≠ revKey st d inp) : (s.setRevQ st d inp l).revQ st' d' inp' = s.revQ st' d' inp' := sget_sset_other _ _ _ h

/-- From s to t only the longest occupancies of stations' queues change (R68). -/
structure QmaxWork (s t : State) : Prop where
  rest : { t with regs := s.regs } = s
  regs : ∀ a, (∀ b, a ≠ aBay b 0x0030) → t.reg a = s.reg a

theorem State.maxFld_cases (s : State) (a hi lo v : Nat) : s.maxFld a hi lo v = s ∨ ∃ w, s.maxFld a hi lo v = s.setReg a w := by
  unfold State.maxFld
  split
  · exact .inr ⟨_, rfl⟩
  · exact .inl rfl

theorem raiseQmax_work (s : State) (b : Nat) (d : Dir) (out : Bool) (n : Nat) : QmaxWork s (s.raiseQmax b d out n) := by
  unfold State.raiseQmax
  generalize (match d with | .cw => 0 | .ccw => 16) + (if out then 8 else 0) = lo
  obtain ⟨a, ha⟩ : ∃ a, a = aBay b 0x0030 := ⟨_, rfl⟩
  dsimp only
  rw [← ha]
  rcases s.maxFld_cases a (lo + 7) lo n with e | ⟨w, e⟩
  · rw [e]
    exact ⟨rfl, fun _ _ => rfl⟩
  · rw [e]
    exact ⟨State.setReg_frame .., fun x h => State.reg_setReg_other _ _ (by rw [ha]; exact h b)⟩

/-- A field of two bits. -/
theorem fld_two (w : Word) (lo : Nat) : fld w (lo + 1) lo < 4 := by
  have width : lo + 1 + 1 - lo = 2 := by omega
  rw [fld_eq, width]
  exact Nat.mod_lt _ (by decide)

theorem inSel_lt (s : State) (st : Nat) (d : Dir) : s.inSel st d < 4 := by
  unfold State.inSel
  cases d
  · exact fld_two _ 8
  · exact fld_two _ 12

/-! ### Beats from a chain port's buffer -/

/-- From s to t beats of chain ports' buffers have entered the queues behind them: registers of the stations' link settings stay. -/
structure Drained (s t : State) : Prop where
  rest : { t with revolve := s.revolve, chain := s.chain, regs := s.regs } = s
  chain : { t.chain with w := s.chain.w, e := s.chain.e } = s.chain
  port : ∀ e, { t.port e with line := (s.port e).line, splices := (s.port e).splices } = s.port e
  queues : ∀ st d inp, inp < 4 → inp ≠ 2 → t.revQ st d inp = s.revQ st d inp
  spliced : ∀ st d, ∃ more, t.revQ st d 2 = s.revQ st d 2 ++ more
  regs : ∀ a, (∀ b, a ≠ aBay b 0x0030) → t.reg a = s.reg a

section
variable {s t u : State}

theorem Drained.refl (s : State) : Drained s s :=
  ⟨rfl, rfl, fun _ => rfl, fun _ _ _ _ _ => rfl, fun _ _ => ⟨[], (List.append_nil _).symm⟩, fun _ _ => rfl⟩

theorem Drained.setPort (k : Drained s t) (e : Bool) {x : ChainPort}
    (h : { x with line := (t.port e).line, splices := (t.port e).splices } = t.port e) : Drained s (t.setPort e x) where
  rest := k.rest
  chain := by
    cases e
    · exact k.chain
    · exact k.chain
  port := fun e' => by
    by_cases c : e' = e
    · rw [c, port_setPort_same]
      exact (congrArg (fun z : ChainPort => { z with line := (s.port e).line, splices := (s.port e).splices }) h).trans (k.port e)
    · rw [port_setPort_not _ _ c]
      exact k.port e'
  queues := k.queues
  spliced := k.spliced
  regs := k.regs

theorem Drained.qmax (k : Drained s t) (j : QmaxWork t u) : Drained s u := by
  have chain : u.chain = t.chain := by
    have e := congrArg (fun z : State => z.chain) j.rest
    exact e
  have revolve : u.revolve = t.revolve := by
    have e := congrArg (fun z : State => z.revolve) j.rest
    exact e
  have port (e : Bool) : u.port e = t.port e := by
    unfold State.port
    rw [chain]
  have queue (st : Nat) (d : Dir) (inp : Nat) : u.revQ st d inp = t.revQ st d inp := by
    unfold State.revQ
    rw [revolve]
  refine ⟨?_, ?_, fun e => ?_, fun st d inp h h' => (queue ..).trans (k.queues st d inp h h'), fun st d => ?_,
    fun a h => (j.regs a h).trans (k.regs a h)⟩
  · have e := congrArg (fun z : State => { z with revolve := s.revolve, chain := s.chain, regs := s.regs }) j.rest
    exact e.trans k.rest
  · rw [chain]
    exact k.chain
  · rw [port]
    exact k.port e
  · rw [queue]
    exact k.spliced st d

/-- A beat joins a queue behind a splice. -/
theorem Drained.push (k : Drained s t) (st : Nat) (d : Dir) (b : Beat) : Drained s (t.setRevQ st d 2 (t.revQ st d 2 ++ [b])) where
  rest := k.rest
  chain := k.chain
  port := k.port
  queues := fun st' d' inp h h' => by
    rw [revQ_setRevQ_other _ _ (fun e => h' (revKey_inj h (by omega) e).2.2)]
    exact k.queues st' d' inp h h'
  spliced := fun st' d' => by
    obtain ⟨more, hm⟩ := k.spliced st' d'
    by_cases c : revKey st' d' 2 = revKey st d 2
    · obtain ⟨rfl, rfl, -⟩ := revKey_inj (by omega) (by omega) c
      exact ⟨more ++ [b], by rw [revQ_setRevQ_same, hm, List.append_assoc]⟩
    · exact ⟨more, by rw [revQ_setRevQ_other _ _ c, hm]⟩
  regs := k.regs

theorem Drained.creditBack (k : Drained s t) (e : Bool) (vl fuel n : Nat) : Drained s (t.creditBack e vl fuel n) := by
  induction fuel generalizing t n with
  | zero => exact k
  | succ fuel ih =>
    unfold State.creditBack
    split
    · exact k
    · refine ih ?_ _
      exact k.setPort e rfl

theorem Drained.spliceGo (k : Drained s t) (e : Bool) (l kept : List (Dir × Beat × Nat)) : Drained s (State.spliceGo e l kept t) := by
  induction l generalizing t kept with
  | nil => exact k.setPort e rfl
  | cons x l ih =>
    obtain ⟨d, b, n⟩ := x
    unfold State.spliceGo
    dsimp only
    split
    · exact ih k _
    · exact ih (((k.push ..).qmax (raiseQmax_work ..)).creditBack ..) _

theorem Drained.spliceNext (s : State) (st sel : Nat) : Drained s (s.spliceNext st sel) := by
  unfold State.spliceNext
  split
  · exact (Drained.refl s).spliceGo ..
  · exact .refl s

end

/-! ### What the output depends on -/

theorem hop_congr {s t : State} (h : ∀ a, (∀ b, a ≠ aBay b 0x0030) → t.reg a = s.reg a) (st : Nat) (d : Dir) : t.hop st d = s.hop st d := by
  have link : t.reg (aBay (bayOfStation st) 0x0004) = s.reg (aBay (bayOfStation st) 0x0004) :=
    h _ (fun b => by unfold aBay; omega)
  unfold State.hop State.outSel
  rw [link]

theorem crossTo_ne {st t : Nat} {d : Dir} (h : crossTo st d = some t) : t ≠ st := by
  have apart : ∀ p ∈ crossovers, p.1 ≠ p.2 := by decide
  cases d
  · obtain ⟨p, hp, rfl⟩ := Option.map_eq_some_iff.mp h
    have first : p.1 = st := by simpa using List.find?_some hp
    have := apart p (List.mem_of_find?_eq_some hp)
    omega
  · obtain ⟨p, hp, rfl⟩ := Option.map_eq_some_iff.mp h
    have second : p.2 = st := by simpa using List.find?_some hp
    have := apart p (List.mem_of_find?_eq_some hp)
    omega

theorem ringNext_ne (st : Nat) (d : Dir) : ringNext st d ≠ st := by
  cases d <;> simp only [ringNext] <;> omega

/-- An output to a station leads to another one, on its ring or crossover input. -/
theorem hop_station {s : State} {st t inp depth : Nat} {d : Dir} (h : s.hop st d = .station t inp depth) :
    t ≠ st ∧ inp < 2 := by
  unfold State.hop at h
  split at h
  · obtain ⟨rfl, rfl, -⟩ := Hop.station.inj h
    exact ⟨ringNext_ne st d, by omega⟩
  · split at h
    · rename_i c
      obtain ⟨rfl, rfl, -⟩ := Hop.station.inj h
      exact ⟨crossTo_ne c, by omega⟩
    · cases h
  · cases h
  · cases h

end Sys2Proof.Machine
end

section
/-!
A beat goes onto its output, at a pass-through station (O15) and at one that takes part (O16).
-/
namespace Sys2Proof.Machine

-- One declaration after another: the whole text elaborated in parallel outgrows the memory of its check.
set_option Elab.async false

/-! ### A beat leaves a station -/

/-- From s to t beat r has gone onto the output of station st in direction d; bays, memory and the queues into st are as they were. -/
structure Forwarded (s t : State) (st : Nat) (d : Dir) (r : Beat) : Prop where
  gone : GoneOn s t st d r
  bays : t.bays = s.bays
  mem : t.mem = s.mem
  inputs : ∀ d' inp, inp < 4 → t.revQ st d' inp = s.revQ st d' inp

theorem QmaxWork.fields {s t : State} (k : QmaxWork s t) : t.bays = s.bays ∧ t.mem = s.mem ∧ t.revolve = s.revolve ∧ t.chain = s.chain := by
  have a := congrArg (fun z : State => z.bays) k.rest
  have b := congrArg (fun z : State => z.mem) k.rest
  have c := congrArg (fun z : State => z.revolve) k.rest
  have e := congrArg (fun z : State => z.chain) k.rest
  exact ⟨a, b, c, e⟩

theorem Forwarded.qmax {s t u : State} {st : Nat} {d : Dir} {r : Beat} (k : Forwarded s t st d r) (j : QmaxWork t u) :
    Forwarded s u st d r := by
  obtain ⟨bays, mem, revolve, chain⟩ := j.fields
  have queue (st : Nat) (d : Dir) (inp : Nat) : u.revQ st d inp = t.revQ st d inp := by
    unfold State.revQ
    rw [revolve]
  have port (e : Bool) : u.port e = t.port e := by
    unfold State.port
    rw [chain]
  refine ⟨?_, bays.trans k.bays, mem.trans k.mem, fun d' inp h => (queue ..).trans (k.inputs d' inp h)⟩
  have gone := k.gone
  unfold GoneOn at gone ⊢
  split at gone
  · rw [queue]
    exact gone
  · rw [port]
    exact gone
  · exact gone

theorem LineWork.fields {s t : State} (k : LineWork s t) : t.bays = s.bays ∧ t.mem = s.mem ∧ t.revolve = s.revolve := by
  have a := congrArg (fun z : State => z.bays) k.rest
  have b := congrArg (fun z : State => z.mem) k.rest
  have c := congrArg (fun z : State => z.revolve) k.rest
  exact ⟨a, b, c⟩

theorem record_setRecord (x : ChainPort) (d : Dir) (r : SpliceRec) : (x.setRecord d r).record d = r := by cases d <;> rfl

/-- A record closes: it is empty, and what it held is on its way (R376). -/
theorem closeRecord_work (s : State) (e : Bool) (d : Dir) :
    (s.closeRecord e d).bays = s.bays ∧ (s.closeRecord e d).mem = s.mem ∧ (s.closeRecord e d).revolve = s.revolve ∧
      ((s.closeRecord e d).port e).record d = SpliceRec.empty := by
  have k (vl dest : Nat) (islocal : Bool) (bs : List Byte) :=
    LineWork.chainSend (.refl (s.setPort e ((s.port e).setRecord d SpliceRec.empty))) e vl dest islocal bs
  unfold State.closeRecord
  refine ⟨(k ..).fields.1, (k ..).fields.2.1, (k ..).fields.2.2, ?_⟩
  dsimp only
  rw [(k ..).records, port_setPort_same, record_setRecord]

/-- A beat on a splice: the record holds it, or has closed with it and gone on its way (R376). -/
theorem spliceOut_work (s : State) (e : Bool) (d : Dir) (cyc : Nat) (b : Beat) :
    (s.spliceOut e d cyc b).bays = s.bays ∧ (s.spliceOut e d cyc b).mem = s.mem ∧ (s.spliceOut e d cyc b).revolve = s.revolve ∧
      (((s.spliceOut e d cyc b).port e).record d).beats =
        if ((s.port e).record d).beats.length < 15 then ((s.port e).record d).beats ++ [b] else [] := by
  unfold State.spliceOut
  dsimp only
  rw [List.length_append, List.length_singleton]
  split
  · obtain ⟨bays, mem, revolve, record⟩ :=
      closeRecord_work (s.setPort e ((s.port e).setRecord d { beats := ((s.port e).record d).beats ++ [b], at_ := cyc })) e d
    refine ⟨bays, mem, revolve, ?_⟩
    rw [record, if_neg (by omega)]
    rfl
  · refine ⟨rfl, rfl, rfl, ?_⟩
    rw [port_setPort_same, record_setRecord, if_pos (by omega)]

theorem forward_forwarded {s : State} {st : Nat} {d : Dir} (r : Beat) (room : s.room st d 1 = true) :
    Forwarded s (s.forward st d r) st d r := by
  unfold State.forward
  split
  · rename_i tgt inp depth h
    have away := hop_station h
    have pushed : Forwarded s (s.setRevQ tgt d inp (s.revQ tgt d inp ++ [r])) st d r := by
      refine ⟨?_, rfl, rfl, fun d' inp' h' => ?_⟩
      · unfold GoneOn
        rw [h]
        exact revQ_setRevQ_same ..
      · exact revQ_setRevQ_other _ _ (fun e => away.1 (revKey_inj h' (by omega) e).1.symm)
    exact (pushed.qmax (raiseQmax_work ..)).qmax (raiseQmax_work ..)
  · rename_i e h
    obtain ⟨bays, mem, revolve, beats⟩ := spliceOut_work s e d (s.bay (bayOfStation st)).clk.cyc r
    have pushed : Forwarded s (s.spliceOut e d (s.bay (bayOfStation st)).clk.cyc r) st d r := by
      refine ⟨?_, bays, mem, fun d' inp' _ => ?_⟩
      · unfold GoneOn
        rw [h]
        exact beats
      · unfold State.revQ
        rw [revolve]
    exact pushed.qmax (raiseQmax_work ..)
  · rename_i h
    unfold State.room at room
    rw [h] at room
    cases room

/-! ### The front of an input has been taken -/

/-- From s to t station st has taken the front of its input in direction d, rest behind it. -/
structure Took (s t : State) (st : Nat) (d : Dir) (rest : List Beat) : Prop where
  left : LeftQueue s t st d rest
  bays : t.bays = s.bays
  mem : t.mem = s.mem
  hop : t.hop st d = s.hop st d
  inSel : t.inSel st d = s.inSel st d
  room : t.room st d 1 = s.room st d 1
  gone : ∀ u r, GoneOn t u st d r → GoneOn s u st d r
  participating : ∀ b, t.participating b = s.participating b

theorem took_front (s : State) (st : Nat) (d : Dir) (rest : List Beat) :
    Took s ((s.setRevQ st d (s.inSel st d) rest).spliceNext st (s.inSel st d)) st d rest := by
  have sel := inSel_lt s st d
  have k := Drained.spliceNext (s.setRevQ st d (s.inSel st d) rest) st (s.inSel st d)
  have idle : s.inSel st d ≠ 2 → (s.setRevQ st d (s.inSel st d) rest).spliceNext st (s.inSel st d) = s.setRevQ st d (s.inSel st d) rest :=
    fun h => if_neg h
  generalize (s.setRevQ st d (s.inSel st d) rest).spliceNext st (s.inSel st d) = t at k idle
  have regs (a : Nat) (h : ∀ b, a ≠ aBay b 0x0030) : t.reg a = s.reg a := k.regs a h
  have hop := hop_congr regs st d
  have link : t.reg (aBay (bayOfStation st) 0x0004) = s.reg (aBay (bayOfStation st) 0x0004) :=
    regs _ (fun b => by unfold aBay; omega)
  have bays : t.bays = s.bays := by
    have e := congrArg (fun z : State => z.bays) k.rest
    exact e
  have mem : t.mem = s.mem := by
    have e := congrArg (fun z : State => z.mem) k.rest
    exact e
  have out {tgt inp depth : Nat} (h : s.hop st d = .station tgt inp depth) : t.revQ tgt d inp = s.revQ tgt d inp := by
    obtain ⟨away, small⟩ := hop_station h
    rw [k.queues tgt d inp (by omega) (by omega)]
    exact revQ_setRevQ_other _ _ (fun e => away (revKey_inj (by omega) sel e).1)
  have record (e : Bool) (d' : Dir) : (t.port e).record d' = (s.port e).record d' := by
    have p := k.port e
    have q := congrArg (fun z : ChainPort => z.record d') p
    cases d' <;> exact q
  have waiting (e : Bool) : t.spliceWaiting e = s.spliceWaiting e := by
    have p := k.port e
    have cw := congrArg ChainPort.recCw p
    have ccw := congrArg ChainPort.recCcw p
    have queue := congrArg ChainPort.txQueue p
    unfold State.spliceWaiting
    dsimp only at cw ccw queue ⊢
    rw [cw, ccw, queue]
    rfl
  refine ⟨?_, bays, mem, hop, ?_, ?_, fun u r gone => ?_, fun b => ?_⟩
  · by_cases h : s.inSel st d = 2
    · obtain ⟨more, hm⟩ := k.spliced st d
      refine ⟨more, ?_, fun n => absurd h n⟩
      rw [h, hm, h, revQ_setRevQ_same]
    · refine ⟨[], ?_, fun _ => rfl⟩
      rw [idle h, revQ_setRevQ_same, List.append_nil]
  · unfold State.inSel
    rw [link]
  · unfold State.room
    rw [hop]
    cases h : s.hop st d with
    | station tgt inp depth => dsimp only; rw [out h]
    | splice e => exact congrArg (fun n => decide (n + 1 ≤ 64)) (waiting e)
    | off => rfl
  · unfold GoneOn at gone ⊢
    rw [hop] at gone
    cases h : s.hop st d with
    | station tgt inp depth =>
      rw [h] at gone
      dsimp only at gone ⊢
      rw [gone, out h]
    | splice e =>
      rw [h] at gone
      dsimp only at gone ⊢
      rw [gone, record]
    | off =>
      rw [h] at gone
      exact gone
  · have fuse : t.fuse = s.fuse := by
      have e := congrArg (fun z : State => z.fuse) k.rest
      exact e
    unfold State.participating State.bayActive State.bay
    rw [fuse, bays]

/-! ### A beat's arrival -/

/-- A clean beat at the front of the input is taken, and what waits for it to be taken up is the state it has left. -/
theorem beatArrives_front {s : State} {st : Nat} {d : Dir} {r : Beat} {rest : List Beat} {kind : BitVec 2}
    {take : State → Beat → Option State} (f : Fronts s st d r rest) (hk : r.kind = kind) {t : State}
    (h : take ((s.setRevQ st d (s.inSel st d) rest).spliceNext st (s.inSel st d)) r = some t) :
    s.beatArrives st d .clean kind take = .next t := by
  unfold State.beatArrives
  dsimp only
  rw [if_neg (by rw [f.running]; exact Bool.false_ne_true), f.tap, f.front]
  dsimp only
  rw [if_neg (not_not_intro hk)]
  unfold State.beatEcc
  dsimp only
  rw [h]

/-- A beat that waited in the tap register goes on. -/
theorem beatArrives_tap {s : State} {st : Nat} {d : Dir} {r : Beat} {kind : BitVec 2} {ecc : Ecc}
    {take : State → Beat → Option State} (running : (s.bay (bayOfStation st)).clk.stopped = false)
    (tap : (s.bay (bayOfStation st)).tap d = some r) (hk : r.kind = kind) {t : State} (h : take s r = some t) :
    s.beatArrives st d ecc kind take = .next (t.setTap (bayOfStation st) d none) := by
  unfold State.beatArrives
  dsimp only
  rw [if_neg (by rw [running]; exact Bool.false_ne_true), tap]
  dsimp only
  rw [if_neg (not_not_intro hk), h]

/-- A station that does not take part forwards what comes, when the output has room. -/
theorem take_passes {s : State} {st : Nat} {d : Dir} (r : Beat) (out : s.participating (bayOfStation st) = false)
    (room : s.room st d 1 = true) : s.takePass st d r = some (s.forward st d r) ∧ s.takeCarry st d r = some (s.forward st d r) := by
  unfold State.takePass State.takeCarry
  rw [out, room]
  exact ⟨rfl, rfl⟩

/-- What has gone on from the state behind a taken front has gone on from the state before. -/
theorem Took.forwarded {s t u : State} {st : Nat} {d : Dir} {rest : List Beat} {r : Beat} (k : Took s t st d rest)
    (j : Forwarded t u st d r) : GoneOn s u st d r ∧ LeftQueue s u st d rest ∧ u.bays = s.bays ∧ u.mem = s.mem := by
  obtain ⟨more, hm, none⟩ := k.left
  refine ⟨k.gone u r j.gone, ⟨more, ?_, none⟩, j.bays.trans k.bays, j.mem.trans k.mem⟩
  rw [j.inputs _ _ (inSel_lt s st d), hm]

theorem setTap_fields (s : State) (b : Nat) (d : Dir) (v : Option Beat) :
    ((s.setTap b d v).bay b).tap d = v ∧ ((s.setTap b d v).bay b).acc = (s.bay b).acc ∧
      ((s.setTap b d v).bay b).started = (s.bay b).started ∧ ∀ k, k ≠ b → (s.setTap b d v).bay k = s.bay k := by
  unfold State.setTap
  dsimp only
  rw [State.bay_setBay_same]
  cases d <;> exact ⟨rfl, rfl, rfl, fun k h => State.bay_setBay_other _ _ _ _ h⟩

theorem goneOn_setTap {s t : State} {st b : Nat} {d d' : Dir} {r : Beat} {v : Option Beat} (h : GoneOn s t st d r) :
    GoneOn s (t.setTap b d' v) st d r := h

/-- Settles O15: such a station forwards the beat itself, whichever kind it is. -/
theorem passThroughForwardsUnchanged : Obligations.PassThroughForwardsUnchanged := by
  intro s st d r mk out room kind
  obtain ⟨k, take, hk, run, passes⟩ : ∃ (k : BitVec 2) (take : State → Beat → Option State), r.kind = k ∧
      (∀ ecc, exec (mk st d ecc) s = s.beatArrives st d ecc k take) ∧
      (∀ t : State, t.participating (bayOfStation st) = false → t.room st d 1 = true → take t r = some (t.forward st d r)) := by
    rcases kind with ⟨hk, rfl⟩ | ⟨hk, rfl⟩
    · exact ⟨0, State.takePass st d, hk, fun _ => rfl, fun t h1 h2 => (take_passes r h1 h2).1⟩
    · exact ⟨1, State.takeCarry st d, hk, fun _ => rfl, fun t h1 h2 => (take_passes r h1 h2).2⟩
  refine ⟨fun rest f => ?_, fun running tap => ?_⟩
  · have taken := took_front s st d rest
    have here := beatArrives_front f hk (passes _ ((taken.participating _).trans out) (taken.room.trans room))
    have fwd := forward_forwarded r (taken.room.trans room)
    generalize (s.setRevQ st d (s.inSel st d) rest).spliceNext st (s.inSel st d) = t at taken here fwd
    obtain ⟨gone, left, bays, mem⟩ := taken.forwarded fwd
    exact ⟨_, (run .clean).trans here, gone, left, bays, mem⟩
  · have fwd := forward_forwarded r room
    have here := beatArrives_tap (ecc := .clean) running tap hk (passes s out room)
    generalize s.forward st d r = t at fwd here
    obtain ⟨tapped, acc, started, others⟩ := setTap_fields t (bayOfStation st) d none
    have bay (b : Nat) : t.bay b = s.bay b := congrArg (fun x => sget Bay.reset x b) fwd.bays
    refine ⟨_, (run .clean).trans here, goneOn_setTap fwd.gone, fwd.inputs _ _ (inSel_lt s st d), tapped, ?_, ?_, fun b h => ?_, fwd.mem⟩
    · rw [acc, bay]
    · rw [started, bay]
    · rw [others b h, bay]

end Sys2Proof.Machine
end

section
/-!
A station multiplies an arriving row (O16): an accumulator row written, one command's arrays, and all that match.
-/
namespace Sys2Proof.Machine

-- One declaration after another: the whole text elaborated in parallel outgrows the memory of its check.
set_option Elab.async false

/-! ### Accumulator rows -/

theorem accKey_inj {a a' bank bank' row row' n n' : Nat} (hb : bank < 2) (hb' : bank' < 2) (hr : row < 512) (hr' : row' < 512)
    (hn : n < 128) (hn' : n' < 128) (e : accKey a bank row n = accKey a' bank' row' n') : a = a' ∧ bank = bank' ∧ row = row' ∧ n = n' := by
  unfold accKey at e
  omega

theorem Bay.accAt_setAcc_other (y : Bay) {a a' bank bank' row row' n n' : Nat} (v : BitVec 28)
    (h : accKey a' bank' row' n' ≠ accKey a bank row n) : (y.setAcc a bank row n v).accAt a' bank' row' n' = y.accAt a' bank' row' n' :=
  sget_sset_other _ _ _ h

/-- The columns from k on of an accumulator row written, column by column. -/
theorem Bay.accAt_columns {a bank row : Nat} (hb : bank < 2) (hr : row < 512) (l : List (BitVec 28)) (k : Nat) (hk : k + l.length ≤ 128)
    (y : Bay) {a' bank' row' n : Nat} (hb' : bank' < 2) (hr' : row' < 512) (hn : n < 128) :
    ((l.zip (List.range' k l.length)).foldl (fun b p => b.setAcc a bank row p.2 p.1) y).accAt a' bank' row' n =
      if a' = a ∧ bank' = bank ∧ row' = row ∧ k ≤ n ∧ n < k + l.length then l.getD (n - k) 0 else y.accAt a' bank' row' n := by
  induction l generalizing k y with
  | nil =>
    rw [if_neg (by simp only [List.length_nil]; omega)]
    rfl
  | cons x l ih =>
    rw [List.length_cons] at hk ⊢
    rw [List.range'_succ, List.zip_cons_cons, List.foldl_cons, ih (k + 1) (by omega)]
    by_cases same : a' = a ∧ bank' = bank ∧ row' = row
    · obtain ⟨rfl, rfl, rfl⟩ := same
      by_cases first : n = k
      · subst first
        rw [if_neg (by omega), if_pos (by omega), Nat.sub_self, Bay.accAt_setAcc_same]
        rfl
      · have apart : accKey a' bank' row' n ≠ accKey a' bank' row' k :=
          fun e => first (accKey_inj hb' hb' hr' hr' hn (by omega) e).2.2.2
        rw [Bay.accAt_setAcc_other _ _ apart]
        by_cases inside : k < n ∧ n < k + (l.length + 1)
        · obtain ⟨m, rfl⟩ : ∃ m, n = k + 1 + m := ⟨n - (k + 1), by omega⟩
          rw [if_pos (by omega), if_pos (by omega)]
          have h1 : k + 1 + m - (k + 1) = m := by omega
          have h2 : k + 1 + m - k = m + 1 := by omega
          rw [h1, h2, List.getD_cons_succ]
        · rw [if_neg (by omega), if_neg (by omega)]
    · have apart : accKey a' bank' row' n ≠ accKey a bank row k := by
        intro e
        obtain ⟨h1, h2, h3, -⟩ := accKey_inj hb' hb hr' hr hn (by omega) e
        exact same ⟨h1, h2, h3⟩
      rw [if_neg (fun h => same ⟨h.1, h.2.1, h.2.2.1⟩), if_neg (fun h => same ⟨h.1, h.2.1, h.2.2.1⟩), Bay.accAt_setAcc_other _ _ apart]

theorem Bay.accAt_setAccRow (y : Bay) {a bank row : Nat} (hb : bank < 2) (hr : row < 512) {l : List (BitVec 28)} (hl : l.length = 128)
    {a' bank' row' n : Nat} (hb' : bank' < 2) (hr' : row' < 512) (hn : n < 128) :
    (y.setAccRow a bank row l).accAt a' bank' row' n =
      if a' = a ∧ bank' = bank ∧ row' = row then l.getD n 0 else y.accAt a' bank' row' n := by
  have h := Bay.accAt_columns (a := a) (a' := a') hb hr l 0 (by omega) y hb' hr' hn
  rw [hl, ← List.range_eq_range'] at h
  refine h.trans ?_
  by_cases c : a' = a ∧ bank' = bank ∧ row' = row
  · rw [if_pos c, if_pos ⟨c.1, c.2.1, c.2.2, by omega, by omega⟩, Nat.sub_zero]
  · rw [if_neg c, if_neg (fun g => c ⟨g.1, g.2.1, g.2.2.1⟩)]

theorem Bay.setAccRow_frame (y : Bay) (a bank row : Nat) (l : List (BitVec 28)) : { y.setAccRow a bank row l with acc := y.acc } = y := by
  unfold Bay.setAccRow
  generalize l.zip (List.range 128) = ps
  induction ps generalizing y with
  | nil => rfl
  | cons p ps ih => exact congrArg (fun z : Bay => { z with acc := y.acc }) (ih (y.setAcc a bank row p.2 p.1))

/-! ### One array, one command, all commands -/

/-- From s to t bay b has multiplied: of the bay accumulators, flags, ramps, started commands and the tap counter change, of the
registers the busy counters. -/
structure Multiplied (s t : State) (b : Nat) : Prop where
  rest : { t with bays := s.bays, regs := s.regs } = s
  others : ∀ k, k ≠ b → t.bay k = s.bay k
  bay : { t.bay b with
    acc := (s.bay b).acc, flags := (s.bay b).flags, ramps := (s.bay b).ramps, started := (s.bay b).started
    tapCount := (s.bay b).tapCount } = s.bay b
  regs : ∀ a, a ≠ aBay b 0x0020 → a ≠ aBay b 0x0024 → t.reg a = s.reg a

section
variable {s t u : State} {b : Nat}

theorem Multiplied.refl (s : State) (b : Nat) : Multiplied s s b := ⟨rfl, fun _ _ => rfl, rfl, fun _ _ _ => rfl⟩

theorem Multiplied.setBay (k : Multiplied s t b) {y : Bay} (h : { y with
    acc := (t.bay b).acc, flags := (t.bay b).flags, ramps := (t.bay b).ramps, started := (t.bay b).started
    tapCount := (t.bay b).tapCount } = t.bay b) : Multiplied s (t.setBay b y) b := by
  refine ⟨k.rest, fun x hx => (State.bay_setBay_other _ _ _ _ hx).trans (k.others x hx), ?_, k.regs⟩
  rw [State.bay_setBay_same]
  exact (congrArg (fun z : Bay => { z with
    acc := (s.bay b).acc, flags := (s.bay b).flags, ramps := (s.bay b).ramps, started := (s.bay b).started
    tapCount := (s.bay b).tapCount }) h).trans k.bay

theorem Multiplied.setReg (k : Multiplied s t b) {a : Nat} (v : Word) (h : a = aBay b 0x0020 ∨ a = aBay b 0x0024) :
    Multiplied s (t.setReg a v) b := by
  have away (x : Nat) (h1 : x ≠ aBay b 0x0020) (h2 : x ≠ aBay b 0x0024) : x ≠ a := by
    rcases h with e | e
    · rw [e]; exact h1
    · rw [e]; exact h2
  exact ⟨k.rest, k.others, k.bay, fun x h1 h2 => (State.reg_setReg_other _ _ (away x h1 h2)).trans (k.regs x h1 h2)⟩

theorem stnCount_cases (s : State) (b off n : Nat) : s.stnCount b off n = s ∨ ∃ v, s.stnCount b off n = s.setReg (aBay b off) v := by
  unfold State.stnCount
  split
  · exact .inl rfl
  · exact .inr ⟨_, rfl⟩

theorem Multiplied.stnCount (k : Multiplied s t b) {off : Nat} (h : off = 0x0020 ∨ off = 0x0024) (n : Nat) :
    Multiplied s (t.stnCount b off n) b := by
  rcases stnCount_cases t b off n with e | ⟨v, e⟩
  · rw [e]
    exact k
  · rw [e]
    exact k.setReg v (h.imp (congrArg (aBay b)) (congrArg (aBay b)))

theorem stnCount_bay (s : State) (b off n k : Nat) : (s.stnCount b off n).bay k = s.bay k := by
  rcases stnCount_cases s b off n with e | ⟨v, e⟩
  · rw [e]
  · rw [e, State.bay_setReg]

theorem Bay.spend_frame (y : Bay) (a n : Nat) : { y.spend a n with ramps := y.ramps } = y := by
  unfold Bay.spend
  split <;> rfl

/-- The accumulator row that command c makes of array a of a bay, at a place of it (R50, R83). -/
def Bay.multiplied (y : Bay) (c : Started) (r : Beat) (a bank row n : Nat) : BitVec 28 :=
  if bank = fld (cword c.words 3) 17 17 ∧ row = r.row.toNat then
    ((multiplyRow (y.tile a r.phase.toNat) (rowBlocks (fld (cword c.words 3) 16 13) r.data r.scales)
      (fun k => if bit (cword c.words 3) 21 && !(decide (fld (cword c.words 3) 16 13 = 8) && r.phase) then a28NegZero
        else y.accAt a bank row k)).map Prod.fst).getD n 0
  else y.accAt a bank row n

/-- The places of the accumulators. -/
def AccPlace (bank row n : Nat) : Prop := bank < 2 ∧ row < 512 ∧ n < 128

theorem multiplyRow_congr {t : Tile} {row : List (List Num)} {f g : Nat → BitVec 28} (h : ∀ n, n < 128 → f n = g n) :
    multiplyRow t row f = multiplyRow t row g :=
  List.map_congr_left fun n hn => by rw [h n (List.mem_range.mp hn)]

/-- It rests on the array's tiles and accumulators alone. -/
theorem Bay.multiplied_congr {y z : Bay} {a : Nat} (tile : z.tiles = y.tiles)
    (acc : ∀ bank row n, AccPlace bank row n → z.accAt a bank row n = y.accAt a bank row n) (c : Started) (r : Beat)
    {bank row n : Nat} (h : AccPlace bank row n) : z.multiplied c r a bank row n = y.multiplied c r a bank row n := by
  have tiles : z.tile a r.phase.toNat = y.tile a r.phase.toNat := congrArg (fun x => sget Tile.empty x _) tile
  unfold Bay.multiplied
  rw [tiles, acc bank row n h, multiplyRow_congr (fun k hk => by rw [acc bank row k ⟨h.1, h.2.1, hk⟩])]

/-- The values and flags of the row that array a multiplies for command c. -/
def Bay.products (y : Bay) (c : Started) (r : Beat) (a : Nat) : List (BitVec 28 × StickyFlags) :=
  multiplyRow (y.tile a r.phase.toNat) (rowBlocks (fld (cword c.words 3) 16 13) r.data r.scales)
    (fun k => if bit (cword c.words 3) 21 && !(decide (fld (cword c.words 3) 16 13 = 8) && r.phase) then a28NegZero
      else y.accAt a (fld (cword c.words 3) 17 17) r.row.toNat k)

/-- The bay with the row multiplied. -/
def Bay.rowDone (y : Bay) (c : Started) (r : Beat) (a : Nat) : Bay :=
  { y.setAccRow a (fld (cword c.words 3) 17 17) r.row.toNat ((y.products c r a).map Prod.fst) with
    flags := (y.products c r a).foldl (fun f p => f ||| p.2) (y.setAccRow a (fld (cword c.words 3) 17 17) r.row.toNat
      ((y.products c r a).map Prod.fst)).flags }

theorem Bay.multiplied_here (y : Bay) (c : Started) (r : Beat) (a : Nat) {bank row : Nat}
    (h : bank = fld (cword c.words 3) 17 17 ∧ row = r.row.toNat) (n : Nat) :
    y.multiplied c r a bank row n = ((y.products c r a).map Prod.fst).getD n 0 := by
  obtain ⟨rfl, rfl⟩ := h
  unfold Bay.multiplied Bay.products
  rw [if_pos ⟨rfl, rfl⟩]

/-- Flags are no accumulators. -/
theorem accAt_withFlags (y : Bay) (f : StickyFlags) (a bank row n : Nat) :
    ({ y with flags := f } : Bay).accAt a bank row n = y.accAt a bank row n := rfl

theorem rowDone_accAt (y : Bay) (c : Started) (r : Beat) (a a' bank row n : Nat) : (y.rowDone c r a).accAt a' bank row n =
    (y.setAccRow a (fld (cword c.words 3) 17 17) r.row.toNat ((y.products c r a).map Prod.fst)).accAt a' bank row n :=
  accAt_withFlags ..

theorem mmaRow_eq (s : State) (b : Nat) (c : Started) (r : Beat) (a : Nat) : s.mmaRow b c r a =
    (s.setBay b ((s.bay b).rowDone c r a)).stnCount b (if a = 0 then 0x0020 else 0x0024) 1 := rfl

theorem Bay.rowDone_frame (y : Bay) (c : Started) (r : Beat) (a : Nat) : { y.rowDone c r a with acc := y.acc, flags := y.flags } = y := by
  unfold Bay.rowDone
  generalize (y.products c r a).map Prod.fst = l
  have e := congrArg (fun z : Bay => { z with flags := y.flags }) (y.setAccRow_frame a (fld (cword c.words 3) 17 17) r.row.toNat l)
  exact e

theorem fld_bit_lt (w : Word) (i : Nat) : fld w i i < 2 := by
  have width : i + 1 - i = 1 := by omega
  rw [fld_eq, width]
  exact Nat.mod_lt _ (by decide)

/-- An array multiplies: its accumulator row is the one named, and the other arrays keep theirs. -/
theorem rowDone_acc (y : Bay) (c : Started) (r : Beat) (a : Nat) {a' bank row n : Nat} (h : AccPlace bank row n) :
    (y.rowDone c r a).accAt a' bank row n =
      if a' = a then y.multiplied c r a bank row n else y.accAt a' bank row n := by
  obtain ⟨hb, hr, hn⟩ := h
  have row512 : r.row.toNat < 512 := r.row.isLt
  have length : ((y.products c r a).map Prod.fst).length = 128 := by
    rw [List.length_map, Bay.products, multiplyRow, List.length_map, List.length_range]
  have here (h : bank = fld (cword c.words 3) 17 17 ∧ row = r.row.toNat) := y.multiplied_here c r a h n
  have away (h : ¬ (bank = fld (cword c.words 3) 17 17 ∧ row = r.row.toNat)) : y.multiplied c r a bank row n = y.accAt a bank row n := if_neg h
  rw [rowDone_accAt]
  generalize (y.products c r a).map Prod.fst = l at length here ⊢
  rw [Bay.accAt_setAccRow y (fld_bit_lt (cword c.words 3) 17) row512 length hb hr hn]
  by_cases ha : a' = a
  · rw [if_pos ha, ha]
    by_cases p : bank = fld (cword c.words 3) 17 17 ∧ row = r.row.toNat
    · rw [if_pos ⟨rfl, p⟩, here p]
    · rw [if_neg (fun g => p g.2), away p]
  · rw [if_neg (fun g => ha g.1), if_neg ha]

theorem Multiplied.mmaRow (k : Multiplied s t b) (c : Started) (r : Beat) (a : Nat) : Multiplied s (t.mmaRow b c r a) b := by
  rw [mmaRow_eq]
  have frame := (t.bay b).rowDone_frame c r a
  generalize (t.bay b).rowDone c r a = y at frame
  refine Multiplied.stnCount (k.setBay ?_) ?_ 1
  · have e := congrArg (fun z : Bay => { z with ramps := (t.bay b).ramps, started := (t.bay b).started, tapCount := (t.bay b).tapCount }) frame
    exact e
  · split
    · exact .inl rfl
    · exact .inr rfl

/-- One array of a command takes the row. -/
def State.arrayTakes (s : State) (b : Nat) (r : Beat) (c : Started) (a : Nat) : State :=
  (s.mmaRow b c r a).setBay b (((s.mmaRow b c r a).bay b).spend a c.beatCycles)

theorem Multiplied.arrayTakes (k : Multiplied s t b) (c : Started) (r : Beat) (a : Nat) : Multiplied s (t.arrayTakes b r c a) b := by
  unfold State.arrayTakes
  have j := k.mmaRow c r a
  refine j.setBay ?_
  have e := congrArg (fun z : Bay => { z with
      acc := ((t.mmaRow b c r a).bay b).acc, flags := ((t.mmaRow b c r a).bay b).flags
      started := ((t.mmaRow b c r a).bay b).started, tapCount := ((t.mmaRow b c r a).bay b).tapCount })
    (((t.mmaRow b c r a).bay b).spend_frame a c.beatCycles)
  exact e

theorem arrayTakes_acc (s : State) (b : Nat) (c : Started) (r : Beat) (a : Nat) {a' bank row n : Nat} (h : AccPlace bank row n) :
    ((s.arrayTakes b r c a).bay b).accAt a' bank row n =
      if a' = a then (s.bay b).multiplied c r a bank row n else (s.bay b).accAt a' bank row n := by
  have spent (y : Bay) (k : Nat) : (y.spend a k).accAt a' bank row n = y.accAt a' bank row n := by
    have e := congrArg (fun z : Bay => z.accAt a' bank row n) (y.spend_frame a k)
    exact e
  unfold State.arrayTakes
  rw [State.bay_setBay_same, spent, mmaRow_eq, stnCount_bay, State.bay_setBay_same]
  exact rowDone_acc _ c r a h

theorem mmaTake_eq (s : State) (b : Nat) (r : Beat) (c : Started) : s.mmaTake b r c =
    State.modStarted ((arraysOf c.head.arrays).foldl (fun s a => s.arrayTakes b r c a) s) b c.id
      (fun x => x.countBeat r (((arraysOf c.head.arrays).foldl (fun s a => s.arrayTakes b r c a) s).bay b).clk.cyc) := rfl

theorem Multiplied.modStarted (k : Multiplied s t b) (id : Nat) (f : Started → Started) : Multiplied s (t.modStarted b id f) b :=
  k.setBay rfl

theorem Multiplied.arrays (k : Multiplied s t b) (c : Started) (r : Beat) (l : List Nat) :
    Multiplied s (l.foldl (fun s a => s.arrayTakes b r c a) t) b := by
  induction l generalizing t with
  | nil => exact k
  | cons a l ih => exact ih (k.arrayTakes c r a)

theorem Multiplied.mmaTake (k : Multiplied s t b) (c : Started) (r : Beat) : Multiplied s (t.mmaTake b r c) b := by
  rw [mmaTake_eq]
  exact (k.arrays c r _).modStarted ..

theorem Multiplied.tiles (k : Multiplied s t b) : (t.bay b).tiles = (s.bay b).tiles := by
  have e := congrArg (fun z : Bay => z.tiles) k.bay
  exact e

/-- A command's arrays, each at most once, multiply; the others do not. -/
theorem arrays_acc {l : List Nat} (once : l.Nodup) (s : State) (b : Nat) (c : Started) (r : Beat) {a bank row n : Nat} (h : AccPlace bank row n) :
    ((l.foldl (fun s a => s.arrayTakes b r c a) s).bay b).accAt a bank row n =
      if a ∈ l then (s.bay b).multiplied c r a bank row n else (s.bay b).accAt a bank row n := by
  induction l generalizing s with
  | nil => rw [if_neg List.not_mem_nil]; rfl
  | cons x l ih =>
    obtain ⟨fresh, once⟩ := List.nodup_cons.mp once
    rw [List.foldl_cons, ih once]
    by_cases hx : a = x
    · subst hx
      rw [if_neg fresh, if_pos List.mem_cons_self, arrayTakes_acc _ _ _ _ _ h, if_pos rfl]
    · have keeps (bank row n : Nat) (h : AccPlace bank row n) :
          ((s.arrayTakes b r c x).bay b).accAt a bank row n = (s.bay b).accAt a bank row n := by
        rw [arrayTakes_acc _ _ _ _ _ h, if_neg hx]
      have same : a ∈ x :: l ↔ a ∈ l := by rw [List.mem_cons, or_iff_right hx]
      simp only [same]
      split
      · exact Bay.multiplied_congr ((Multiplied.refl s b).arrayTakes c r x).tiles keeps c r h
      · exact keeps bank row n h

theorem nodup_arraysOf (n : Nat) : (arraysOf n).Nodup := by
  unfold arraysOf
  split
  · decide
  · split
    · decide
    · split <;> decide

theorem mmaTake_acc (s : State) (b : Nat) (r : Beat) (c : Started) {a bank row n : Nat} (h : AccPlace bank row n) :
    ((s.mmaTake b r c).bay b).accAt a bank row n =
      if c.onArray a = true then (s.bay b).multiplied c r a bank row n else (s.bay b).accAt a bank row n := by
  have counted (t : State) (id : Nat) (f : Started → Started) : ((t.modStarted b id f).bay b).acc = (t.bay b).acc := by
    unfold State.modStarted
    rw [State.bay_setBay_same]
  have reads (y z : Bay) (e : y.acc = z.acc) : y.accAt a bank row n = z.accAt a bank row n := congrArg (sget 0 · _) e
  rw [mmaTake_eq, reads _ _ (counted ..), arrays_acc (nodup_arraysOf _) s b c r h]
  have mem : a ∈ arraysOf c.head.arrays ↔ c.onArray a = true := List.contains_iff_mem.symm
  simp only [mem]

/-- Of the matching commands, those that name array a decide what it holds: none, and it stays; one, and it multiplies. -/
theorem mmaTakes_acc (b : Nat) (r : Beat) (a : Nat) (ms : List Started) (s : State) :
    (ms.filter (fun x => x.onArray a) = [] → ∀ bank row n, AccPlace bank row n →
      ((ms.foldl (fun s c => s.mmaTake b r c) s).bay b).accAt a bank row n = (s.bay b).accAt a bank row n) ∧
    (∀ c, ms.filter (fun x => x.onArray a) = [c] → ∀ bank row n, AccPlace bank row n →
      ((ms.foldl (fun s c => s.mmaTake b r c) s).bay b).accAt a bank row n = (s.bay b).multiplied c r a bank row n) := by
  induction ms generalizing s with
  | nil => exact ⟨fun _ _ _ _ _ => rfl, nofun⟩
  | cons x ms ih =>
    obtain ⟨none, one⟩ := ih (s.mmaTake b r x)
    rw [List.filter_cons]
    by_cases hx : x.onArray a = true
    · rw [if_pos hx]
      refine ⟨nofun, fun c e bank row n h => ?_⟩
      obtain ⟨rfl, rest⟩ := List.cons.inj e
      rw [List.foldl_cons, none rest bank row n h, mmaTake_acc _ _ _ _ h, if_pos hx]
    · rw [if_neg hx]
      have keeps (bank row n : Nat) (h : AccPlace bank row n) :
          ((s.mmaTake b r x).bay b).accAt a bank row n = (s.bay b).accAt a bank row n := by
        rw [mmaTake_acc _ _ _ _ h, if_neg hx]
      refine ⟨fun e bank row n h => (none e bank row n h).trans (keeps bank row n h), fun c e bank row n h => (one c e bank row n h).trans ?_⟩
      exact Bay.multiplied_congr ((Multiplied.refl s b).mmaTake x r).tiles keeps c r h

theorem Multiplied.mmaTakes (k : Multiplied s t b) (r : Beat) (ms : List Started) :
    Multiplied s (ms.foldl (fun s c => s.mmaTake b r c) t) b := by
  induction ms generalizing t with
  | nil => exact k
  | cons c ms ih => exact ih (k.mmaTake c r)

theorem Multiplied.countTap (k : Multiplied s t b) : Multiplied s (t.countTap b) b := by
  unfold State.countTap
  split
  · exact k
  · exact k.setBay rfl

/-! ### The way on from there -/

theorem Multiplied.links (k : Multiplied s t b) (st : Nat) (d : Dir) :
    t.hop st d = s.hop st d ∧ t.inSel st d = s.inSel st d ∧ t.revolve = s.revolve ∧ t.chain = s.chain ∧ t.mem = s.mem := by
  have link : t.reg (aBay (bayOfStation st) 0x0004) = s.reg (aBay (bayOfStation st) 0x0004) := by
    refine k.regs _ ?_ ?_ <;> unfold aBay <;> omega
  have revolve := congrArg (fun z : State => z.revolve) k.rest
  have chain := congrArg (fun z : State => z.chain) k.rest
  have mem := congrArg (fun z : State => z.mem) k.rest
  refine ⟨?_, ?_, revolve, chain, mem⟩
  · unfold State.hop State.outSel
    rw [link]
  · unfold State.inSel
    rw [link]

theorem Multiplied.gone (k : Multiplied s t b) {st : Nat} {d : Dir} {r : Beat} (h : GoneOn t u st d r) : GoneOn s u st d r := by
  obtain ⟨hop, -, revolve, chain, -⟩ := k.links st d
  unfold GoneOn State.revQ State.port at h ⊢
  rwa [hop, revolve, chain] at h

theorem Multiplied.room (k : Multiplied s t b) (st : Nat) (d : Dir) (n : Nat) : t.room st d n = s.room st d n := by
  obtain ⟨hop, -, revolve, chain, -⟩ := k.links st d
  unfold State.room State.revQ State.spliceRoom State.spliceWaiting State.port
  rw [hop, revolve, chain]

end

/-- The state in which every matching command has taken the row. -/
def State.rowTaken (s : State) (st : Nat) (d : Dir) (r : Beat) : State :=
  ((s.bay (bayOfStation st)).started.filter (fun c => c.mmaMatches r d)).foldl (fun s c => s.mmaTake (bayOfStation st) r c)
    (s.countTap (bayOfStation st))

/-- A row that matches, that every array can accept and that has room goes on, or is retired with REMAIN 1. -/
theorem tapRow_takes {s : State} {st : Nat} {d : Dir} {r : Beat} (free : (s.bay (bayOfStation st)).tap (otherDir d) = none)
    (some_ : (s.bay (bayOfStation st)).started.filter (fun x => x.mmaMatches r d) ≠ [])
    (accept : ∀ c ∈ (s.bay (bayOfStation st)).started, c.mmaMatches r d = true → ∀ a ∈ arraysOf c.head.arrays,
      (s.bay (bayOfStation st)).admits a = true) (room : r.remain = 1 ∨ s.room st d 1 = true) :
    s.tapRow st d r = some (if r.remain - 1 = 0 then s.rowTaken st d r
      else (s.rowTaken st d r).forward st d { r with remain := r.remain - 1 }) := by
  have nonempty : ((s.bay (bayOfStation st)).started.filter (fun x => x.mmaMatches r d)).isEmpty = false := by
    rwa [List.isEmpty_eq_false_iff]
  have noYield (ms : List Started) : s.tapYields st d ms = false := by
    unfold State.tapYields
    dsimp only
    rw [free]
  have all : ((s.bay (bayOfStation st)).started.filter (fun x => x.mmaMatches r d)).all
      (fun c => (arraysOf c.head.arrays).all (s.bay (bayOfStation st)).admits) = true := by
    rw [List.all_eq_true]
    intro c hc
    obtain ⟨hs, hm⟩ := List.mem_filter.mp hc
    exact List.all_eq_true.mpr (accept c hs hm)
  have go : ¬ ((r.remain - 1 ≠ 0 && !(s.room st d 1)) = true) := by
    rcases room with e | e
    · rw [e]
      intro h
      simp only [Bool.and_eq_true, decide_eq_true_eq] at h
      exact h.1 (by decide)
    · rw [e, Bool.not_true, Bool.and_false]
      exact Bool.false_ne_true
  unfold State.tapRow
  dsimp only
  rw [nonempty, noYield, all, if_neg (by decide), if_neg go]
  rfl

theorem rowTaken_work (s : State) (st : Nat) (d : Dir) (r : Beat) : Multiplied s (s.rowTaken st d r) (bayOfStation st) :=
  ((Multiplied.refl s _).countTap).mmaTakes r _

theorem countTap_acc (s : State) (b : Nat) : ((s.countTap b).bay b).acc = (s.bay b).acc ∧ ((s.countTap b).bay b).tiles = (s.bay b).tiles := by
  unfold State.countTap
  split
  · exact ⟨rfl, rfl⟩
  · rw [State.bay_setBay_same]
    exact ⟨rfl, rfl⟩

/-- What the accumulators hold once the row is taken (R50, R83). -/
theorem rowTaken_acc (s : State) (st : Nat) (d : Dir) (r : Beat) (a : Nat) {bank row n : Nat} (h : AccPlace bank row n) :
    (∀ c, (s.bay (bayOfStation st)).started.filter (fun x => x.mmaMatches r d && x.onArray a) = [c] →
      ((s.rowTaken st d r).bay (bayOfStation st)).accAt a bank row n = (s.bay (bayOfStation st)).multiplied c r a bank row n) ∧
    ((s.bay (bayOfStation st)).started.filter (fun x => x.mmaMatches r d && x.onArray a) = [] →
      ((s.rowTaken st d r).bay (bayOfStation st)).accAt a bank row n = (s.bay (bayOfStation st)).accAt a bank row n) := by
  obtain ⟨none, one⟩ := mmaTakes_acc (bayOfStation st) r a
    ((s.bay (bayOfStation st)).started.filter (fun c => c.mmaMatches r d)) (s.countTap (bayOfStation st))
  obtain ⟨acc, tiles⟩ := countTap_acc s (bayOfStation st)
  have same (bank row n : Nat) (_ : AccPlace bank row n) : ((s.countTap (bayOfStation st)).bay (bayOfStation st)).accAt a bank row n =
      (s.bay (bayOfStation st)).accAt a bank row n := congrArg (fun x => sget 0 x _) acc
  have filters : ((s.bay (bayOfStation st)).started.filter (fun c => c.mmaMatches r d)).filter (fun x => x.onArray a) =
      (s.bay (bayOfStation st)).started.filter (fun x => x.mmaMatches r d && x.onArray a) := by
    rw [List.filter_filter]
    exact List.filter_congr fun x _ => Bool.and_comm _ _
  rw [filters] at none one
  refine ⟨fun c e => (one c e bank row n h).trans ?_, fun e => (none e bank row n h).trans (same bank row n h)⟩
  exact Bay.multiplied_congr tiles same c r h

theorem remain_retires (x : BitVec 12) : x - 1 = 0 ↔ x = 1 := by bv_omega

/-- Settles O16: every matching command multiplies in its arrays, and then the row goes on or is retired. -/
theorem stationMultipliesTheRow : Obligations.StationMultipliesTheRow := by
  intro s st d r rest active f free kind room some_ accept
  have taken := took_front s st d rest
  have arrives := fun t => beatArrives_front (take := State.takePass st d) (t := t) f kind
  generalize (s.setRevQ st d (s.inSel st d) rest).spliceNext st (s.inSel st d) = u at taken arrives
  have bay (b : Nat) : u.bay b = s.bay b := congrArg (fun x => sget Bay.reset x b) taken.bays
  rw [← bay] at free some_ accept
  have here : u.takePass st d r = some (if r.remain - 1 = 0 then u.rowTaken st d r
      else (u.rowTaken st d r).forward st d { r with remain := r.remain - 1 }) := by
    unfold State.takePass
    rw [taken.participating, active, if_pos rfl]
    exact tapRow_takes free some_ accept (room.imp id (fun h => taken.room.trans h))
  refine ⟨_, arrives _ here, ?_⟩
  have work := rowTaken_work u st d r
  have acc := fun a bank row n h => rowTaken_acc u st d r a (bank := bank) (row := row) (n := n) h
  generalize u.rowTaken st d r = m at work acc
  obtain ⟨hop, inSel, revolve, chain, mem⟩ := work.links st d
  obtain ⟨more, queue, ring⟩ := taken.left
  have mQueue : m.revQ st d (s.inSel st d) = rest ++ more := by
    rw [← queue]
    unfold State.revQ
    rw [revolve]
  have accs (t : State) (bays : t.bays = m.bays) : ∀ a, a < 2 → ∀ bank, bank < 2 → ∀ row, row < 512 → ∀ n, n < 128 →
      (∀ c, (s.bay (bayOfStation st)).started.filter (fun x => x.mmaMatches r d && x.onArray a) = [c] →
        (t.bay (bayOfStation st)).accAt a bank row n = (s.bay (bayOfStation st)).multiplied c r a bank row n) ∧
      ((s.bay (bayOfStation st)).started.filter (fun x => x.mmaMatches r d && x.onArray a) = [] →
        (t.bay (bayOfStation st)).accAt a bank row n = (s.bay (bayOfStation st)).accAt a bank row n) := by
    intro a _ bank hb row hr n hn
    have tbay : t.bay (bayOfStation st) = m.bay (bayOfStation st) := congrArg (fun x => sget Bay.reset x _) bays
    rw [tbay, ← bay]
    exact acc a bank row n ⟨hb, hr, hn⟩
  by_cases last : r.remain = 1
  · rw [if_pos ((remain_retires _).mpr last)]
    exact ⟨mem.trans taken.mem, ⟨more, mQueue, ring⟩, fun h => absurd last h, accs m rfl⟩
  · rw [if_neg (fun h => last ((remain_retires _).mp h))]
    have open_ : m.room st d 1 = true := (work.room st d 1).trans (taken.room.trans (room.resolve_left last))
    have fwd := forward_forwarded { r with remain := r.remain - 1 } open_
    refine ⟨fwd.mem.trans (mem.trans taken.mem), ⟨more, ?_, ring⟩, fun _ => taken.gone _ _ (work.gone fwd.gone), accs _ fwd.bays⟩
    rw [fwd.inputs _ _ (inSel_lt s st d), mQueue]

end Sys2Proof.Machine
end

section
/-!
Scrub walkers: why their statement fails (O32). It is stated for every state, and a walker's row is any number there: one at row 8192
reads the words of a slice in another bay.
-/
namespace Sys2Proof.Machine

-- One declaration after another: the whole text elaborated in parallel outgrows the memory of its check.
set_option Elab.async false

/-- The first word of the slice of stagehand 8, the first of bay 1. -/
def Tests.wordOfBay1 : Nat := (spBase + 8 * 0x20000) / 8

/-- A word of bay 1 holds a single-bit error, and the walker of bank 0 of stagehand 0 stands eight slices further on. -/
def Tests.strayWalker : State :=
  { Tests.up with memErr := [(Tests.wordOfBay1, 1)], walkers := [(0, { Walker.start with row := 8 * 1024 })] }

/-- The visit corrects that word and leaves it to bay 1 to write back. -/
theorem strayWalker_visits :
    ∃ t, exec (.scrubVisit 0 0) Tests.strayWalker = .next t ∧ (t.bay 1).writeBack = [Tests.wordOfBay1] :=
  ⟨_, rfl, by decide +kernel⟩

/-- Refutes O32: a visit of a walker beyond row 1023 changes another bay. -/
theorem not_scrubWalkersVisit : ¬ Obligations.ScrubWalkersVisit := by
  intro h
  obtain ⟨visit, -, -⟩ := h Tests.strayWalker
  obtain ⟨t, ht, work, -⟩ := visit 0 0 (.scrubVisit 0 0) (by decide) (.inl ⟨rfl, by decide⟩)
  obtain ⟨u, hu, marked⟩ := strayWalker_visits
  obtain rfl : u = t := Host.Outcome.next.inj (hu.symm.trans ht)
  rw [work.others 1 (by decide)] at marked
  exact absurd marked (by decide)

end Sys2Proof.Machine
end

section
/-!
Grid: a flit crosses one link at a time, write data and flits behind a border enter in their slot (O30).
-/
namespace Sys2Proof.Machine

-- One declaration after another: the whole text elaborated in parallel outgrows the memory of its check.
set_option Elab.async false

/-- A counter goes up: a register changes, and in Yemir a tally of the risk score. -/
theorem State.countSat_writes (s : State) (a n : Nat) : ∃ rs y, s.countSat a n = { s with regs := rs, ymr := y } := by
  unfold State.countSat
  split
  · exact ⟨_, _, rfl⟩
  · split
    · exact ⟨_, _, rfl⟩
    · exact ⟨_, s.ymr, rfl⟩

/-- Noting a corrected flit touches its counter and the risk score's tally only. -/
theorem State.noted_frame (s : State) (l : Nat) (ecc : Ecc) : { s.noted l ecc with regs := s.regs, ymr := s.ymr } = s := by
  by_cases c : ecc = .corrected
  · obtain ⟨rs, y, e⟩ := s.countSat_writes (aBay (handBay l) 0x2050) 1
    rw [State.noted, if_pos c, e]
  · rw [State.noted, if_neg c]

section
variable {s : State} {i : Nat} {f : Flit} {ecc : Ecc}

theorem Crosses.rival_noted (h : Crosses s i f) : (s.noted f.at_ ecc).rival i f = none := by
  have e := congrArg State.flits (s.noted_frame f.at_ ecc)
  rw [← h.alone]
  exact congrArg (fun l : List Flit => State.rival { s with flits := l } i f) e

theorem State.routerDead_noted (s : State) (l : Nat) (ecc : Ecc) (n : Nat) : (s.noted l ecc).routerDead n = s.routerDead n :=
  (congrArg (fun t : State => t.routerDead n) (s.noted_frame l ecc) :)

/-- A flit that meets none moves over its link. -/
theorem Crosses.moves (h : Crosses s i f) (good : ecc = .clean ∨ ecc = .corrected) :
    exec (.flitHop i ecc) s = .next ((s.noted f.at_ ecc).moveFlit i f) := by
  have due : (decide (f.loc = .router) && !(s.bay (handBay f.at_)).clk.stopped && decide (f.cycle ≤ (s.bay (handBay f.at_)).clk.cyc)) = true := by
    simp [h.loc, h.running, h.due]
  have header : ecc ≠ .badHeader := by rintro rfl; simp at good
  have data : ecc ≠ .badData := by rintro rfl; simp at good
  show execFlitHop i ecc s = _
  have alone := h.rival_noted (ecc := ecc)
  unfold State.noted at alone
  unfold execFlitHop
  rw [h.here]
  dsimp only
  rw [h.loc] at due ⊢
  dsimp only
  rw [if_pos due, h.alive, if_neg Bool.false_ne_true, if_neg header, if_neg (fun e => data e.1), alone]
  rfl

/-- A border's occupancy register is the only thing that changes when a flit enters its queue. -/
theorem State.noteQueue_work (s : State) (l port cls : Nat) : { s.noteQueue l port cls with regs := s.regs } = s ∧
    ∀ a, a ≠ aBay (handBay l) 0x2054 → (s.noteQueue l port cls).reg a = s.reg a := by
  have raised : s.noteQueue l port cls = s ∨ ∃ w, s.noteQueue l port cls = s.setReg (aBay (handBay l) 0x2054) w := State.maxFld_cases ..
  rcases raised with e | ⟨w, e⟩
  · rw [e]
    exact ⟨rfl, fun _ _ => rfl⟩
  · rw [e]
    exact ⟨State.setReg_frame .., fun a ha => State.reg_setReg_other _ _ ha⟩

/-- The state with flit i behind the border it crosses. -/
def State.behindBorder (s : State) (i : Nat) (f : Flit) : State :=
  { s with flits := listDrop s.flits i ++ [{ f.onward with cycle := 0, loc := .crossing f.onward.inp s.clock.house }] }

theorem State.moveFlit_crosses (s : State) (i : Nat) (f : Flit) (off : f.at_ ≠ f.target) (alive : s.routerDead f.onward.at_ = false)
    (border : handBay f.onward.at_ ≠ handBay f.at_) :
    s.moveFlit i f = (s.behindBorder i f).noteQueue f.onward.at_ f.onward.inp f.cls := by
  unfold State.moveFlit
  dsimp only
  rw [if_neg off]
  rw [show s.routerDead (gridNext f.at_ (f.outPort f.at_)) = false from alive, if_neg Bool.false_ne_true]
  exact if_neg border

end

/-- A flit crosses its link: the four ways of `State.moveFlit`. -/
theorem crosses_goesOn (s : State) (i : Nat) (f : Flit) (ecc : Ecc) (h : Crosses s i f) (good : ecc = .clean ∨ ecc = .corrected) :
    (f.at_ = f.target → f.kind ≠ 4 → Machine.exec (.flitHop i ecc) s = .next { s.noted f.at_ ecc with
      flits := listSet s.flits i { f with loc := .ejected, cycle := f.cycle + 1, held := some (f.at_, f.outPort f.at_, f.inp, f.cycle) } }) ∧
    (f.at_ = f.target → f.kind = 4 → Machine.exec (.flitHop i ecc) s = .next
      (State.wingData { s.noted f.at_ ecc with flits := listDrop s.flits i } f)) ∧
    (f.at_ ≠ f.target → s.routerDead (f.onward.at_) = false →
      handBay (f.onward.at_) = handBay f.at_ → Machine.exec (.flitHop i ecc) s = .next { s.noted f.at_ ecc with
        flits := listSet s.flits i { f.onward with cycle := f.cycle + 1 } }) ∧
    (f.at_ ≠ f.target → s.routerDead (f.onward.at_) = false →
      handBay (f.onward.at_) ≠ handBay f.at_ → ∃ t, Machine.exec (.flitHop i ecc) s = .next t ∧
        t.flits = listDrop s.flits i ++ [{ f.onward with cycle := 0, loc := .crossing f.onward.inp s.clock.house }] ∧
        { t with flits := s.flits, regs := (s.noted f.at_ ecc).regs } = { s.noted f.at_ ecc with flits := s.flits } ∧
        ∀ a, a ≠ aBay (handBay (f.onward.at_)) 0x2054 → t.reg a = (s.noted f.at_ ecc).reg a) := by
  have flits : (s.noted f.at_ ecc).flits = s.flits := by
    have e := congrArg State.flits (s.noted_frame f.at_ ecc)
    exact e
  have clock : (s.noted f.at_ ecc).clock = s.clock := by
    have e := congrArg State.clock (s.noted_frame f.at_ ecc)
    exact e
  have dead := s.routerDead_noted f.at_ ecc f.onward.at_
  rw [h.moves good]
  generalize s.noted f.at_ ecc = u at *
  refine ⟨fun home k => ?_, fun home k => ?_, fun off alive same => ?_, fun off alive border => ?_⟩
  · rw [State.moveFlit, if_pos home, if_neg k, flits]
  · rw [State.moveFlit, if_pos home, if_pos k, flits]
  · unfold State.moveFlit
    dsimp only
    rw [if_neg off, show u.routerDead (gridNext f.at_ (f.outPort f.at_)) = false from dead.trans alive,
      if_neg Bool.false_ne_true, if_pos (show handBay (gridNext f.at_ (f.outPort f.at_)) = handBay f.at_ from same), flits]
    rfl
  · rw [u.moveFlit_crosses i f off (dead.trans alive) border]
    obtain ⟨rest, regs⟩ := (u.behindBorder i f).noteQueue_work f.onward.at_ f.onward.inp f.cls
    refine ⟨_, rfl, ?_, ?_, regs⟩
    · have e := congrArg State.flits rest
      rw [← flits, ← clock]
      exact e
    · have e := congrArg (fun z : State => { z with flits := s.flits }) rest
      exact e

/-- Settles O30: a flit alone at its router goes the way `State.moveFlit` takes; data in a slice and flits behind a border start in
an open slot. -/
theorem flitsMoveAlongTheirRoute : Obligations.FlitsMoveAlongTheirRoute := by
  refine ⟨crosses_goesOn, fun s i mask again f ecc here loc runs alive free room retry open_ => ?_, fun s r p i f port takes pick here clean => ?_⟩
  · have due : ((match (generalizing := false) again with
        | some n => decide (n ≤ s.slotCount (handBay f.at_)) && decide (s.slotOf (handBay f.at_) = n % 16)
        | none => mask.testBit (s.slotOf (handBay f.at_))) && s.slotFree f.at_ 0) = true := by
      rw [free, Bool.and_true]
      cases again with
      | none => exact open_ rfl
      | some n => simp [retry n rfl]
    show execFlitHop i ecc s = _
    unfold execFlitHop
    rw [here]
    dsimp only
    rw [loc]
    dsimp only
    unfold State.injectData
    dsimp only
    rw [runs, if_neg Bool.false_ne_true, alive, if_neg Bool.false_ne_true]
    refine (if_pos due).trans ?_
    rw [room, if_pos rfl]
    rfl
  · have turn : (decide (p.val ≠ 0) && !(s.bay (handBay r)).clk.stopped && (s.openSlots (handBay r) p).testBit (s.slotOf (handBay r)) &&
        s.slotFree r p) = true := by
      simp [port, takes.running, takes.slot, takes.free]
    have runs : execCrossingSlotTake r p s = .next (State.startFlit { s with flits := listDrop s.flits i } f p) := by
      unfold execCrossingSlotTake
      dsimp only
      rw [if_pos turn, pick]
      dsimp only
      rw [here]
      dsimp only
      rw [takes.alive, if_neg Bool.false_ne_true, clean, if_neg Bool.false_ne_true]
    exact ⟨_, runs, rfl, rfl, rfl⟩

end Sys2Proof.Machine
end

section
/-!
Grid: what requests, writes, acknowledgements and read data do at their target (O31).
-/
namespace Sys2Proof.Machine

-- One declaration after another: the whole text elaborated in parallel outgrows the memory of its check.
set_option Elab.async false

theorem AtTarget.ejected {s : State} {i : Nat} {f : Flit} (h : AtTarget s i f) : s.ejected i = some f := by
  unfold State.ejected
  rw [h.here]
  simp [h.loc, h.running]

/-- A flit's data lie in one slice. -/
theorem Flit.bayOff_within (f : Flit) {n : Nat} (h : n ≤ 256) : f.bayOff % 0x20000 + n ≤ 0x20000 := by
  unfold Flit.bayOff
  omega

/-! ### What grid arrivals may change -/

/-- A bay but for its banks used, transfers and corrections waiting. -/
theorem GridWork.bay {s t : State} {b : Nat} (g : GridWork s t b) (k : Nat) :
    { t.bay k with served := (s.bay k).served, transfers := (s.bay k).transfers, writeBack := (s.bay k).writeBack } = s.bay k := by
  obtain ⟨w, e⟩ := g.others k
  exact congrArg (fun y : Bay => { y with writeBack := (s.bay k).writeBack }) e

theorem GridWork.of_bay {s t : State} {b : Nat}
    (rest : { t with flits := s.flits, bays := s.bays, mem := s.mem, memErr := s.memErr } = s)
    (bay : ∀ k, { t.bay k with served := (s.bay k).served, transfers := (s.bay k).transfers, writeBack := (s.bay k).writeBack } = s.bay k)
    (transfers : ∀ k, k ≠ b → (t.bay k).transfers = (s.bay k).transfers)
    (errors : ∀ w, sget 0 t.memErr w = sget 0 s.memErr w) : GridWork s t b :=
  ⟨rest, fun k => ⟨(s.bay k).writeBack, bay k⟩, transfers, errors⟩

theorem GridWork.trans {s t u : State} {b : Nat} (g : GridWork s t b) (h : GridWork t u b) : GridWork s u b := by
  refine .of_bay ?_ (fun k => ?_) (fun k hk => (h.transfers k hk).trans (g.transfers k hk)) fun w => (h.errors w).trans (g.errors w)
  · exact (congrArg (fun z : State => { z with flits := s.flits, bays := s.bays, mem := s.mem, memErr := s.memErr }) h.rest).trans g.rest
  · exact (congrArg (fun y : Bay =>
      { y with served := (s.bay k).served, transfers := (s.bay k).transfers, writeBack := (s.bay k).writeBack }) (h.bay k)).trans (g.bay k)

theorem GridWork.flits (s : State) (l : List Flit) (b : Nat) : GridWork s { s with flits := l } b :=
  .of_bay rfl (fun _ => rfl) (fun _ _ => rfl) fun _ => rfl

theorem GridWork.clean {s t : State} (c : CleanFrame s t) (b : Nat) : GridWork s t b := by
  refine .of_bay ?_ (fun k => ?_) (fun k _ => ?_) c.errors
  · exact (congrArg (fun z : State => { z with flits := s.flits }) c.rest)
  · exact congrArg (fun y : Bay => { y with served := (s.bay k).served, transfers := (s.bay k).transfers }) (c.bays k)
  · have e := congrArg Bay.transfers (c.bays k)
    exact e

/-- A bay takes new banks and transfers. -/
theorem GridWork.setBay (s : State) (b : Nat) (served : List (Nat × Nat)) (transfers : List Transfer) :
    GridWork s (s.setBay b { s.bay b with served := served, transfers := transfers }) b := by
  refine .of_bay rfl (fun k => ?_) (fun k hk => ?_) fun _ => rfl
  · by_cases e : k = b
    · subst e
      rw [State.bay_setBay_same]
    · rw [State.bay_setBay_other _ _ _ _ e]
  · rw [State.bay_setBay_other _ _ _ _ hk]

theorem GridWork.useBanks (s : State) (b order off len : Nat) : GridWork s (s.useBanks b order off len) b := .setBay s b _ _

theorem State.useBanks_transfers (s : State) (b order off len : Nat) :
    ((s.useBanks b order off len).bay b).transfers = (s.bay b).transfers := by
  unfold State.useBanks
  dsimp only
  rw [State.bay_setBay_same]

/-- A slice whose words hold no bit error takes the data of a flit. -/
theorem State.sliceWritten (s : State) (f : Flit) (short : f.data.length ≤ 256)
    (clean : cleanAt s (spAddr (handBay f.target) f.bayOff) f.data.length) :
    ∃ t, ((s.useBanks (handBay f.target) 10 f.bayOff 256).spWrite (handBay f.target) f.bayOff f.data).1 = t ∧
      GridWork s t (handBay f.target) ∧ t.flits = s.flits ∧
      (t.bay (handBay f.target)).transfers = (s.bay (handBay f.target)).transfers ∧
      (∀ k, k < f.data.length → t.byte (spAddr (handBay f.target) f.bayOff + k) = f.data.getD k 0) ∧
      ∀ a, (a < spAddr (handBay f.target) f.bayOff ∨ spAddr (handBay f.target) f.bayOff + f.data.length ≤ a) → t.byte a = s.byte a := by
  have banks := s.useBanks_transfers (handBay f.target) 10 f.bayOff 256
  have work := GridWork.useBanks s (handBay f.target) 10 f.bayOff 256
  have byte : ∀ a, (s.useBanks (handBay f.target) 10 f.bayOff 256).byte a = s.byte a := fun _ => rfl
  have flits : (s.useBanks (handBay f.target) 10 f.bayOff 256).flits = s.flits := rfl
  have ok : cleanAt (s.useBanks (handBay f.target) 10 f.bayOff 256) (spAddr (handBay f.target) f.bayOff) f.data.length := clean
  generalize s.useBanks (handBay f.target) 10 f.bayOff 256 = u at *
  have wrote := cleanWrite_fresh u _ (spAddr (handBay f.target) f.bayOff) f.data ok
  rw [u.spWrite_clean _ _ _ (f.bayOff_within short) ok]
  refine ⟨_, rfl, work.trans (.clean wrote.frame _), ?_, ?_, wrote.inside, fun a ha => (wrote.outside a ha).trans (byte a)⟩
  · have e := congrArg State.flits wrote.frame.rest
    exact e.trans flits
  · have e := congrArg Bay.transfers (wrote.frame.bays (handBay f.target))
    exact Eq.trans e banks

/-! ### The four arrivals -/

section
variable {s : State} {i : Nat} {f : Flit}

theorem AtTarget.readRequest (h : AtTarget s i f) (k : f.kind = 1) (clean : cleanAt s (spAddr (handBay f.target) f.bayOff) 256) :
    ∃ t, Machine.exec (.readRequestArrival i) s = .next t ∧ GridWork s t (handBay f.target) ∧ t.mem = s.mem ∧
      (t.bay (handBay f.target)).transfers = (s.bay (handBay f.target)).transfers ∧
      t.flits = listDrop s.flits i ++ [f.reply (f.cycle + 4) (s.bytes (spAddr (handBay f.target) f.bayOff) 256)] := by
  obtain ⟨u, hu⟩ : ∃ u, u = State.useBanks { s with flits := listDrop s.flits i } (handBay f.target) 10 f.bayOff 256 := ⟨_, rfl⟩
  have ok : cleanAt u (spAddr (handBay f.target) f.bayOff) 256 := by
    rw [hu]
    exact clean
  have runs : Machine.exec (.readRequestArrival i) s =
      .next { u with flits := u.flits ++ [f.reply (f.cycle + 4) (u.bytes (spAddr (handBay f.target) f.bayOff) 256)] } := by
    show execReadRequestArrival i s = _
    unfold execReadRequestArrival
    rw [h.ejected]
    dsimp only
    rw [if_pos k, ← hu, u.spRead_clean _ _ _ (f.bayOff_within (Nat.le_refl _)) ok]
  have work : GridWork s u (handBay f.target) := by
    rw [hu]
    exact (GridWork.flits s _ _).trans (.useBanks _ _ _ _ _)
  have mem : u.mem = s.mem := by rw [hu]; rfl
  have flits : u.flits = listDrop s.flits i := by rw [hu]; rfl
  refine ⟨_, runs, work.trans (.flits u _ _), mem, ?_, ?_⟩
  · rw [hu]
    exact State.useBanks_transfers _ _ _ _ _
  · rw [State.bytes_of_mem mem, flits]

theorem AtTarget.write (h : AtTarget s i f) (k : f.kind = 0) (short : f.data.length ≤ 256)
    (clean : cleanAt s (spAddr (handBay f.target) f.bayOff) f.data.length) :
    ∃ u, Machine.exec (.sliceWriteArrival i) s = .next { u with flits := listSet s.flits i (f.reply (f.cycle + 3) []) } ∧
      GridWork s u (handBay f.target) ∧ (u.bay (handBay f.target)).transfers = (s.bay (handBay f.target)).transfers ∧
      (∀ k, k < f.data.length → u.byte (spAddr (handBay f.target) f.bayOff + k) = f.data.getD k 0) ∧
      ∀ a, (a < spAddr (handBay f.target) f.bayOff ∨ spAddr (handBay f.target) f.bayOff + f.data.length ≤ a) → u.byte a = s.byte a := by
  obtain ⟨u, wrote, work, flits, transfers, inside, outside⟩ := s.sliceWritten f short clean
  refine ⟨u, ?_, work, transfers, inside, outside⟩
  show execSliceWriteArrival i s = _
  unfold execSliceWriteArrival
  rw [h.ejected]
  dsimp only
  rw [if_pos k, wrote, flits]

theorem AtTarget.block (h : AtTarget s i f) (k : f.kind = 2 ∧ 6144 ≤ f.src) (short : f.data.length ≤ 256)
    (clean : cleanAt s (spAddr (handBay f.target) f.bayOff) f.data.length) :
    ∃ u, Machine.exec (.sliceWriteArrival i) s = .next (u.blockLanded (handBay f.target) f.tag) ∧
      GridWork s u (handBay f.target) ∧ u.flits = listDrop s.flits i ∧
      (u.bay (handBay f.target)).transfers = (s.bay (handBay f.target)).transfers ∧
      (∀ k, k < f.data.length → u.byte (spAddr (handBay f.target) f.bayOff + k) = f.data.getD k 0) ∧
      ∀ a, (a < spAddr (handBay f.target) f.bayOff ∨ spAddr (handBay f.target) f.bayOff + f.data.length ≤ a) → u.byte a = s.byte a := by
  obtain ⟨u, wrote, work, flits, transfers, inside, outside⟩ := State.sliceWritten { s with flits := listDrop s.flits i } f short clean
  refine ⟨u, ?_, (GridWork.flits s _ _).trans work, flits, transfers, inside, outside⟩
  show execSliceWriteArrival i s = _
  unfold execSliceWriteArrival
  rw [h.ejected]
  dsimp only
  rw [if_neg (by omega), if_pos k, wrote]

end

theorem State.blockLanded_transfers (s : State) (b tag : Nat) : ((s.blockLanded b tag).bay b).transfers =
    (s.bay b).transfers.map (fun x => if x.tag = tag ∧ x.write = false then { x with arrived := x.arrived + 1 } else x) := by
  unfold State.blockLanded
  dsimp only
  rw [State.bay_setBay_same]

theorem GridWork.blockLanded (s : State) (b tag : Nat) : GridWork s (s.blockLanded b tag) b := .setBay s b _ _

section
variable {s : State} {i : Nat} {f : Flit}

theorem AtTarget.sliceWrite (h : AtTarget s i f) (k : f.kind = 0 ∨ (f.kind = 2 ∧ 6144 ≤ f.src)) (short : f.data.length ≤ 256)
    (clean : cleanAt s (spAddr (handBay f.target) f.bayOff) f.data.length) :
    ∃ t, Machine.exec (.sliceWriteArrival i) s = .next t ∧ GridWork s t (handBay f.target) ∧
      (∀ k, k < f.data.length → t.byte (spAddr (handBay f.target) f.bayOff + k) = f.data.getD k 0) ∧
      (∀ a, (a < spAddr (handBay f.target) f.bayOff ∨ spAddr (handBay f.target) f.bayOff + f.data.length ≤ a) → t.byte a = s.byte a) ∧
      t.flits = (if f.kind = 0 then listSet s.flits i (f.reply (f.cycle + 3) []) else listDrop s.flits i) ∧
      (t.bay (handBay f.target)).transfers = (s.bay (handBay f.target)).transfers.map
        (fun x => if f.kind = 2 ∧ x.tag = f.tag ∧ x.write = false then { x with arrived := x.arrived + 1 } else x) := by
  rcases k with k | k
  · obtain ⟨u, runs, work, transfers, inside, outside⟩ := h.write k short clean
    refine ⟨_, runs, work.trans (.flits u _ _), inside, outside, (if_pos k).symm, transfers.trans ?_⟩
    have other : f.kind ≠ 2 := by omega
    simp only [other, false_and, if_false, List.map_id']
  · obtain ⟨u, runs, work, flits, transfers, inside, outside⟩ := h.block k short clean
    refine ⟨_, runs, work.trans (.blockLanded u _ _), inside, outside, ?_, ?_⟩
    · rw [if_neg (by omega)]
      exact flits
    · rw [State.blockLanded_transfers, transfers]
      simp only [k.1, true_and]

theorem AtTarget.acknowledged (h : AtTarget s i f) (k : f.kind = 3) :
    Machine.exec (.writeAckArrival i) s = .next (State.setHand { s with flits := listDrop s.flits i } f.target
      { s.hand f.target with putsOut := (s.hand f.target).putsOut - 1 }) := by
  show execWriteAckArrival i s = _
  unfold execWriteAckArrival
  rw [h.ejected]
  dsimp only
  rw [if_pos k]

end

/-- A group of four registers takes its 256 bytes, 64 each. -/
theorem Stagehand.getV_setGroup (h : Stagehand) (d : Nat) (v : List Byte) (r : Nat) : (h.setGroup d v).getV r =
    if d ≤ r ∧ r < d + 4 then vecBytes ((v.drop (64 * (r - d))).take 64) else h.getV r := by
  unfold Stagehand.setGroup
  simp only [show List.range 4 = [0, 1, 2, 3] from rfl, List.foldl_cons, List.foldl_nil, Stagehand.getV_setV]
  by_cases inside : d ≤ r ∧ r < d + 4
  · obtain rfl | rfl | rfl | rfl : r = d ∨ r = d + 1 ∨ r = d + 2 ∨ r = d + 3 := by omega
    all_goals simp
  · rw [if_neg (by omega), if_neg (by omega), if_neg (by omega), if_neg (by omega), if_neg inside]

section
variable {s : State} {i : Nat} {f : Flit}

theorem AtTarget.readData (h : AtTarget s i f) (k : f.kind = 2) (src : f.src < 6144) :
    Machine.exec (.rgetDataArrival i) s = .next
      (if (s.hand f.target).getsOut.contains f.tag && !f.void && decide (f.ctx = (s.hand f.target).ctx) then
        State.setHand { s with flits := listDrop s.flits i } f.target
          { (s.hand f.target).setGroup f.tag f.data with getsOut := (s.hand f.target).getsOut.erase f.tag }
      else { s with flits := listDrop s.flits i }) := by
  show execRgetDataArrival i s = _
  unfold execRgetDataArrival
  rw [h.ejected]
  dsimp only
  rw [if_pos ⟨k, src⟩]
  split <;> rfl

end

/-- Settles O31: each of the four arrivals by its kind. -/
theorem gridArrivals : Obligations.GridArrivals := by
  intro s i f h
  refine ⟨fun k => h.readRequest k, fun k => h.sliceWrite k, fun k => ?_, fun k src => ⟨fun asked live ctx => ?_, fun dropped => ?_⟩⟩
  · rw [h.acknowledged k]
    exact ⟨_, rfl, rfl, rfl, State.hand_setHand_same _ _ _, fun k hk => State.hand_setHand_other _ _ _ _ hk⟩
  · rw [h.readData k src, if_pos (by rw [asked, live, ctx, decide_eq_true rfl]; rfl)]
    refine ⟨_, rfl, rfl, rfl, fun k hk => State.hand_setHand_other _ _ _ _ hk, fun k hk => ?_, fun r hr => ?_, ?_⟩
    · rw [State.hand_setHand_same]
      exact (Stagehand.getV_setGroup _ _ _ _).trans (by rw [if_pos (by omega), Nat.add_sub_cancel_left])
    · rw [State.hand_setHand_same]
      exact (Stagehand.getV_setGroup _ _ _ _).trans (if_neg (by omega))
    · rw [State.hand_setHand_same]
      rfl
  · rw [h.readData k src, if_neg]
    rw [Bool.and_eq_true, Bool.and_eq_true, Bool.not_eq_true', decide_eq_true_eq]
    rintro ⟨⟨asked, live⟩, ctx⟩
    rcases dropped with e | e | e
    · exact Bool.false_ne_true (e.symm.trans asked)
    · exact Bool.false_ne_true (live.symm.trans e)
    · exact e ctx

end Sys2Proof.Machine
end

section
/-!
Curtain network: registration at a node, and numbering at the root (O35).
-/
namespace Sys2Proof.Machine

-- One declaration after another: the whole text elaborated in parallel outgrows the memory of its check.
set_option Elab.async false

/-- Event e, at place i of those on their way, has reached the root, which has noted a set. -/
def State.atRoot (s : State) (i cyc : Nat) (e : CrtPend) : State :=
  { s with crt := { s.crt with toRoot := listDrop s.crt.toRoot i }.noteSet cyc e.ev }

/-- An arriver joins generation g behind those released. -/
def State.joins (s : State) (p n cls idx g : Nat) : State :=
  { s with crt := { s.crt with joined := sset 0 s.crt.joined (joinKey p cls idx) (sget 0 s.crt.given (curtKey p n) + g) } }

/-- The root notes a set beside its other state. -/
theorem noteSet_writes (n : CurtNet) (cyc : Nat) (ev : CrtEvent) : ∃ a b, n.noteSet cyc ev = { n with rootCyc := a, rootSets := b } ∧
    ∀ l, ({ n with toRoot := l } : CurtNet).noteSet cyc ev = { n with rootCyc := a, rootSets := b, toRoot := l } :=
  ⟨_, _, rfl, fun _ => rfl⟩

theorem State.atRoot_eq (s : State) (i cyc : Nat) (e : CrtPend) : ∃ a b, s.crt.noteSet cyc e.ev = { s.crt with rootCyc := a, rootSets := b } ∧
    s.atRoot i cyc e = { s with crt := { s.crt with rootCyc := a, rootSets := b, toRoot := listDrop s.crt.toRoot i } } := by
  obtain ⟨a, b, noted, here⟩ := noteSet_writes s.crt cyc e.ev
  exact ⟨a, b, noted, by rw [State.atRoot, here]⟩

/-- What an arrival leaves that curtain c takes. -/
theorem State.numberPlain_eq (s : State) (p n cls idx g : Nat) (c : Curtain) (ev : CrtEvent) (time : Nat) :
    ((s.joins p n cls idx g).setCurtain p n c).numberPlain ev time = { s with crt := { s.crt with
      joined := sset 0 s.crt.joined (joinKey p cls idx) (sget 0 s.crt.given (curtKey p n) + g)
      curtains := sset Curtain.off s.crt.curtains (curtKey p n) c
      seq := s.crt.seq + 1
      numbered := s.crt.numbered ++ [{ seq := s.crt.seq + 1, ev := ev, release := none, time := time }] } } := by
  unfold State.numberPlain State.setCurtain State.joins
  dsimp only

/-- What an arrival leaves that completes curtain c. -/
theorem State.releaseCurtain_eq (s : State) (p n cls idx g : Nat) (c : Curtain) (pay : Byte) (seq : Word) (ev : CrtEvent) (time : Nat) :
    ((s.joins p n cls idx g).setCurtain p n c).releaseCurtain p n pay seq ev time = { s with crt := { s.crt with
      joined := sset 0 s.crt.joined (joinKey p cls idx) (sget 0 s.crt.given (curtKey p n) + g)
      curtains := sset Curtain.off (sset Curtain.off s.crt.curtains (curtKey p n) c) (curtKey p n) (c.released pay)
      seq := seq
      given := sset 0 s.crt.given (curtKey p n) (sget 0 s.crt.given (curtKey p n) + 1)
      numbered := s.crt.numbered ++ [{ seq := seq, ev := ev, release := some (p, n, pay), time := time }] } } := by
  unfold State.releaseCurtain
  rw [State.curtain_setCurtain_same]
  unfold State.setCurtain State.joins
  dsimp only

/-- The events of a node reach the root in order; one that nothing holds back is numbered. -/
theorem rootNumbering_runs {s : State} {i cyc : Nat} {e : CrtPend} (here : s.crt.toRoot[i]? = some e)
    (now : cyc = rootCycle s.clock.refLost s.clock.uptime)
    (first : (s.crt.toRoot.take i).any (fun x => decide (x.node = e.node)) = false) (late : s.crt.clearLate cyc e.ev = false) :
    exec (.rootNumbering i) s = .next ((s.atRoot i cyc e).numberEvent e) := by
  show execRootNumbering i s = _
  unfold execRootNumbering
  rw [← now, here]
  dsimp only
  rw [first, late, Bool.or_false, if_neg Bool.false_ne_true]
  rfl

/-- An arrival at a curtain that takes c and is not released. -/
theorem numbered_plain (s : State) (i cyc : Nat) (e : CrtPend) (p n cls idx g : Nat) (c : Curtain) :
    NumberedArrival s ((((s.atRoot i cyc e).joins p n cls idx g).setCurtain p n c).numberPlain e.ev e.time) i cyc e p n cls idx g none ∧
      ((((s.atRoot i cyc e).joins p n cls idx g).setCurtain p n c).numberPlain e.ev e.time).curtain p n = c := by
  obtain ⟨a, b, noted, here⟩ := s.atRoot_eq i cyc e
  rw [State.numberPlain_eq, here]
  refine ⟨⟨rfl, ?_, fun q m h => sget_sset_other _ _ _ h⟩, sget_sset_same ..⟩
  rw [noted, if_pos rfl]

/-- An arrival that completes curtain c, which is released. -/
theorem numbered_release (s : State) (i cyc : Nat) (e : CrtPend) (p n cls idx : Nat) (c : Curtain) (pay : Byte) :
    ∃ t, (((s.atRoot i cyc e).joins p n cls idx 1).setCurtain p n c).releaseCurtain p n pay (s.crt.seq + 1) e.ev e.time = t ∧
      NumberedArrival s t i cyc e p n cls idx 1 (some (p, n, pay)) ∧ t.curtain p n = c.released pay := by
  obtain ⟨a, b, noted, here⟩ := s.atRoot_eq i cyc e
  rw [State.releaseCurtain_eq, here]
  refine ⟨_, rfl, ⟨rfl, ?_, fun q m h => ?_⟩, sget_sset_same ..⟩
  · rw [noted, if_neg (Option.some_ne_none _)]
  · exact (sget_sset_other _ _ _ h).trans (sget_sset_other _ _ _ h)

section
variable (s : State) (i cyc : Nat) (e : CrtPend) {p n ctx cls idx : Nat} {pay : Byte}

theorem numberEvent_waits (ev : e.ev = .arrive p n pay ctx cls idx) (held : (s.curtain p n).held = false)
    (few : (s.curtain p n).arrived + 1 < (s.curtain p n).count) :
    (s.atRoot i cyc e).numberEvent e = (((s.atRoot i cyc e).joins p n cls idx 1).setCurtain p n
      { s.curtain p n with arrived := (s.curtain p n).arrived + 1, acc := (s.curtain p n).acc ||| pay }).numberPlain e.ev e.time := by
  have same : (s.atRoot i cyc e).curtain p n = s.curtain p n := rfl
  have some_ : (s.curtain p n).count ≠ 0 := by omega
  unfold State.numberEvent
  rw [ev]
  dsimp only
  unfold State.numberArrival
  dsimp only
  rw [same, held, if_neg Bool.false_ne_true, if_neg some_, if_neg Bool.false_ne_true, if_pos few]
  rfl

theorem numberEvent_held (ev : e.ev = .arrive p n pay ctx cls idx) (held : (s.curtain p n).held = true)
    (enabled : ((s.curtain p n).next.map Prod.snd).getD (s.curtain p n).count ≠ 0) :
    (s.atRoot i cyc e).numberEvent e = (((s.atRoot i cyc e).joins p n cls idx 2).setCurtain p n
      { s.curtain p n with arrived := (s.curtain p n).arrived + 1, accNext := (s.curtain p n).accNext ||| pay }).numberPlain e.ev e.time := by
  have same : (s.atRoot i cyc e).curtain p n = s.curtain p n := rfl
  unfold State.numberEvent
  rw [ev]
  dsimp only
  unfold State.numberArrival
  dsimp only
  rw [same, held, if_pos rfl, if_neg enabled, if_pos rfl]
  rfl

theorem numberEvent_completes (ev : e.ev = .arrive p n pay ctx cls idx) (held : (s.curtain p n).held = false)
    (enabled : (s.curtain p n).count ≠ 0) (full : (s.curtain p n).count ≤ (s.curtain p n).arrived + 1)
    (plain : (s.curtain p n).chain = false) :
    (s.atRoot i cyc e).numberEvent e = (((s.atRoot i cyc e).joins p n cls idx 1).setCurtain p n
      { s.curtain p n with arrived := (s.curtain p n).arrived + 1, acc := (s.curtain p n).acc ||| pay }).releaseCurtain p n
        ((s.curtain p n).acc ||| pay) (s.crt.seq + 1) e.ev e.time := by
  have same : (s.atRoot i cyc e).curtain p n = s.curtain p n := rfl
  unfold State.numberEvent
  rw [ev]
  dsimp only
  unfold State.numberArrival
  dsimp only
  rw [same, held, if_neg Bool.false_ne_true, if_neg enabled, if_neg Bool.false_ne_true, if_neg (Nat.not_lt.mpr full), plain,
    if_neg Bool.false_ne_true]
  rfl

theorem numberEvent_chains (ev : e.ev = .arrive p n pay ctx cls idx) (held : (s.curtain p n).held = false)
    (enabled : (s.curtain p n).count ≠ 0) (full : (s.curtain p n).count ≤ (s.curtain p n).arrived + 1)
    (chain : (s.curtain p n).chain = true) :
    (s.atRoot i cyc e).numberEvent e = (((((s.atRoot i cyc e).joins p n cls idx 1).setCurtain p n
      { s.curtain p n with arrived := (s.curtain p n).arrived + 1, acc := (s.curtain p n).acc ||| pay, held := true }).numberPlain
        e.ev e.time).chainArrive p n ctx ((s.curtain p n).acc ||| pay) (s.curtainCast p n)).reclose p n := by
  have same : (s.atRoot i cyc e).curtain p n = s.curtain p n := rfl
  unfold State.numberEvent
  rw [ev]
  dsimp only
  unfold State.numberArrival
  dsimp only
  rw [same, held, if_neg Bool.false_ne_true, if_neg enabled, if_neg Bool.false_ne_true, if_neg (Nat.not_lt.mpr full), chain,
    if_pos rfl]
  rfl

end

/-- Settles O35: registration, and at the root the four ways of an arrival beside the plain events. -/
theorem eventsAreRegisteredAndNumbered : Obligations.EventsAreRegisteredAndNumbered := by
  refine ⟨fun s i e here first => ?_, fun s i cyc e here now first late => ⟨fun p k ev => ?_, fun p n pay ctx cls idx ev => ?_⟩⟩
  · show execEventRegistration i s = _
    unfold execEventRegistration
    rw [here]
    dsimp only
    rw [first, if_neg Bool.false_ne_true]
    rfl
  · rw [rootNumbering_runs here now first late]
    rcases ev with ev | ev | ev
    all_goals
      unfold State.numberEvent
      rw [ev]
      unfold State.atRoot
      rw [ev]
      rfl
  · rw [rootNumbering_runs here now first late]
    refine ⟨fun held few => ?_, fun held enabled => ?_, fun held enabled full plain => ?_, fun held enabled full chain => ?_⟩
    · rw [numberEvent_waits s i cyc e ev held few]
      exact ⟨_, rfl, numbered_plain ..⟩
    · rw [numberEvent_held s i cyc e ev held enabled]
      exact ⟨_, rfl, numbered_plain ..⟩
    · rw [numberEvent_completes s i cyc e ev held enabled full plain]
      obtain ⟨t, ht, work⟩ := numbered_release s i cyc e p n cls idx
        { s.curtain p n with arrived := (s.curtain p n).arrived + 1, acc := (s.curtain p n).acc ||| pay } ((s.curtain p n).acc ||| pay)
      exact ⟨t, congrArg _ ht, work⟩
    · rw [numberEvent_chains s i cyc e ev held enabled full chain]
      exact ⟨_, (numbered_plain ..).1, (numbered_plain ..).2, rfl⟩

end Sys2Proof.Machine
end

section
/-!
Curtain network: how a node applies the next numbered event (O36).
-/
namespace Sys2Proof.Machine

-- One declaration after another: the whole text elaborated in parallel outgrows the memory of its check.
set_option Elab.async false

/-- A stagehand whose flag or release has come goes on with its next instruction in the cycle after cyc. -/
def Stagehand.goesOn (h : Stagehand) (cyc : Nat) : Stagehand := { h with wait := .none, issue := max h.issue (cyc + 1) }.nextPc

theorem Stagehand.nextPc_wait (h : Stagehand) : h.nextPc.wait = h.wait := by
  unfold Stagehand.nextPc
  split
  · split
    · split <;> rfl
    · rfl
  · rfl

theorem Stagehand.goesOn_wait (h : Stagehand) (cyc : Nat) : (h.goesOn cyc).wait = .none := Stagehand.nextPc_wait _

/-! ### What an event may change at its node -/

/-- From s to t, beside the curtain network, only stagehands, cue processors with the read positions, the link engines' and
bay b's heads of queues have changed. -/
structure NodeWork (s t : State) (b : Nat) : Prop where
  rest : { t with crt := s.crt, stagehands := s.stagehands, cps := s.cps, ctxs := s.ctxs, bays := s.bays, links := s.links } = s
  others : ∀ k, k ≠ b → t.bay k = s.bay k
  bay : { t.bay b with queues := (s.bay b).queues } = s.bay b

theorem NodeWork.refl (s : State) (b : Nat) : NodeWork s s b := ⟨rfl, fun _ _ => rfl, rfl⟩

theorem NodeWork.trans {s t u : State} {b : Nat} (g : NodeWork s t b) (h : NodeWork t u b) : NodeWork s u b := by
  refine ⟨?_, fun k hk => (h.others k hk).trans (g.others k hk), ?_⟩
  · exact (congrArg (fun z : State => { z with
      crt := s.crt, stagehands := s.stagehands, cps := s.cps, ctxs := s.ctxs, bays := s.bays, links := s.links }) h.rest).trans g.rest
  · exact (congrArg (fun y : Bay => { y with queues := (s.bay b).queues }) h.bay).trans g.bay

theorem NodeWork.setCrt (s : State) (x : CurtNet) (b : Nat) : NodeWork s { s with crt := x } b := ⟨rfl, fun _ _ => rfl, rfl⟩

theorem NodeWork.wakeHands (s : State) (b : Nat) (go : Nat → Stagehand → Bool) : NodeWork s (s.wakeHands b go) b :=
  ⟨rfl, fun _ _ => rfl, rfl⟩

theorem NodeWork.testHeads (s : State) (b : Nat) : NodeWork s (s.testHeads b) b := by
  rw [State.testHeads_eq]
  exact ⟨rfl, fun k hk => State.bay_setBay_other _ _ _ _ hk, by rw [State.bay_setBay_same]⟩

theorem NodeWork.setLink (s : State) (p : Nat) (x : LinkEng) (b : Nat) : NodeWork s (s.setLink p x) b := ⟨rfl, fun _ _ => rfl, rfl⟩

/-- The cue processors at a node go on: they and read positions are all that changes. -/
theorem CpWork.wakeCps (s : State) (node : Nat) (go : Nat → CueProc → Bool) : CpWork s (s.wakeCps node go) := by
  have each : ∀ (l : List Nat) (t : State), CpWork s t →
      CpWork s (l.foldl (fun s n => if cpNode n = node ∧ go n (s.cp n) = true then s.cpRetire n else s) t) := by
    intro l
    induction l with
    | nil => exact fun t k => k
    | cons n l ih =>
      intro t k
      refine ih _ ?_
      dsimp only
      split
      · exact k.cpRetire n
      · exact k
  exact each _ s (.refl s)

theorem CpWork.node {s t : State} (k : CpWork s t) (b : Nat) : NodeWork s t b := by
  have bays : t.bays = s.bays := by
    have e := congrArg State.bays k.rest
    exact e
  have same : ∀ n, t.bay n = s.bay n := fun n => congrArg (fun m => sget Bay.reset m n) bays
  refine ⟨?_, fun n _ => same n, by rw [same]⟩
  exact congrArg (fun z : State => { z with crt := s.crt, stagehands := s.stagehands, bays := s.bays, links := s.links }) k.rest

theorem CpWork.crt {s t : State} (k : CpWork s t) : t.crt = s.crt := by
  have e := congrArg State.crt k.rest
  exact e

theorem CpWork.hand {s t : State} (k : CpWork s t) (l : Nat) : t.hand l = s.hand l := by
  have e := congrArg State.stagehands k.rest
  exact congrArg (fun m => sget Stagehand.idle m l) e

theorem State.hand_wakeHands (s : State) (b : Nat) (go : Nat → Stagehand → Bool) (l : Nat) : (s.wakeHands b go).hand l =
    if handBay l = b ∧ (s.hand l).running = true ∧ go l (s.hand l) = true then (s.hand l).goesOn (s.bay b).clk.cyc else s.hand l := by
  unfold State.wakeHands
  rw [State.hand, sget_smap]
  · rfl
  · exact fun _ => if_neg fun ⟨_, running, _⟩ => Bool.false_ne_true running

/-! ### Flags -/

/-- What an event makes of the flags at a node. -/
def eventOnFlags (ev : CrtEvent) (f : BitVec 256) : BitVec 256 :=
  match ev with
  | .flagSet p k => f ||| flagMask p k
  | .flagClr p k => f &&& ~~~(flagMask p k)
  | .clearAll p => f &&& ~~~(partMask p)
  | .arrive _ _ _ _ _ _ => f

/-- A stagehand waits for the flag that an event sets. -/
def eventAwaits (ev : CrtEvent) (h : Stagehand) : Prop := ∃ p k, ev = .flagSet p k ∧ h.part = p ∧ h.wait = .flag k

theorem State.flagSeen_work (s : State) (b p k : Nat) : NodeWork s (s.flagSeen b p k) b ∧ (s.flagSeen b p k).crt = s.crt ∧
    ∀ l, (s.flagSeen b p k).hand l = if handBay l = b ∧ (s.hand l).running = true ∧ (s.hand l).part = p ∧ (s.hand l).wait = .flag k
      then (s.hand l).goesOn (s.bay b).clk.cyc else s.hand l := by
  unfold State.flagSeen
  dsimp only
  have cps := CpWork.wakeCps (s.wakeHands b (fun _ h => decide (h.part = p) && decide (h.wait = .flag k))) b
    (fun n y => decide (State.partOfCp (s.wakeHands b (fun _ h => decide (h.part = p) && decide (h.wait = .flag k))) n = p) && decide (y.wait = .flag k))
  have hands := s.hand_wakeHands b (fun _ h => decide (h.part = p) && decide (h.wait = .flag k))
  have woke := NodeWork.wakeHands s b (fun _ h => decide (h.part = p) && decide (h.wait = .flag k))
  have crt : (s.wakeHands b (fun _ h => decide (h.part = p) && decide (h.wait = .flag k))).crt = s.crt := rfl
  generalize s.wakeHands b (fun _ h => decide (h.part = p) && decide (h.wait = .flag k)) = u at *
  generalize u.wakeCps b _ = v at *
  have heads := NodeWork.testHeads v b
  have seen : (v.testHeads b).crt = v.crt := rfl
  have look : ∀ l, (v.testHeads b).hand l = v.hand l := fun _ => rfl
  generalize v.testHeads b = w at *
  have work : NodeWork s w b := (woke.trans (cps.node b)).trans heads
  have same : w.crt = s.crt := seen.trans (cps.crt.trans crt)
  have went : ∀ l, w.hand l = if handBay l = b ∧ (s.hand l).running = true ∧ (s.hand l).part = p ∧ (s.hand l).wait = .flag k
      then (s.hand l).goesOn (s.bay b).clk.cyc else s.hand l := by
    intro l
    rw [look, cps.hand, hands]
    simp only [Bool.and_eq_true, decide_eq_true_eq]
  split
  · exact ⟨work.trans (.setLink w p _ b), same, went⟩
  · exact ⟨work, same, went⟩

theorem State.applyFlags_work (s : State) (b : Nat) (ev : CrtEvent) : NodeWork s (s.applyFlags b ev) b ∧
    (∃ f, (s.applyFlags b ev).crt = { s.crt with flags := f } ∧ sget 0 f b = eventOnFlags ev (sget 0 s.crt.flags b) ∧
      ∀ n, n ≠ b → sget 0 f n = sget 0 s.crt.flags n) ∧
    ∀ l, (handBay l = b ∧ (s.hand l).running = true ∧ eventAwaits ev (s.hand l) →
        (s.applyFlags b ev).hand l = (s.hand l).goesOn (s.bay b).clk.cyc) ∧
      (¬ (handBay l = b ∧ (s.hand l).running = true ∧ eventAwaits ev (s.hand l)) → (s.applyFlags b ev).hand l = s.hand l) := by
  have still : ∀ {l : Nat}, (∀ p k, ev ≠ .flagSet p k) → ¬ eventAwaits ev (s.hand l) := fun h ⟨p, k, e, _⟩ => h p k e
  cases ev with
  | flagSet p k =>
    obtain ⟨work, crt, hand⟩ := (s.setFlagsAt b (sget 0 s.crt.flags b ||| flagMask p k)).flagSeen_work b p k
    refine ⟨(NodeWork.setCrt s _ b).trans work, ⟨_, crt, sget_sset_same .., fun n h => sget_sset_other _ _ _ h⟩, fun l => ⟨?_, ?_⟩⟩
    · rintro ⟨here, running, p', k', e, part, wait⟩
      obtain ⟨rfl, rfl⟩ := CrtEvent.flagSet.inj e
      exact (hand l).trans (if_pos ⟨here, running, part, wait⟩)
    · rintro no
      exact (hand l).trans (if_neg fun ⟨here, running, part, wait⟩ => no ⟨here, running, p, k, rfl, part, wait⟩)
  | flagClr p k =>
    exact ⟨.setCrt s _ b, ⟨_, rfl, sget_sset_same .., fun n h => sget_sset_other _ _ _ h⟩,
      fun l => ⟨fun h => absurd h.2.2 (still (by simp)), fun _ => rfl⟩⟩
  | clearAll p =>
    exact ⟨.setCrt s _ b, ⟨_, rfl, sget_sset_same .., fun n h => sget_sset_other _ _ _ h⟩,
      fun l => ⟨fun h => absurd h.2.2 (still (by simp)), fun _ => rfl⟩⟩
  | arrive p n pay c cls idx =>
    exact ⟨.refl s b, ⟨_, rfl, rfl, fun _ _ => rfl⟩, fun l => ⟨fun h => absurd h.2.2 (still (by simp)), fun _ => rfl⟩⟩

/-! ### Releases -/

theorem State.applyRelease1_work (s : State) (b p n : Nat) (pay : Byte) : NodeWork s (s.applyRelease1 b p n pay) b ∧
    (s.applyRelease1 b p n pay).crt = { s.crt with
      releases := sset 0 s.crt.releases (64 * b + curtKey p n) (sget 0 s.crt.releases (64 * b + curtKey p n) + 1) } ∧
    ∀ l, (s.applyRelease1 b p n pay).hand l = if handBay l = b ∧ (s.hand l).running = true ∧ (s.hand l).part = p ∧
        (s.hand l).wait = .curtain n ∧ s.joinedOk (joinKey p 2 l) (sget 0 s.crt.releases (64 * b + curtKey p n) + 1) = true
      then (s.hand l).goesOn (s.bay b).clk.cyc else s.hand l := by
  unfold State.applyRelease1
  dsimp only
  generalize sget 0 s.crt.releases (64 * b + curtKey p n) + 1 = r
  obtain ⟨t, ht⟩ : ∃ t, t = ({ s with crt := { s.crt with releases := sset 0 s.crt.releases (64 * b + curtKey p n) r } } : State) := ⟨_, rfl⟩
  have crt : t.crt = { s.crt with releases := sset 0 s.crt.releases (64 * b + curtKey p n) r } := congrArg State.crt ht
  have counted : NodeWork s t b := by
    rw [ht]
    exact .setCrt s _ b
  have same : ∀ l, t.hand l = s.hand l := by
    rw [ht]
    exact fun _ => rfl
  have clock : (t.bay b).clk = (s.bay b).clk := by
    rw [ht]
    rfl
  have joined : ∀ k, t.joinedOk k r = s.joinedOk k r := by
    rw [ht]
    exact fun _ => rfl
  rw [← ht]
  have hands := t.hand_wakeHands b (fun l h => decide (h.part = p) && decide (h.wait = .curtain n) && t.joinedOk (joinKey p 2 l) r)
  have woke := NodeWork.wakeHands t b (fun l h => decide (h.part = p) && decide (h.wait = .curtain n) && t.joinedOk (joinKey p 2 l) r)
  have kept : (t.wakeHands b (fun l h => decide (h.part = p) && decide (h.wait = .curtain n) && t.joinedOk (joinKey p 2 l) r)).crt = t.crt := rfl
  generalize t.wakeHands b _ = u at *
  have cps := CpWork.wakeCps u b (fun m y => decide (u.partOfCp m = p) && decide (y.wait = .curtain n) && u.joinedOk (joinKey p 6 m) r)
  generalize u.wakeCps b _ = v at *
  have work : NodeWork s v b := (counted.trans woke).trans (cps.node b)
  have net := cps.crt.trans (kept.trans crt)
  have went : ∀ l, v.hand l = if handBay l = b ∧ (s.hand l).running = true ∧ (s.hand l).part = p ∧ (s.hand l).wait = .curtain n ∧
      s.joinedOk (joinKey p 2 l) r = true then (s.hand l).goesOn (s.bay b).clk.cyc else s.hand l := by
    intro l
    rw [cps.hand, hands, same, clock, joined]
    simp only [Bool.and_eq_true, decide_eq_true_eq, and_assoc]
  split
  · split
    · split
      · exact ⟨work.trans (.setLink v p _ b), net, went⟩
      · exact ⟨work, net, went⟩
    · exact ⟨work, net, went⟩
  · exact ⟨work, net, went⟩

/-! ### The list of numbered events -/

theorem State.pruneEvents_work (s : State) :
    { s.pruneEvents with crt := s.crt, regs := s.regs } = s ∧ (∀ a, a ≠ 0x708004 → s.pruneEvents.reg a = s.reg a) ∧
    (s.pruneEvents.crt = s.crt ∨ s.pruneEvents.crt =
      { s.crt with numbered := s.crt.numbered.drop 1, applied := smap 0 (fun _ n => n - 1) s.crt.applied }) := by
  unfold State.pruneEvents
  split
  · rename_i e rest list
    split
    · dsimp only
      generalize s.clock.house - e.time = late
      rcases State.maxFld_cases { s with crt := { s.crt with numbered := rest, applied := smap 0 (fun _ n => n - 1) s.crt.applied } }
        0x708004 15 0 late with h | ⟨w, h⟩
      · rw [h]
        exact ⟨rfl, fun _ _ => rfl, .inr (by rw [list]; rfl)⟩
      · rw [h]
        exact ⟨rfl, fun a ha => State.reg_setReg_other _ _ ha, .inr (by rw [list]; rfl)⟩
    · exact ⟨rfl, fun _ _ => rfl, .inl rfl⟩
  · exact ⟨rfl, fun _ _ => rfl, .inl rfl⟩

/-! ### The event as a whole -/

/-- What a node does with the release of an event, if it is one. -/
def State.afterRelease (s : State) (b : Nat) (rel : Option (Nat × Nat × Byte)) : State :=
  match rel with
  | some (p, n, pay) => s.applyRelease1 b p n pay
  | none => s

/-- A stagehand waits for the release rel, having joined the generation it ends. -/
def releaseAwaits (s : State) (b : Nat) (rel : Option (Nat × Nat × Byte)) (l : Nat) (h : Stagehand) : Prop :=
  ∃ p n pay, rel = some (p, n, pay) ∧ h.part = p ∧ h.wait = .curtain n ∧
    s.joinedOk (joinKey p 2 l) (sget 0 s.crt.releases (64 * b + curtKey p n) + 1) = true

theorem State.afterRelease_work (s : State) (b : Nat) (rel : Option (Nat × Nat × Byte)) : NodeWork s (s.afterRelease b rel) b ∧
    (∃ r, (s.afterRelease b rel).crt = { s.crt with releases := r } ∧
      ∀ p n pay, rel = some (p, n, pay) → sget 0 r (64 * b + curtKey p n) = sget 0 s.crt.releases (64 * b + curtKey p n) + 1) ∧
    ∀ l, (handBay l = b ∧ (s.hand l).running = true ∧ releaseAwaits s b rel l (s.hand l) →
        (s.afterRelease b rel).hand l = (s.hand l).goesOn (s.bay b).clk.cyc) ∧
      (¬ (handBay l = b ∧ (s.hand l).running = true ∧ releaseAwaits s b rel l (s.hand l)) → (s.afterRelease b rel).hand l = s.hand l) := by
  cases rel with
  | none =>
    exact ⟨.refl s b, ⟨_, rfl, fun _ _ _ h => absurd h (Option.some_ne_none _).symm⟩,
      fun l => ⟨fun ⟨_, _, p, n, pay, h, _⟩ => absurd h (Option.some_ne_none _).symm, fun _ => rfl⟩⟩
  | some x =>
    obtain ⟨p, n, pay⟩ := x
    obtain ⟨work, crt, hand⟩ := s.applyRelease1_work b p n pay
    refine ⟨work, ⟨_, crt, fun p' n' pay' h => ?_⟩, fun l => ⟨?_, fun no => ?_⟩⟩
    · obtain ⟨rfl, rfl, -⟩ := Prod.mk.injEq .. ▸ Option.some.inj h
      exact sget_sset_same ..
    · rintro ⟨here, running, p', n', pay', h, part, wait, joined⟩
      obtain ⟨rfl, rfl, -⟩ := Prod.mk.injEq .. ▸ Option.some.inj h
      exact (hand l).trans (if_pos ⟨here, running, part, wait, joined⟩)
    · exact (hand l).trans (if_neg fun ⟨here, running, part, wait, joined⟩ => no ⟨here, running, p, n, pay, rfl, part, wait, joined⟩)

/-- What the node of bay b makes of event e: its state before the list is pruned. -/
def State.appliesEvent (s : State) (b : Nat) (e : CrtNum) : State :=
  (State.applyFlags { s with crt := { s.crt with applied := sset 0 s.crt.applied b (sget 0 s.crt.applied b + 1) } } b e.ev).afterRelease b e.release

theorem State.appliesEvent_work (s : State) (b : Nat) (e : CrtNum) : NodeWork s (s.appliesEvent b e) b ∧
    (∃ f r, (s.appliesEvent b e).crt =
        { s.crt with applied := sset 0 s.crt.applied b (sget 0 s.crt.applied b + 1), flags := f, releases := r } ∧
      sget 0 f b = eventOnFlags e.ev (sget 0 s.crt.flags b) ∧ (∀ n, n ≠ b → sget 0 f n = sget 0 s.crt.flags n) ∧
      ∀ p n pay, e.release = some (p, n, pay) → sget 0 r (64 * b + curtKey p n) = sget 0 s.crt.releases (64 * b + curtKey p n) + 1) ∧
    (∀ l, handBay l = b → (s.hand l).running = true → eventAwaits e.ev (s.hand l) ∨ releaseAwaits s b e.release l (s.hand l) →
      (s.appliesEvent b e).hand l = (s.hand l).goesOn (s.bay b).clk.cyc) ∧
    ∀ l, handBay l ≠ b ∨ (s.hand l).running = false ∨ (∀ k, (s.hand l).wait ≠ .flag k ∧ (s.hand l).wait ≠ .curtain k) →
      (s.appliesEvent b e).hand l = s.hand l := by
  unfold State.appliesEvent
  obtain ⟨u, hu⟩ : ∃ u, u = ({ s with crt := { s.crt with applied := sset 0 s.crt.applied b (sget 0 s.crt.applied b + 1) } } : State) := ⟨_, rfl⟩
  have counted : NodeWork s u b := by
    rw [hu]
    exact .setCrt s _ b
  have crt := congrArg State.crt hu
  have same : ∀ l, u.hand l = s.hand l := by
    rw [hu]
    exact fun _ => rfl
  have clock : (u.bay b).clk = (s.bay b).clk := by
    rw [hu]
    rfl
  rw [← hu]
  clear hu
  obtain ⟨seen, ⟨f, net, here, away⟩, hands⟩ := u.applyFlags_work b e.ev
  simp only [same, clock] at hands
  generalize u.applyFlags b e.ev = v at *
  have clock2 : (v.bay b).clk = (s.bay b).clk := by
    have e := congrArg Bay.clk seen.bay
    exact e.trans clock
  obtain ⟨released, ⟨r, net2, counts⟩, hands2⟩ := v.afterRelease_work b e.release
  simp only [clock2] at hands2
  generalize v.afterRelease b e.release = w at *
  have joins : ∀ l h, releaseAwaits v b e.release l h ↔ releaseAwaits s b e.release l h := by
    intro l h
    unfold releaseAwaits State.joinedOk
    rw [net, crt]
  simp only [joins] at hands2
  refine ⟨(counted.trans seen).trans released, ⟨f, r, ?_, ?_, fun n hn => ?_, fun p n pay h => ?_⟩, fun l bay running waits => ?_, fun l still => ?_⟩
  · rw [net2, net, crt]
  · rw [here, crt]
  · rw [away n hn, crt]
  · rw [counts p n pay h, net, crt]
  · obtain ⟨go, stay⟩ := hands l
    obtain ⟨go2, stay2⟩ := hands2 l
    by_cases flag : eventAwaits e.ev (s.hand l)
    · have went := go ⟨bay, running, flag⟩
      rw [stay2, went]
      rintro ⟨-, -, p, n, pay, -, -, wait, -⟩
      rw [went, Stagehand.goesOn_wait] at wait
      exact ShWait.noConfusion wait
    · have stays := stay fun h => flag h.2.2
      rw [go2, stays]
      rw [stays]
      exact ⟨bay, running, waits.resolve_left flag⟩
  · obtain ⟨-, stay⟩ := hands l
    obtain ⟨-, stay2⟩ := hands2 l
    have stays : v.hand l = s.hand l := by
      refine stay ?_
      rintro ⟨bay, running, p, k, -, -, wait⟩
      rcases still with h | h | h
      · exact h bay
      · exact Bool.false_ne_true (h.symm.trans running)
      · exact (h k).1 wait
    rw [stay2, stays]
    rw [stays]
    rintro ⟨bay, running, p, n, pay, -, -, wait, -⟩
    rcases still with h | h | h
    · exact h bay
    · exact Bool.false_ne_true (h.symm.trans running)
    · exact (h n).2 wait

/-- Settles O36: the flags, then the release, then the list of numbered events. -/
theorem eventsApplyAtEveryNodeInOrder : Obligations.EventsApplyAtEveryNodeInOrder := by
  intro s b e next
  have runs : exec (.eventApplication b) s = .next (s.appliesEvent b e).pruneEvents := by
    show execEventApplication b s = _
    unfold execEventApplication
    dsimp only
    rw [next]
    rfl
  obtain ⟨work, ⟨f, r, net, here, away, counts⟩, go, stay⟩ := s.appliesEvent_work b e
  generalize s.appliesEvent b e = u at *
  obtain ⟨rest, regs, pruned⟩ := u.pruneEvents_work
  have bays : u.pruneEvents.bays = u.bays := by
    have e := congrArg State.bays rest
    exact e
  have bay : ∀ k, u.pruneEvents.bay k = u.bay k := fun k => congrArg (fun m => sget Bay.reset m k) bays
  have hand : ∀ l, u.pruneEvents.hand l = u.hand l := by
    have e : u.pruneEvents.stagehands = u.stagehands := by
      have e := congrArg State.stagehands rest
      exact e
    exact fun l => congrArg (fun m => sget Stagehand.idle m l) e
  have sent : u.regs = s.regs := by
    have e := congrArg State.regs work.rest
    exact e
  have flags : u.pruneEvents.crt.flags = u.crt.flags := by rcases pruned with h | h <;> rw [h]
  have releases : u.pruneEvents.crt.releases = u.crt.releases := by rcases pruned with h | h <;> rw [h]
  refine ⟨_, runs, ?_, fun a ha => (regs a ha).trans ?_, fun k hk => (bay k).trans (work.others k hk), ?_, ?_, fun n hn => ?_, ?_, fun p n pay h => ?_,
    fun l hl run waits => (hand l).trans (go l hl run ?_), fun l still => (hand l).trans (stay l still)⟩
  · exact (congrArg (fun z : State => { z with
      crt := s.crt, stagehands := s.stagehands, cps := s.cps, ctxs := s.ctxs, bays := s.bays, links := s.links, regs := s.regs }) rest).trans
      (congrArg (fun z : State => { z with regs := s.regs }) work.rest)
  · exact congrArg (fun m => sget (regReset a) m a) sent
  · rw [bay]
    exact work.bay
  · rw [flags, net]
    exact here.trans (by cases e.ev <;> rfl)
  · rw [flags, net]
    exact away n hn
  · have applied : sget 0 u.crt.applied b = sget 0 s.crt.applied b + 1 := by
      rw [net]
      dsimp only
      exact sget_sset_same 0 _ b.val _
    have list : u.crt.numbered = s.crt.numbered := by rw [net]
    rcases pruned with h | h
    · rw [h]
      exact .inl ⟨list, applied⟩
    · rw [h]
      refine .inr ⟨congrArg (List.drop 1) list, ?_⟩
      rw [sget_smap, applied, Nat.add_sub_cancel]
      exact fun _ => rfl
  · rw [releases, net]
    exact counts p n pay h
  · rcases waits with ⟨p, k, set, part, wait⟩ | ⟨p, n, pay, rel, part, wait, joined⟩
    · exact .inl ⟨p, k, set, part, wait⟩
    · exact .inr ⟨p, n, pay, rel, part, wait, joined⟩

end Sys2Proof.Machine
end

section
/-!
Curtain network: its registers, and the packets of the cue network that have come to their node (O37).
-/
namespace Sys2Proof.Machine

-- One declaration after another: the whole text elaborated in parallel outgrows the memory of its check.
set_option Elab.async false

/-- An event of the root's node for each 1 among the bits l of a word. -/
theorem writeFlags_sends (ev : Nat → CrtEvent) (plain : ∀ k p n pay c cls idx, ev k ≠ .arrive p n pay c cls idx) (hi : Bool) (v : Word)
    (l : List Nat) (s : State) :
    l.foldl (fun s i => if bit v i then s.sendCrt 17 (ev (i + (if hi then 32 else 0))) else s) s =
      { s with crt := { s.crt with waiting := s.crt.waiting ++ (l.filter (fun i => bit v i)).map (fun i =>
        { ev := ev (i + (if hi then 32 else 0)), node := 17, time := s.clock.house, cp := none }) } } := by
  induction l generalizing s with
  | nil => simp
  | cons i l ih =>
    rw [List.foldl_cons, ih]
    by_cases one : bit v i = true
    · rw [if_pos one, List.filter_cons_of_pos one, List.map_cons]
      have sent : s.sendCrt 17 (ev (i + (if hi then 32 else 0))) = { s with crt := { s.crt with waiting := s.crt.waiting ++
          [{ ev := ev (i + (if hi then 32 else 0)), node := 17, time := s.clock.house, cp := none }] } } := by
        have other := plain (i + (if hi then 32 else 0))
        unfold State.sendCrt State.sendCrtOf
        generalize ev (i + (if hi then 32 else 0)) = e at other
        cases e with
        | arrive p n pay c cls idx => exact absurd rfl (other p n pay c cls idx)
        | flagSet p k => rfl
        | flagClr p k => rfl
        | clearAll p => rfl
      rw [sent]
      simp only [List.append_assoc, List.cons_append, List.nil_append]
    · rw [if_neg one, List.filter_cons_of_neg one]

/-- Settles O37: the flag registers' events one by one, the curtain's new value at once or kept for the next generation, and the
packet that nothing stands before. -/
theorem curtainRegistersAndCuePackets : Obligations.CurtainRegistersAndCuePackets := by
  refine ⟨fun s on => ⟨fun p hi v => ⟨?_, ?_⟩, fun p n v => ?_⟩, fun s i x here come first room => ?_⟩
  · refine (whenOn_on on).trans (congrArg _ ?_)
    exact writeFlags_sends (fun k => .flagSet p k) (fun _ _ _ _ _ _ _ => CrtEvent.noConfusion) hi v _ s
  · refine (whenOn_on on).trans (congrArg _ ?_)
    exact writeFlags_sends (fun k => .flagClr p k) (fun _ _ _ _ _ _ _ => CrtEvent.noConfusion) hi v _ s
  · have runs : exec (.crtCurtcfgWrite p n v) s = .next (s.writeCurtcfg p n v) := whenOn_on on
    have takes : ∃ c, s.writeCurtcfg p n v = s.setCurtain p n c ∧ c = (if (s.curtain p n).arrived = 0
        then { s.curtain p n with chain := bit v 31, count := fld v 13 0, next := none }
        else { s.curtain p n with next := some (bit v 31, fld v 13 0) }) := by
      unfold State.writeCurtcfg
      dsimp only
      split
      · exact ⟨_, rfl, rfl⟩
      · exact ⟨_, rfl, rfl⟩
    obtain ⟨c, set, value⟩ := takes
    rw [set] at runs
    exact ⟨_, runs, rfl, rfl, fun q m h => State.curtain_setCurtain_other _ _ _ _ _ _ h, (State.curtain_setCurtain_same ..).trans value⟩
  · have none_before : ((s.cuePkts.take i).any (fun y => decide (y.node = x.node) && decide (y.inp = x.inp) &&
        decide (y.pkt.high = x.pkt.high) && s.cueHere y)) = false := by
      rw [List.any_eq_false]
      intro y hy
      simp only [Bool.and_eq_true, decide_eq_true_eq, not_and, and_imp, Bool.not_eq_true]
      exact first y hy
    show execCuePacketArrival i s = _
    unfold execCuePacketArrival
    rw [here]
    dsimp only
    rw [come, none_before, decide_eq_true room]
    rfl

end Sys2Proof.Machine
end

section
/-!
Call sheets: what a cue processor does with its oldest entry (O38).
-/
namespace Sys2Proof.Machine

-- One declaration after another: the whole text elaborated in parallel outgrows the memory of its check.
set_option Elab.async false

/-- A cue processor works for the context switched in. -/
theorem cpCtx_current {s : State} {n c : Nat} (h : s.cpCtx n = some c) :
    s.curCtx (s.partOfCp n) = some c ∧ ((s.ctx (s.partOfCp n) c).st = 4 ∨ (s.ctx (s.partOfCp n) c).st = 5) := by
  unfold State.cpCtx at h
  dsimp only at h
  split at h
  · rename_i d cur
    split at h
    · rename_i ok
      obtain rfl := Option.some.inj h
      simp only [Bool.and_eq_true, decide_eq_true_eq] at ok
      exact ⟨cur, ok.1.1.1⟩
    · exact absurd h (Option.some_ne_none _).symm
  · exact absurd h (Option.some_ne_none _).symm

theorem OnlyCp.setCp (s : State) (n : Nat) (y : CueProc) : OnlyCp s (s.setCp n y) n y :=
  ⟨State.cp_setCp_same .., fun _ hk => State.cp_setCp_other _ _ _ _ hk⟩

section
variable {s : State} {n c : Nat} {e : CsEntry} {rest : List CsEntry}

theorem EntryReady.entryAt (h : EntryReady s n c e rest) : s.entryAt n = some (c, e) := by
  unfold State.entryAt
  dsimp only
  rw [h.ctx, h.head]
  dsimp only [List.head?_cons]
  rw [h.inPass, h.going, h.wait, h.fresh]
  rfl

/-- An entry of the kind a command names is acted on. -/
theorem EntryReady.does (h : EntryReady s n c e rest) {kind : Nat} (go : Nat → CsEntry → State) (is : e.kind = kind)
    (listed : kind ≤ 8) : entryDo kind n go s = .next (go c e) := by
  unfold entryDo
  rw [h.entryAt]
  dsimp only
  rw [if_neg (by omega), if_pos is]

/-- An entry of an unlisted kind halts the cue processor. -/
theorem EntryReady.unlisted (h : EntryReady s n c e rest) (kind : Nat) (go : Nat → CsEntry → State) (k : 8 < e.kind) :
    entryDo kind n go s = .next (s.cpFault n fltOpcode) := by
  unfold entryDo
  rw [h.entryAt]
  dsimp only
  rw [if_pos k]

theorem State.setCp_setCtx_frame (s : State) (n p c : Nat) (y : CueProc) (x : Context) :
    { (s.setCp n y).setCtx p c x with cps := s.cps, ctxs := s.ctxs } = s := by
  unfold State.setCtx State.setCp
  dsimp only

theorem State.setCp_sendCue_frame (s : State) (n : Nat) (y : CueProc) (x : CuePkt) :
    { (s.setCp n y).sendCue x with cps := s.cps, cuePkts := s.cuePkts } = s := by
  unfold State.sendCue State.setCp
  dsimp only

/-- The oldest entry of a cue processor that works for context c retires. -/
theorem retires_entry (cur : s.curCtx (s.partOfCp n) = some c) (head : (s.cp n).fetched = e :: rest) :
    Retired s (s.cpRetire n) n c e rest := by
  have taken : s.cpRetire n = (s.setCp n { s.cp n with
      fetched := rest, wait := .none, batchPos := 0, granted := false, registered := false }).setCtx (s.partOfCp n) c
        { s.ctx (s.partOfCp n) c with
          rdptr := sset 0 (s.ctx (s.partOfCp n) c).rdptr n (if s.ringSize n c = 0 then 0 else (e.index + 1) % s.ringSize n c) } := by
    unfold State.cpRetire
    dsimp only
    rw [head]
    dsimp only
    generalize ({ s.cp n with fetched := rest, wait := .none, batchPos := 0, granted := false, registered := false } : CueProc) = y
    have cur' : (s.setCp n y).curCtx ((s.setCp n y).partOfCp n) = some c := cur
    rw [cur']
    rfl
  rw [taken]
  refine ⟨?_, ⟨?_, fun k hk => ?_⟩, ?_, fun p d hd => ?_⟩
  · exact State.setCp_setCtx_frame ..
  · exact State.cp_setCp_same ..
  · exact State.cp_setCp_other _ _ _ _ hk
  · rw [State.ctx_setCtx_same]
  · exact State.ctx_setCtx_other _ _ _ _ _ _ hd

theorem EntryReady.retired (h : EntryReady s n c e rest) : Retired s (s.cpRetire n) n c e rest :=
  retires_entry (cpCtx_current h.ctx).1 h.head

/-- A cue processor that works for context c halts at its oldest entry. -/
theorem halts_entry (cur : s.curCtx (s.partOfCp n) = some c) (head : (s.cp n).fetched = e :: rest) (reason : Nat) :
    CueHalts s (s.cpFault n reason) n c reason e := by
  have halted : s.cpFault n reason = (s.setCp n { s.cp n with halted := true }).sendFault reason (s.partOfCp n) c 6 0xFF n e.bookoff e.addr
      [e.num 0 1, e.num 1 1, e.num 2 1, e.num 3 1] := by
    unfold State.cpFault
    dsimp only
    rw [head, cur]
    rfl
  rw [halted]
  unfold State.sendFault
  refine ⟨State.setCp_sendCue_frame .., ⟨?_, fun k hk => ?_⟩, rfl⟩
  · exact State.cp_setCp_same ..
  · exact State.cp_setCp_other _ _ _ _ hk

theorem EntryReady.halts (h : EntryReady s n c e rest) (reason : Nat) : CueHalts s (s.cpFault n reason) n c reason e :=
  halts_entry (cpCtx_current h.ctx).1 h.head reason

/-- A flag or curtain event of the entry is on its way. -/
theorem sendsFlag (small : e.arg ≤ 63) (ev : Nat → Nat → CrtEvent)
    (plain : ∀ p k q m pay d cls idx, ev p k ≠ .arrive q m pay d cls idx) :
    OnlyCp s (s.cueFlag n e ev) n { s.cp n with registered := true } ∧
      { s.cueFlag n e ev with cps := s.cps } = { s with crt := { s.crt with
        waiting := s.crt.waiting ++ [{ ev := ev (s.partOfCp n) e.arg, node := cpNode n, time := s.clock.house, cp := some n }] } } := by
  have other := plain (s.partOfCp n) e.arg
  unfold State.cueFlag
  rw [if_neg (Nat.not_lt.mpr small)]
  generalize ev (s.partOfCp n) e.arg = v at other
  unfold State.sendCrtOf
  cases v with
  | arrive q m pay d cls idx => exact absurd rfl (other q m pay d cls idx)
  | flagSet p k => exact ⟨.mk (State.cp_setCp_same ..) fun _ hk => State.cp_setCp_other _ _ _ _ hk, rfl⟩
  | flagClr p k => exact ⟨.mk (State.cp_setCp_same ..) fun _ hk => State.cp_setCp_other _ _ _ _ hk, rfl⟩
  | clearAll p => exact ⟨.mk (State.cp_setCp_same ..) fun _ hk => State.cp_setCp_other _ _ _ _ hk, rfl⟩

end

/-- Settles O38: each kind by what its command does, the bad ones by `State.cpFault`. -/
theorem callSheetEntriesActOnTheNetwork : Obligations.CallSheetEntriesActOnTheNetwork := by
  intro s n c e rest h
  refine ⟨fun k => ?_, fun k small set => ?_, fun k small clear => ?_, fun i ev small which => ?_, fun k small => ?_, fun k small => ?_, fun k => ?_,
    fun i k lim listed kind big => ?_, fun i listed unlisted => ?_⟩
  · exact ⟨_, h.does _ k (by decide), h.retired⟩
  · refine ⟨_, h.does _ k (by decide), ?_⟩
    dsimp only
    rw [if_neg (Nat.not_lt.mpr small), if_pos set]
    exact h.retired
  · refine (h.does _ k (by decide)).trans (congrArg _ ?_)
    rw [if_neg (Nat.not_lt.mpr small), clear]
    rfl
  · rcases which with ⟨k, rfl, rfl⟩ | ⟨k, rfl, rfl⟩
    · exact ⟨_, h.does _ k (by decide), sendsFlag small .flagSet fun _ _ _ _ _ _ _ _ => CrtEvent.noConfusion⟩
    · exact ⟨_, h.does _ k (by decide), sendsFlag small .flagClr fun _ _ _ _ _ _ _ _ => CrtEvent.noConfusion⟩
  · refine ⟨_, h.does _ k (by decide), ?_⟩
    dsimp only
    rw [if_neg (Nat.not_lt.mpr small)]
    refine ⟨.mk (State.cp_setCp_same ..) fun _ hk => State.cp_setCp_other _ _ _ _ hk, ?_⟩
    unfold State.sendCrt State.sendCrtOf State.setCp
    dsimp only
  · refine (h.does _ k (by decide)).trans (congrArg _ ?_)
    rw [if_neg (Nat.not_lt.mpr small)]
  · exact h.does _ k (by decide)
  · have halts := h.halts fltRange
    simp only [List.mem_cons, Prod.mk.injEq, List.not_mem_nil, or_false] at listed
    rcases listed with ⟨rfl, rfl, rfl⟩ | ⟨rfl, rfl, rfl⟩ | ⟨rfl, rfl, rfl⟩ | ⟨rfl, rfl, rfl⟩ | ⟨rfl, rfl, rfl⟩
    all_goals exact ⟨_, (h.does _ kind (by decide)).trans (congrArg _ (if_pos big)), halts⟩
  · have halts := h.halts fltOpcode
    simp only [List.mem_cons, List.not_mem_nil, or_false] at listed
    rcases listed with rfl | rfl | rfl | rfl | rfl | rfl | rfl | rfl | rfl
    all_goals exact ⟨_, h.unlisted _ _ unlisted, halts⟩

end Sys2Proof.Machine
end

section
/-!
Reads of the memories without an uncorrectable error, and the packets of a call sheet (O39).
-/
namespace Sys2Proof.Machine

-- One declaration after another: the whole text elaborated in parallel outgrows the memory of its check.
set_option Elab.async false

/-! ### What a clean read changes -/

theorem ReadWork.refl (s : State) : ReadWork s s := ⟨rfl, rfl, fun _ _ => rfl⟩

theorem ReadWork.trans {s t u : State} (g : ReadWork s t) (h : ReadWork t u) : ReadWork s u := by
  refine ⟨?_, ?_, fun a ha => (h.regs a ha).trans (g.regs a ha)⟩
  · exact (congrArg (fun z : State => { z with regs := s.regs, ymr := s.ymr }) h.rest).trans g.rest
  · exact (congrArg (fun y : Yemir => { y with ceHist := s.ymr.ceHist }) h.ymr).trans g.ymr

theorem ctlOf_lt (a : Nat) : ctlOf a < 20 := by
  unfold ctlOf
  split <;> omega

/-- A counter of blocks goes up. -/
theorem ReadWork.setReg (s : State) {x : Nat} (v : Word) (own : ∀ a, (∀ c, a ≠ aMem c 0x04 ∧ a ≠ aMem c 0x18) → a ≠ x) :
    ReadWork s (s.setReg x v) :=
  ⟨State.setReg_frame .., rfl, fun a ha => State.reg_setReg_other _ _ (own a ha)⟩

theorem ReadWork.tally (s : State) (l : List (Nat × Nat)) : ReadWork s { s with ymr := { s.ymr with ceHist := l } } :=
  ⟨rfl, rfl, fun _ _ => rfl⟩

/-- A controller counts the blocks it reads. -/
theorem ReadWork.countWrap (s : State) (c n : Nat) : ReadWork s (s.countWrap (aMem c 0x18) n) :=
  .setReg s _ fun _ ha => (ha c).2

theorem isLrCounter_of_mem {a n off : Nat} (h : locate a = some (.mem n, off)) : isLrCounter a = false := by
  unfold isLrCounter
  rw [h]

theorem ReadWork.countAt (s : State) {x : Nat} (n : Nat) (lr : isLrCounter x = false)
    (own : ∀ a, (∀ c, a ≠ aMem c 0x04 ∧ a ≠ aMem c 0x18) → a ≠ x) : ReadWork s (s.countSat x n) := by
  have counted := ReadWork.setReg s (satInc (s.reg x) n) own
  unfold State.countSat
  rw [lr]
  generalize s.setReg x (satInc (s.reg x) n) = t at counted
  dsimp only
  split
  · exact counted.trans (.tally _ _)
  · exact counted

/-- A controller counts the errors it corrects. -/
theorem ReadWork.countSat (s : State) {c : Nat} (hc : c < 20) (n : Nat) : ReadWork s (s.countSat (aMem c 0x04) n) := by
  have place := locate_mem hc (off := 0x04) (by omega)
  have own : ∀ a, (∀ c, a ≠ aMem c 0x04 ∧ a ≠ aMem c 0x18) → a ≠ aMem c 0x04 := fun _ ha => (ha c).1
  exact .countAt s n (isLrCounter_of_mem place) own

theorem ReadWork.mem {s t : State} (g : ReadWork s t) : t.mem = s.mem ∧ t.memErr = s.memErr := by
  have m := congrArg State.mem g.rest
  have e := congrArg State.memErr g.rest
  exact ⟨m, e⟩

theorem ReadWork.blockErr {s t : State} (g : ReadWork s t) (b : Nat) : t.blockErr b = s.blockErr b := by
  unfold State.blockErr
  rw [g.mem.2]

/-- A block without an uncorrectable error is read. -/
theorem State.readBlock_clean (s : State) (a : Nat) (clean : s.blockErr a ≠ 2) :
    ∃ t, s.readBlock a = (t, some (t.memBytes (a / 256 * 256) 256)) ∧ ReadWork s t := by
  unfold State.readBlock
  dsimp only
  obtain ⟨t, ht, work⟩ : ∃ t, (if 0 < s.blockFixes a then (s.countWrap (aMem (ctlOf a) 0x18) 1).countSat (aMem (ctlOf a) 0x04) (s.blockFixes a)
      else s.countWrap (aMem (ctlOf a) 0x18) 1) = t ∧ ReadWork s t := by
    refine ⟨_, rfl, ?_⟩
    split
    · exact (ReadWork.countWrap s (ctlOf a) 1).trans (.countSat _ (ctlOf_lt a) _)
    · exact .countWrap s (ctlOf a) 1
  rw [ht, if_neg (by rw [work.blockErr]; exact clean)]
  exact ⟨t, rfl, work⟩

theorem State.readBlocks_clean (s : State) (l : List Nat) (clean : ∀ b ∈ l, s.blockErr b ≠ 2) :
    ∃ t, s.readBlocks l = (t, none) ∧ ReadWork s t := by
  induction l generalizing s with
  | nil => exact ⟨s, rfl, .refl s⟩
  | cons b l ih =>
    obtain ⟨t, read, work⟩ := s.readBlock_clean b (clean b List.mem_cons_self)
    obtain ⟨u, rest, more⟩ := ih t fun x hx => by
      rw [work.blockErr]
      exact clean x (List.mem_cons_of_mem _ hx)
    refine ⟨u, ?_, work.trans more⟩
    unfold State.readBlocks
    rw [read]
    exact rest

theorem State.readMem_clean (s : State) (a n : Nat) (clean : ∀ b ∈ blocksOf a n, s.blockErr b ≠ 2) :
    ∃ t, s.readMem a n = (t, some (s.memBytes a n)) ∧ ReadWork s t := by
  obtain ⟨t, read, work⟩ := s.readBlocks_clean _ clean
  refine ⟨t, ?_, work⟩
  unfold State.readMem
  rw [read]

theorem CueReads.read {s : State} {p c a n : Nat} (h : CueReads s p c a n) :
    ∃ t, s.cueRead p c a n = (t, .ok (s.memBytes a n)) ∧ ReadWork s t := by
  obtain ⟨t, read, work⟩ := s.readMem_clean a n h.clean
  refine ⟨t, ?_, work⟩
  unfold State.cueRead
  rw [h.quota, h.installed, h.open_, read]
  rfl

/-! ### The packet of an entry -/

/-- From s to t a read may have been counted, and the cue processors and the cue network are as in s. -/
theorem ReadWork.cues {s t : State} (g : ReadWork s t) : t.cps = s.cps ∧ t.cuePkts = s.cuePkts ∧ t.cueCyc = s.cueCyc := by
  have a := congrArg State.cps g.rest
  have b := congrArg State.cuePkts g.rest
  have c := congrArg State.cueCyc g.rest
  exact ⟨a, b, c⟩

section
variable {s t : State} {n c : Nat} {e : CsEntry} {ws : List Word}

/-- After a read, a cue processor takes y and a packet enters the cue network. -/
theorem ReadWork.sends (work : ReadWork s t) (n : Nat) (y : CueProc) (x : CuePkt) :
    ReadWork { s with cps := ((t.setCp n y).sendCue x).cps, cuePkts := ((t.setCp n y).sendCue x).cuePkts } ((t.setCp n y).sendCue x) ∧
    ((t.setCp n y).sendCue x).cuePkts = (s.sendCue x).cuePkts ∧ OnlyCp s ((t.setCp n y).sendCue x) n y := by
  obtain ⟨cps, pkts, cyc⟩ := work.cues
  refine ⟨⟨?_, work.ymr, work.regs⟩, ?_, ⟨State.cp_setCp_same .., fun k hk => ?_⟩⟩
  · unfold State.sendCue State.setCp
    dsimp only
    exact congrArg (fun z : State => { z with
      cps := sset CueProc.idle t.cps n y, cuePkts := t.cuePkts ++ ([{ pkt := x, node := x.source, inp := 0, ready := t.cueCyc }] : List CueTransit) }) work.rest
  · unfold State.sendCue State.setCp
    dsimp only
    rw [pkts, cyc]
  · exact (State.cp_setCp_other _ _ _ _ hk).trans (congrArg (fun m => sget CueProc.idle m k) cps)

/-- The packet of an entry, once read, leaves in its slot. -/
theorem sendPacket_leaves (read : s.nextPacket n c e = (t, .ok ws)) (work : ReadWork s t) : PacketLeft s (s.sendPacket n c e) n c e ws ∧
    ((s.sendPacket n c e).regs = t.regs ∧ (s.sendPacket n c e).ymr = t.ymr) := by
  obtain ⟨cps, pkts, cyc⟩ := work.cues
  have cp : t.cp n = s.cp n := congrArg (fun m => sget CueProc.idle m n) cps
  have sent : s.sendPacket n c e = (t.setCp n { s.cp n with wait := .none, granted := true, registered := true }).sendCue
      (.command (s.targetOf n e).cls (s.targetOf n e).bay (s.targetOf n e).index (s.targetOf n e).queue ws (s.targetOf n e).part c e.bookoff n) := by
    unfold State.sendPacket
    dsimp only
    rw [read]
    dsimp only
    rw [cp]
  rw [sent]
  obtain ⟨frame, packet, only⟩ := work.sends n ({ s.cp n with wait := .none, granted := true, registered := true } : CueProc)
    (.command (s.targetOf n e).cls (s.targetOf n e).bay (s.targetOf n e).index (s.targetOf n e).queue ws (s.targetOf n e).part c e.bookoff n)
  exact ⟨⟨frame, packet, only⟩, rfl, rfl⟩

/-- A CMD carries its packet. -/
theorem nextPacket_command (k : e.kind = 1) : s.nextPacket n c e = (s, .ok e.packet) := if_pos k

/-- A BATCH reads its packet. -/
theorem nextPacket_batch (k : e.kind = 2) (h : CueReads s (s.partOfCp n) c (e.batchAddr + 32 * (s.cp n).batchPos) 32) :
    ∃ t, s.nextPacket n c e = (t, .ok (slotWords (s.memBytes (e.batchAddr + 32 * (s.cp n).batchPos) 32))) ∧ ReadWork s t := by
  obtain ⟨t, read, work⟩ := h.read
  refine ⟨t, ?_, work⟩
  unfold State.nextPacket
  rw [if_neg (by omega)]
  dsimp only
  rw [read]

/-- The packet that a CMD or BATCH entry has to deliver. -/
def deliversPacket (s : State) (n c : Nat) (e : CsEntry) (ws : List Word) : Prop :=
  e.kind = 1 ∧ ws = e.packet ∨ (e.kind = 2 ∧ CueReads s (s.partOfCp n) c (e.batchAddr + 32 * (s.cp n).batchPos) 32 ∧
    ws = slotWords (s.memBytes (e.batchAddr + 32 * (s.cp n).batchPos) 32))

theorem packetLeft (h : deliversPacket s n c e ws) :
    PacketLeft s (s.sendPacket n c e) n c e ws ∧ (e.kind = 1 → (s.sendPacket n c e).regs = s.regs ∧ (s.sendPacket n c e).ymr = s.ymr) := by
  rcases h with ⟨k, rfl⟩ | ⟨k, reads, rfl⟩
  · obtain ⟨left, same⟩ := sendPacket_leaves (nextPacket_command k) (.refl s)
    exact ⟨left, fun _ => same⟩
  · obtain ⟨t, read, work⟩ := nextPacket_batch k reads
    exact ⟨(sendPacket_leaves read work).1, fun h => absurd (h.symm.trans k) (by decide)⟩

/-- A CMD or a BATCH with packets left, whose own checks pass. -/
def deliverCommand (s : State) (n : Fin 4) (c : Nat) (e : CsEntry) (i : Instr) : Prop :=
  (e.kind = 1 ∧ i = .cmd n) ∨ (e.kind = 2 ∧ i = .batch n ∧ e.batchAddr % 32 = 0 ∧ 0 < e.arg ∧
    (s.ctx (s.partOfCp n) c).hbmOk e.batchAddr (32 * e.arg) = true)

theorem EntryReady.delivers {n : Fin 4} {rest : List CsEntry} (h : EntryReady s n c e rest) {i : Instr} (d : deliverCommand s n c e i) :
    exec i s = .next (match s.targetBad n e with | some r => s.cpFault n r | none => s.deliver n c e) := by
  rcases d with ⟨k, rfl⟩ | ⟨k, rfl, aligned, some_, quota⟩
  · exact h.does _ k (by decide)
  · refine (h.does _ k (by decide)).trans (congrArg _ ?_)
    dsimp only
    rw [if_neg (not_not_intro aligned), if_neg (by rw [quota]; simp)]
    cases s.targetBad n e with
    | some r => rfl
    | none => exact if_neg (by omega)

end

/-- Settles O39: the checks, the slot, and the packet that `State.sendPacket` reads and sends. -/
theorem callSheetPacketsLeaveInTheirSlot : Obligations.CallSheetPacketsLeaveInTheirSlot := by
  intro s n c e rest
  refine ⟨fun ws packet => ⟨fun i h d good room alone => ?_, fun since ctx head wait going room first => ?_⟩, fun h => ⟨fun i d => ⟨fun good busy => ?_, fun r bad => ?_⟩, fun k aligned empty good => ?_⟩⟩
  · refine ⟨_, h.delivers d, ?_⟩
    rw [good]
    dsimp only
    unfold State.deliver
    dsimp only
    rw [if_pos ⟨room, by rw [alone]; rfl⟩]
    exact packetLeft packet
  · have none_before : ((s.slotWaiters (s.targetOf n e)).any fun w => decide (w.1 < since) || (decide (w.1 = since) && decide (w.2 < n))) = false := by
      rw [List.any_eq_false]
      intro w hw
      have later := first w hw
      simp only [Bool.or_eq_true, Bool.and_eq_true, decide_eq_true_eq]
      omega
    have runs : exec (.queueSlotGrant n) s = .next (s.sendPacket n c e) := by
      show execQueueSlotGrant n s = _
      unfold execQueueSlotGrant
      dsimp only
      rw [ctx, head, wait]
      dsimp only [List.head?_cons]
      rw [if_pos ⟨room, none_before, going⟩]
    exact ⟨_, runs, packetLeft packet⟩
  · rw [h.delivers d, good]
    dsimp only
    unfold State.deliver
    dsimp only
    rw [if_neg]
    rintro ⟨few, alone⟩
    rcases busy with full | waited
    · exact absurd few (Nat.not_lt.mpr full)
    · exact waited (List.isEmpty_iff.mp alone)
  · refine ⟨_, h.delivers d, ?_⟩
    rw [bad]
    exact h.halts r
  · refine ⟨_, (h.does _ k (by decide)), ?_⟩
    dsimp only
    rw [if_neg (not_not_intro aligned), if_neg (fun h => by omega), good]
    dsimp only
    rw [if_pos empty]
    exact h.retired

end Sys2Proof.Machine
end

section
/-!
Scene boundaries: why their statement fails (O40). The answer to a waiting STOP may need a new key of its chain link, the key a
signature, the signature the last block of one-time indices, whose log entry may raise the risk score over a threshold: its alert
puts an in-band interrupt on the pins, which the statement keeps.
-/
namespace Sys2Proof.Machine

-- One declaration after another: the whole text elaborated in parallel outgrows the memory of its check.
set_option Elab.async false

/-- A STOP without a session that came over the chain. -/
def Tests.chainStop : PcpHdr := { Tests.hdr with session := 0, via := some 1 }

/-- The counts of the W link are used up, one block of indices is left, and the risk score stands at its lowest threshold. -/
def Tests.lastIndices (s : State) : State :=
  { s with
    chain := { s.chain with w := { s.chain.w with msgTx := [(1, 2 ^ 64 - 1)] } }
    ymr := { s.ymr with xmssNext := xmssIndices - 1024, xmssReserved := xmssIndices - 1024, riskE := 96 } }

/-- Context 0, stopping, with its STOP to answer; its cue processors stand at the end of their sheets. -/
def Tests.stopping : State :=
  (List.range 4).foldl (fun s n => s.setCp n { CueProc.idle with inPass := true, wait := .boundary none })
    ((Tests.lastIndices (Tests.cue [])).setCtx 0 0 { Context.free with st := 5, hbmSize := 0x100000, stops := [(Tests.chainStop, none)] })

/-- The boundary completes with an interrupt to the tray. -/
theorem stopping_interrupts : ∃ t, exec (.sceneBoundary 0) Tests.stopping = .next t ∧ t.pins.ibi = some 1 :=
  ⟨_, rfl, by decide +kernel⟩

/-- Refutes O40: the boundary changes the pins. -/
theorem not_fetchesPassesAndBoundaries : ¬ Obligations.FetchesPassesAndBoundaries := by
  rintro ⟨-, -, boundary⟩
  obtain ⟨t, ht, frame, -⟩ := boundary Tests.stopping 0 0 none (by decide) (by decide) (by decide) (by decide) (by decide) (by decide)
    (by decide) (by decide)
  obtain ⟨u, hu, interrupt⟩ := stopping_interrupts
  obtain rfl : u = t := Host.Outcome.next.inj (hu.symm.trans ht)
  have pins : u.pins = Tests.stopping.pins := by
    have e := congrArg State.pins frame
    exact e
  rw [pins] at interrupt
  exact absurd interrupt (by decide)

end Sys2Proof.Machine
end

section
/-!
Buckets: why their statement fails (O43). The RECOMP of a chunk that disagrees goes over the chain, whose link agrees a new key when
its count is used up: a free value is drawn, which the statement's frame leaves out.
-/
namespace Sys2Proof.Machine

-- One declaration after another: the whole text elaborated in parallel outgrows the memory of its check.
set_option Elab.async false

/-- A bucket whose sampled chunk 0 disagrees. -/
def Tests.disagreeing : Bucket :=
  { Bucket.fresh 0 5 2 256 1024 0 with chunks := [(0, Tests.bhdr, [0])], checks := [(0, { Tests.bhdr with check := true }, [0x4000])] }

/-- It stands on module 0 of two, whose link to the other has used up its message counts. -/
def Tests.usedLink : State :=
  State.setCast
    (({ Tests.up with chain := { Chain.reset with addr := some 0, count := 2, e := { Chain.reset.e with msgTx := [(3, 2 ^ 64 - 1)] } } } : State).setLink 0
      { LinkEng.idle with buckets := [Tests.disagreeing] }) 2 { CastList.empty with members := [0, 1] }

/-- The comparison sends RECOMP, under a key drawn for it. -/
theorem usedLink_draws : ∃ t, exec (.sampledChunkCompare 0 0 0) Tests.usedLink = .next t ∧ t.free = Tests.usedLink.free + 1 :=
  ⟨_, rfl, by decide +kernel⟩

/-- Refutes O43: the comparison draws a free value. -/
theorem not_bucketsOfAStep : ¬ Obligations.BucketsOfAStep := by
  intro h
  obtain ⟨-, -, -, -, compare, -⟩ := h Tests.usedLink 0
  obtain ⟨-, disagree⟩ := compare 0 0 Tests.disagreeing Tests.bhdr [0] [0x4000] [] (by decide) (by decide)
  obtain ⟨t, ht, -, work, -⟩ := disagree (by decide)
  obtain ⟨u, hu, drawn⟩ := usedLink_draws
  obtain rfl : u = t := Host.Outcome.next.inj (hu.symm.trans ht)
  have same : u.free = Tests.usedLink.free := by
    have e := congrArg State.free work.rest
    exact e
  exact absurd (same.symm.trans drawn) (Nat.ne_of_lt (Nat.lt_succ_self _))

end Sys2Proof.Machine
end
